-- ==== Sys2Proof/Word.lean ====
section
/-! DEFINITION. The words of the part: bytes, 24-bit byte addresses and 16-bit counters. -/

namespace Sys2Proof

/-- A byte as it crosses a port (R185, R186). -/
abbrev Byte := BitVec 8

/-- A byte address of the array, 000000h to FFFFFFh (R1). -/
abbrev Addr := BitVec 24

/-- A 16-bit counter or number (R21, R117, R155). -/
abbrev Word16 := BitVec 16

/-- The low byte of a number. -/
def byteOf (n : Nat) : Byte := BitVec.ofNat 8 n

end Sys2Proof
end

