-- ==== Sys2Proof/Syntax.lean ====
section
/-! DEFINITION. The commands of the part: one constructor of `Instr` for each row of spec/opcode_table.json.
A host frame carries the port that sends it and the fields of its fixed part, as bytes (R154, R185, R187). -/

namespace Sys2Proof

/-- The three host ports. -/
inductive Port where
  | a
  | b
  | c
deriving DecidableEq, Repr

/-- Which moment of a frame with an output phase a row is (R138): the end of the frame's fixed part, with its
fields, where a view is taken or a stream opens; or the rise of chip-select, with the number of whole bytes the
host clocked out before it (a partly clocked byte does not count: R120, R142, R148). -/
inductive FramePart (α : Type) where
  | fixed (fields : α)
  | rise (clocked : Nat)
deriving DecidableEq, Repr

/-- The five steps of start-up, in order (R177). -/
inductive StartUpStep where
  | slotChoice
  | mapLoad
  | enables
  | assessment
  | ready
deriving DecidableEq, Repr

/-- A run of start-up (R177): it goes on from the step it has reached (R179) to the end of one, with the supply voltage,
in mV, at step 4. -/
structure StartUpRun where
  through : StartUpStep
  mv : Nat
deriving DecidableEq, Repr

/-- How an operation ends (R55): DONE, or with the failure status of its kind. -/
inductive EndOutcome where
  | done
  | failed
deriving DecidableEq, Repr

/-- The rows of the table. -/
inductive Instr where
  /-- READ_ARRAY (R8): the end of the dummy byte of a READ ARRAY frame. -/
  | readArray (p : Port) (addr : Addr)
  /-- QUAD_READ_ARRAY (R8). -/
  | quadReadArray (p : Port) (addr : Addr)
  /-- BLOCK_CROSSING (R12): the host clocks the stream on into the next block, of the same bank. -/
  | blockCrossing (p : Port)
  /-- TARGET_ENTRY (R12): the host clocks the stream on to the first byte of the parked target. -/
  | targetEntry (p : Port)
  /-- BLOCK_CROSSING_NEW_BANK (R13): the host clocks the stream on into the next block, of another bank. -/
  | blockCrossingNewBank (p : Port)
  /-- READ_STREAM_CLOSE (R15): `clocked` more whole bytes are clocked out, then chip-select rises. -/
  | readStreamClose (p : Port) (clocked : Nat)
  /-- LOAD_BUFFER (R104). -/
  | loadBuffer (p : Port) (handle offset : Byte) (data : List Byte)
  /-- LOAD_BUFFER_QUAD (R107). -/
  | loadBufferQuad (p : Port) (handle offset : Byte) (data : List Byte)
  /-- DISCARD_BUFFER (R109). -/
  | discardBuffer (p : Port) (handle : Byte)
  /-- READ_BUFFER (R108): the fields are the handle and the offset. -/
  | readBuffer (p : Port) (m : FramePart (Byte × Byte))
  /-- READ_STATUS (R146). -/
  | readStatus (p : Port) (m : FramePart Unit)
  /-- READ_IDENTITY (R149). -/
  | readIdentity (p : Port) (m : FramePart Unit)
  /-- MAP_STAGE_BEGIN (R161). -/
  | mapStageBegin (p : Port)
  /-- MAP_STAGE_REGION (R162). -/
  | mapStageRegion (p : Port) (index defined first last readMask writeMask limit : Byte)
  /-- MAP_STAGE_PROFILE (R163). -/
  | mapStageProfile (p : Port) (code ceiling window fill : Byte)
  /-- MAP_STAGE_AUTHORITY (R163). -/
  | mapStageAuthority (p : Port) (code : Byte)
  /-- MAP_COMMIT (R165). -/
  | mapCommit (p : Port) (tag : Byte)
  /-- MAP_DISCARD (R164). -/
  | mapDiscard (p : Port)
  /-- READ_MAP (R170): the field is the selector. -/
  | readMap (p : Port) (m : FramePart Byte)
  /-- SUBMIT_PROGRAM (R24). -/
  | submitProgram (p : Port) (handle : Byte) (addr : Addr) (tag cls : Byte)
  /-- SUBMIT_SECTOR_ERASE (R24). -/
  | submitSectorErase (p : Port) (addr : Addr) (tag cls : Byte)
  /-- SUBMIT_BLOCK_ERASE (R24). -/
  | submitBlockErase (p : Port) (addr : Addr) (tag cls : Byte)
  /-- CANCEL (R32). -/
  | cancel (p : Port) (tag : Byte)
  /-- READ_QUEUE (R43). -/
  | readQueue (p : Port) (m : FramePart Unit)
  /-- CLAIM_REGION (R83). -/
  | claimRegion (p : Port) (index : Byte)
  /-- RENEW_LEASE (R86). -/
  | renewLease (p : Port) (index : Byte)
  /-- RELEASE_REGION (R88). -/
  | releaseRegion (p : Port) (index : Byte)
  /-- READ_REGIONS (R98). -/
  | readRegions (p : Port) (m : FramePart Unit)
  /-- POP_COMPLETION (R120). -/
  | popCompletion (p : Port) (m : FramePart Unit)
  /-- READ_NOTICES (R127). -/
  | readNotices (p : Port) (m : FramePart Unit)
  /-- SET_NOTICE_ENABLES (R128). -/
  | setNoticeEnables (p : Port) (enables : Byte)
  /-- SIGNAL_PORT (R130). -/
  | signalPort (p : Port) (target value : Byte)
  /-- READ_MAILBOX (R132). -/
  | readMailbox (p : Port) (m : FramePart Unit)
  /-- READ_INTERRUPTED (R183). -/
  | readInterrupted (p : Port) (m : FramePart Unit)
  /-- CLEAR_INTERRUPTED (R184). -/
  | clearInterrupted (p : Port)
  /-- PORT_RESET (R151). -/
  | portReset (p : Port)
  /-- FRAME_ENDS_SHORT (R139, R140): `bits` bits of the frame were received before chip-select rose. -/
  | frameEndsShort (p : Port) (bits : Nat)
  /-- UNKNOWN_OPCODE (R139). -/
  | unknownOpcode (p : Port) (opcode : Byte)
  /-- INQUIRY_DROPPED (R142). -/
  | inquiryDropped (p : Port)
  /-- NOT_READY_ANSWER (R144). -/
  | notReadyAnswer (p : Port) (m : FramePart Unit)
  /-- OPERATION_END (R56). -/
  | operationEnd (outcome : EndOutcome)
  /-- SUSPEND_POINT (R63). -/
  | suspendPoint
  /-- READ_WINDOW_STEP (R66). -/
  | readWindowStep
  /-- READ_WINDOW_CLOSE (R66). -/
  | readWindowClose
  /-- LEASE_TICK (R90). -/
  | leaseTick
  /-- LEASE_EXPIRY (R93). -/
  | leaseExpiry (region : Fin 16)
  /-- SUPPLY_MARGINAL (R172, R173): the supply voltage, in mV, that makes the change. -/
  | supplyMarginal (mv : Nat)
  /-- SUPPLY_NORMAL (R172, R70). -/
  | supplyNormal (mv : Nat)
  /-- SUPPLY_FAILED (R174). -/
  | supplyFailed (mv : Nat)
  /-- POWER_ON_DETECTION (R175). -/
  | powerOnDetection (mv : Nat)
  /-- RESET_FALL (R180). -/
  | resetFall
  /-- RESET_RISE (R181). -/
  | resetRise
  /-- START_UP (R177). -/
  | startUp (run : StartUpRun)
deriving DecidableEq, Repr

/-- One thing for each of the four data lines of a port (R135). -/
structure IoLines (α : Type) where
  io0 : α
  io1 : α
  io2 : α
  io3 : α
deriving DecidableEq, Repr

/-- What happens on the lines of a port (R135): chip-select falls; the clock makes a period, at whose rising edge the
host holds the data lines at these levels; chip-select rises. -/
inductive PinEvent where
  | fall
  | clock (levels : IoLines Bool)
  | rise
deriving DecidableEq, Repr

/-- What the part waits for beside the queue of commands: an event on the lines of a port; a row of the table that is
to be taken between two such events (log 32); the stop of the array after a cut-off, which has no row (R72, R181,
log 16). -/
inductive Input where
  | pin (p : Port) (e : PinEvent)
  | command (c : Instr)
  | arrayStops
deriving DecidableEq, Repr

end Sys2Proof
end

