-- ==== Sys2Proof/Decode.lean ====
section
/-! DEFINITION. Decoding. The table of commands gives no row any bits, so no word spells a command. What crosses a
port is a frame of bytes (R136 to R142, R185, R187): `decodeFrame` gives the commands a frame is, `encodeFrame` the
frame of a command, and `frameShape` the length of a fixed part and what follows it. -/

namespace Sys2Proof

/-- The command that a word spells by the table's bits: the table gives no row any (log 20). -/
def decodeTableWord (_nbits _w : Nat) : Option Instr := none

/-- What a port received between a fall and the next rise of chip-select (R136): the whole bytes, counting those
clocked during an output phase, and the bits of a last partial byte. -/
structure Frame where
  bytes : List Byte
  extraBits : Nat
deriving DecidableEq, Repr

/-- R187: the opcodes of the commands. Any other complete opcode byte is an unknown opcode (R139, R185). -/
def commandOpcodes : List Byte :=
  [0x48, 0x4C, 0x56, 0x57, 0x59, 0x5A, 0x71, 0x7E, 0x91, 0x93, 0x95, 0x96, 0x97, 0x99, 0x9A, 0xA2, 0xA4, 0xA6,
   0xA9, 0xAE, 0xC1, 0xC3, 0xC6, 0xCA, 0xE2, 0xE4, 0xE6, 0xE8, 0xEA, 0xF2, 0xF4, 0xF9]

/-- R185: a 3-byte address, most significant byte first. -/
def addrOf (b2 b1 b0 : Byte) : Addr := BitVec.ofNat 24 (b2.toNat * 65536 + b1.toNat * 256 + b0.toNat)

/-- R185: the bytes of an address, most significant first. -/
def addrBytes (a : Addr) : List Byte := [byteOf (a.toNat / 65536), byteOf (a.toNat / 256), byteOf a.toNat]

/-- A frame with an output phase whose fixed part is complete: its two moments, `out` being the bytes clocked. -/
def twoMoments {α : Type} (row : FramePart α → Instr) (fields : α) (out : List Byte) : List Instr :=
  [row (.fixed fields), row (.rise out.length)]

/-- An array read: opened at its dummy byte, closed at the rise (the re-check points between, which depend on the
array's state, are rows of their own). One that ends before its dummy byte is dropped (R142). -/
def decodeArrayRead (row : Addr → Instr) (p : Port) : List Byte → List Instr
  | a :: b :: c :: _ :: out => [row (addrOf a b c), .readStreamClose p out.length]
  | _ => [.inquiryDropped p]

/-- The command a complete opcode byte opens, from the bytes after it (R140, R141, R142, R187). `short` is what a
frame gives that ends inside its fixed part. -/
def decodeCommand (p : Port) (op : Byte) (rest : List Byte) (short : List Instr) : List Instr :=
  if op = 0x48 then decodeArrayRead (.readArray p) p rest
  else if op = 0x4C then decodeArrayRead (.quadReadArray p) p rest
  else if op = 0x56 then
    match rest with
    | h :: o :: d :: ds => [.loadBuffer p h o (d :: ds)]
    | _ => short
  else if op = 0x57 then
    match rest with
    | h :: o :: d :: ds => [.loadBufferQuad p h o (d :: ds)]
    | _ => short
  else if op = 0x59 then
    match rest with
    | h :: _ => [.discardBuffer p h]
    | _ => short
  else if op = 0x5A then
    match rest with
    | h :: o :: _ :: out => twoMoments (.readBuffer p) (h, o) out
    | _ => [.inquiryDropped p]
  else if op = 0x71 then twoMoments (.readStatus p) () rest
  else if op = 0x7E then twoMoments (.readIdentity p) () rest
  else if op = 0x91 then [.mapStageBegin p]
  else if op = 0x93 then
    match rest with
    | i :: d :: f :: l :: r :: w :: m :: _ => [.mapStageRegion p i d f l r w m]
    | _ => short
  else if op = 0x95 then
    match rest with
    | k :: c :: w :: f :: _ => [.mapStageProfile p k c w f]
    | _ => short
  else if op = 0x96 then
    match rest with
    | k :: _ => [.mapStageAuthority p k]
    | _ => short
  else if op = 0x97 then
    match rest with
    | t :: _ => [.mapCommit p t]
    | _ => short
  else if op = 0x99 then [.mapDiscard p]
  else if op = 0x9A then
    match rest with
    | k :: _ :: out => twoMoments (.readMap p) k out
    | _ => [.inquiryDropped p]
  else if op = 0xA2 then
    match rest with
    | h :: a :: b :: c :: t :: k :: _ => [.submitProgram p h (addrOf a b c) t k]
    | _ => short
  else if op = 0xA4 then
    match rest with
    | a :: b :: c :: t :: k :: _ => [.submitSectorErase p (addrOf a b c) t k]
    | _ => short
  else if op = 0xA6 then
    match rest with
    | a :: b :: c :: t :: k :: _ => [.submitBlockErase p (addrOf a b c) t k]
    | _ => short
  else if op = 0xA9 then
    match rest with
    | t :: _ => [.cancel p t]
    | _ => short
  else if op = 0xAE then twoMoments (.readQueue p) () rest
  else if op = 0xC1 then
    match rest with
    | i :: _ => [.claimRegion p i]
    | _ => short
  else if op = 0xC3 then
    match rest with
    | i :: _ => [.renewLease p i]
    | _ => short
  else if op = 0xC6 then
    match rest with
    | i :: _ => [.releaseRegion p i]
    | _ => short
  else if op = 0xCA then twoMoments (.readRegions p) () rest
  else if op = 0xE2 then twoMoments (.popCompletion p) () rest
  else if op = 0xE4 then twoMoments (.readNotices p) () rest
  else if op = 0xE6 then
    match rest with
    | e :: _ => [.setNoticeEnables p e]
    | _ => short
  else if op = 0xE8 then
    match rest with
    | t :: v :: _ => [.signalPort p t v]
    | _ => short
  else if op = 0xEA then twoMoments (.readMailbox p) () rest
  else if op = 0xF2 then twoMoments (.readInterrupted p) () rest
  else if op = 0xF4 then [.clearInterrupted p]
  else if op = 0xF9 then [.portReset p]
  else [.unknownOpcode p op]

/-- The commands that a frame of a port is, in order. A fall and rise of chip-select with no bit between them is no
frame (R136). -/
def decodeFrame (p : Port) (f : Frame) : List Instr :=
  match f.bytes with
  | [] => if f.extraBits = 0 then [] else [.frameEndsShort p f.extraBits]
  | op :: rest => decodeCommand p op rest [.frameEndsShort p (8 * f.bytes.length + f.extraBits)]

/-- The frame of a host's command, up to the end of its fixed part, with its port (R185, R187); a dummy byte is
00h. Rows that no frame's bytes spell have none. -/
def encodeFrame : Instr → Option (Port × List Byte)
  | .readArray p a => some (p, 0x48 :: addrBytes a ++ [0])
  | .quadReadArray p a => some (p, 0x4C :: addrBytes a ++ [0])
  | .loadBuffer p h o d => some (p, 0x56 :: h :: o :: d)
  | .loadBufferQuad p h o d => some (p, 0x57 :: h :: o :: d)
  | .discardBuffer p h => some (p, [0x59, h])
  | .readBuffer p (.fixed f) => some (p, [0x5A, f.1, f.2, 0])
  | .readStatus p (.fixed _) => some (p, [0x71])
  | .readIdentity p (.fixed _) => some (p, [0x7E])
  | .mapStageBegin p => some (p, [0x91])
  | .mapStageRegion p i d f l r w m => some (p, [0x93, i, d, f, l, r, w, m])
  | .mapStageProfile p k c w f => some (p, [0x95, k, c, w, f])
  | .mapStageAuthority p k => some (p, [0x96, k])
  | .mapCommit p t => some (p, [0x97, t])
  | .mapDiscard p => some (p, [0x99])
  | .readMap p (.fixed k) => some (p, [0x9A, k, 0])
  | .submitProgram p h a t k => some (p, 0xA2 :: h :: addrBytes a ++ [t, k])
  | .submitSectorErase p a t k => some (p, 0xA4 :: addrBytes a ++ [t, k])
  | .submitBlockErase p a t k => some (p, 0xA6 :: addrBytes a ++ [t, k])
  | .cancel p t => some (p, [0xA9, t])
  | .readQueue p (.fixed _) => some (p, [0xAE])
  | .claimRegion p i => some (p, [0xC1, i])
  | .renewLease p i => some (p, [0xC3, i])
  | .releaseRegion p i => some (p, [0xC6, i])
  | .readRegions p (.fixed _) => some (p, [0xCA])
  | .popCompletion p (.fixed _) => some (p, [0xE2])
  | .readNotices p (.fixed _) => some (p, [0xE4])
  | .setNoticeEnables p e => some (p, [0xE6, e])
  | .signalPort p t v => some (p, [0xE8, t, v])
  | .readMailbox p (.fixed _) => some (p, [0xEA])
  | .readInterrupted p (.fixed _) => some (p, [0xF2])
  | .clearInterrupted p => some (p, [0xF4])
  | .portReset p => some (p, [0xF9])
  | .unknownOpcode p op => some (p, [op])
  | .readBuffer _ (.rise _) => none
  | .readStatus _ (.rise _) => none
  | .readIdentity _ (.rise _) => none
  | .readMap _ (.rise _) => none
  | .readQueue _ (.rise _) => none
  | .readRegions _ (.rise _) => none
  | .popCompletion _ (.rise _) => none
  | .readNotices _ (.rise _) => none
  | .readMailbox _ (.rise _) => none
  | .readInterrupted _ (.rise _) => none
  | .blockCrossing _ => none
  | .targetEntry _ => none
  | .blockCrossingNewBank _ => none
  | .readStreamClose _ _ => none
  | .frameEndsShort _ _ => none
  | .inquiryDropped _ => none
  | .notReadyAnswer _ _ => none
  | .operationEnd _ => none
  | .suspendPoint => none
  | .readWindowStep => none
  | .readWindowClose => none
  | .leaseTick => none
  | .leaseExpiry _ => none
  | .supplyMarginal _ => none
  | .supplyNormal _ => none
  | .supplyFailed _ => none
  | .powerOnDetection _ => none
  | .resetFall => none
  | .resetRise => none
  | .startUp _ => none

/-- R138, R154: what follows the fixed part of a command. -/
inductive AfterFixed where
  | trailing
  | dataIn
  | dataOut
  | stream
deriving DecidableEq, Repr

/-- R138, R154, R187: the number of bytes of a command's fixed part after its opcode, and what follows it; `none`
for an unknown opcode. -/
def frameShape (op : Byte) : Option (Nat × AfterFixed) :=
  if op = 0x48 ∨ op = 0x4C then some (4, .stream)
  else if op = 0x5A then some (3, .stream)
  else if op = 0x56 ∨ op = 0x57 then some (3, .dataIn)
  else if op = 0x71 ∨ op = 0x7E ∨ op = 0xAE ∨ op = 0xCA ∨ op = 0xF2 ∨ op = 0xE2 ∨ op = 0xE4 ∨ op = 0xEA then
    some (0, .dataOut)
  else if op = 0x9A then some (2, .dataOut)
  else if op = 0x91 ∨ op = 0x99 ∨ op = 0xF4 ∨ op = 0xF9 then some (0, .trailing)
  else if op = 0x59 ∨ op = 0x96 ∨ op = 0x97 ∨ op = 0xA9 ∨ op = 0xC1 ∨ op = 0xC3 ∨ op = 0xC6 ∨ op = 0xE6 then
    some (1, .trailing)
  else if op = 0xE8 then some (2, .trailing)
  else if op = 0x95 then some (4, .trailing)
  else if op = 0xA4 ∨ op = 0xA6 then some (5, .trailing)
  else if op = 0xA2 then some (6, .trailing)
  else if op = 0x93 then some (7, .trailing)
  else none

end Sys2Proof
end

