-- ==== Sys2Proof/Config.lean ====
section
/-! DEFINITION. What the part fixes once and for all: its sizes and limits, its supply thresholds, and the one
free value of the spec, the byte read from unsettled content. -/

namespace Sys2Proof.Config

/-- R1: the array has 16,777,216 bytes. -/
def arrayBytes : Nat := 16777216
/-- R1. -/
def pageBytes : Nat := 256
/-- R1. -/
def sectorBytes : Nat := 4096
/-- R1. -/
def blockBytes : Nat := 65536
/-- R1. -/
def bankBytes : Nat := 4194304

/-- R3, R100: the erased value, and the fill of a freshly allocated buffer. -/
def erased : Byte := 0xFF

/-- R20: the Work Queue never holds more than 12 entries. -/
def queueCapacity : Nat := 12
/-- R118: a port's entries and records together never exceed 8. -/
def portCredit : Nat := 8
/-- R65: an erase's suspend count never exceeds 16. -/
def suspendLimit : Nat := 16
/-- R36: an entry whose bypass count reaches 8 is promoted. -/
def bypassLimit : Nat := 8
/-- R103: no port owns more than 4 Program Buffers. -/
def bufferOwnership : Nat := 4

/-- R172, in mV: NORMAL falls below it to MARGINAL. -/
def marginalBelow : Nat := 2750
/-- R172, in mV: MARGINAL rises above it to NORMAL; R177 step 4 compares with it too. -/
def normalAbove : Nat := 2850
/-- R172, in mV: the supply falls below it to FAILED. -/
def failedBelow : Nat := 2450
/-- R172, in mV: power-on detection. -/
def powerOnAbove : Nat := 2600

/-- R156: a generation of 65535 admits no further commit. -/
def generationSpent : Word16 := 0xFFFF

/-- R4: "A read of an unsettled byte delivers a byte value that the part does not guarantee. Two reads of the same
unsettled byte need not agree." FREE VALUE (log 3): the byte of the k-th read, at an address. It has no body, so
nothing can be proved of it. -/
opaque unsettledByte : Addr → Nat → Byte

end Sys2Proof.Config
end

