-- ==== Sys2Proof/Machine/State.lean ====
section
/-! DEFINITION. The state of the part as plain data, every piece of it under the name the spec gives it, the
reasons a command can stop, and the state right after power-on detection. -/

namespace Sys2Proof.Machine

/-! ### Ports, masks, notices -/

/-- One thing for each port. -/
structure PerPort (α : Type) where
  a : α
  b : α
  c : α
deriving DecidableEq, Repr

/-- A set of ports: a read mask or a write mask (R74). -/
structure PortSet where
  a : Bool
  b : Bool
  c : Bool
deriving DecidableEq, Repr

/-- The eight notice kinds (R122). -/
inductive NoticeKind where
  | completion
  | leaseGranted
  | leaseLost
  | leaseWarning
  | readConflict
  | mapChanged
  | peerSignal
  | deviceEvent
deriving DecidableEq, Repr

/-- One flag for each notice kind (R122). -/
structure NoticeFlags where
  completion : Bool
  leaseGranted : Bool
  leaseLost : Bool
  leaseWarning : Bool
  readConflict : Bool
  mapChanged : Bool
  peerSignal : Bool
  deviceEvent : Bool
deriving DecidableEq, Repr

/-- The Last Response codes (R143, R188). -/
inductive Response where
  | ok
  | waiting
  | frameError
  | badCommand
  | badParameter
  | badAddress
  | undefinedRegion
  | noBuffer
  | notReady
  | noPermission
  | notHolder
  | pendingWork
  | tagInUse
  | unknownTag
  | started
  | noCredit
  | queueFull
  | noHandle
  | regionBusy
  | mapPending
  | notAuthority
  | noStage
  | badMap
  | generationSpent
  | mailboxFull
deriving DecidableEq, Repr

/-! ### The region map -/

/-- The definition fields of a region (R74). -/
structure RegionDef where
  first : Byte
  last : Byte
  readMask : PortSet
  writeMask : PortSet
  limit : Byte
deriving DecidableEq, Repr

/-- The lease states of a DEFINED region (R78). -/
inductive LeaseState where
  | free
  | held
  | draining
  | frozen
deriving DecidableEq, Repr

/-- The lease fields of a region (R74). -/
structure Lease where
  state : LeaseState
  holder : Option Port
  remaining : Nat
  waiters : List Port
  drain : Nat
deriving DecidableEq, Repr

/-- A DEFINED entry of the Region Table (R74); an UNDEFINED entry is `none` and holds no further fields. -/
structure Region where
  definition : RegionDef
  lease : Lease
deriving DecidableEq, Repr

/-- A Port Profile (R150). -/
structure Profile where
  ceiling : Nat
  window : Nat
  fill : Byte
deriving DecidableEq, Repr

/-- A map image: authority, 16 region definitions, 3 profiles (R155, R160). -/
structure MapImage where
  authority : Option Port
  regions : List (Option RegionDef)
  profiles : PerPort Profile
deriving DecidableEq, Repr

/-- The names of the two configuration slots (R155). -/
inductive SlotName where
  | x
  | y
deriving DecidableEq, Repr

/-- A configuration slot: image, generation, commit mark (R155). -/
structure Slot where
  image : MapImage
  generation : Word16
  mark : Bool
deriving DecidableEq, Repr

/-! ### The Work Queue and the Completion Queues -/

/-- Entry kinds (R18). -/
inductive EntryKind where
  | program
  | sectorErase
  | blockErase
  | mapCommit
deriving DecidableEq, Repr

/-- The target of an array operation, by the number of its unit (R1). -/
inductive Target where
  | page (n : Nat)
  | sector (n : Nat)
  | block (n : Nat)
deriving DecidableEq, Repr

/-- Entry states (R19). -/
inductive EntryState where
  | queued
  | running
  | suspending
  | suspended
deriving DecidableEq, Repr

/-- A Work Queue entry (R18). Its bank is the bank of its target (R1): `Entry.bank`. -/
structure Entry where
  port : Port
  tag : Byte
  kind : EntryKind
  target : Option Target
  region : Option Nat
  buffer : Option Nat
  requestedClass : Nat
  effectiveClass : Nat
  bypass : Nat
  state : EntryState
  orphaned : Bool
  suspendCount : Nat
  arrival : Word16
deriving DecidableEq, Repr

/-- Completion statuses (R115). -/
inductive Status where
  | done
  | programFailed
  | eraseFailed
  | cancelled
  | leaseLost
  | mapWriteFailed
deriving DecidableEq, Repr

/-- A Completion Record (R115). -/
structure CompletionRecord where
  sequence : Word16
  tag : Byte
  kind : EntryKind
  target : Addr
  status : Status
  effectiveClass : Nat
  suspendCount : Nat
deriving DecidableEq, Repr

/-- What a full Peer Mailbox holds (R129). -/
structure Signal where
  sender : Port
  value : Byte
deriving DecidableEq, Repr

/-! ### Program Buffers -/

/-- Buffer states (R100). -/
inductive BufferState where
  | free
  | filling
  | bound
deriving DecidableEq, Repr

/-- A Program Buffer: its state and its 256 bytes (R100). -/
structure Buffer where
  state : BufferState
  data : List Byte
deriving DecidableEq, Repr

/-! ### Frames in progress -/

/-- A read stream (R7). `fill` is the fill byte of a fill stream, and `quad` says whether it delivers on IO0 to
IO3 (R8). The current block is the block of `current`. -/
structure ReadStream where
  current : Addr
  held : Option (Fin 4)
  fill : Option Byte
  quad : Bool
deriving DecidableEq, Repr

/-- A READ BUFFER stream (R108): the buffer its handle mapped at the opening, if any, and the frame's offset. -/
structure BufferStream where
  buffer : Option Nat
  offset : Byte
deriving DecidableEq, Repr

/-- The view inquiries that only deliver (R138). -/
inductive InquiryKind where
  | identity
  | queue
  | regions
  | map
  | interrupted
deriving DecidableEq, Repr

/-- The view a DATA_OUT frame delivers (R138), with what its rise must remember of it. -/
inductive View where
  /-- A frame answered NOT_READY (R144): 00h on IO1 or, for QUAD READ ARRAY, on IO0 to IO3. -/
  | notReady (quad : Bool)
  /-- READ STATUS: its bytes and the sticky flags the view showed (R146, R148). -/
  | status (bytes : List Byte) (conflict denied : Bool)
  /-- A view inquiry that changes no state (R138). -/
  | inquiry (kind : InquiryKind) (bytes : List Byte)
  /-- POP COMPLETION: the record at the head, or the empty record (R119). -/
  | completion (head : Option CompletionRecord)
  /-- READ NOTICES: the pending set and the enable set (R126). -/
  | notices (pending enables : NoticeFlags)
  /-- READ MAILBOX: the mailbox (R132). -/
  | mailbox (content : Option Signal)
deriving DecidableEq, Repr

/-- The frame state of a port (R136); STREAM is a read stream or a READ BUFFER stream. RECEIVING, TRAILING and
DATA_IN hold the whole bytes received, the opcode first; a row that is a whole frame passes through them (log 7). -/
inductive FrameState where
  | deselected
  | receiving (bytes : List Byte)
  | trailing (bytes : List Byte)
  | dataIn (bytes : List Byte)
  | dataOut (view : View)
  | readStream (stream : ReadStream)
  | bufferStream (stream : BufferStream)
  | inert
deriving DecidableEq, Repr

/-- The state of one port. -/
structure PortState where
  /-- Whether the chip-select input is low (R135). -/
  csLow : Bool
  /-- The bits of the byte in progress, in or out, the most significant first (R135). -/
  shift : List Bool
  /-- R136. -/
  frame : FrameState
  /-- R143. -/
  lastResponse : Response
  /-- R147. -/
  conflictSeen : Bool
  /-- R147. -/
  deniedSeen : Bool
  /-- R150. -/
  profile : Profile
  /-- R101: handle n is UNMAPPED or mapped to a buffer. -/
  handles : List (Option Nat)
  /-- R114: the oldest record at the head. -/
  completions : List CompletionRecord
  /-- R117. -/
  sequence : Word16
  /-- R122: pending flags of the latched kinds; COMPLETION's own place is never set here (R124). -/
  latched : NoticeFlags
  /-- R122, R128. -/
  enables : NoticeFlags
  /-- R127: the kinds posted since the last READ NOTICES view (log 25). -/
  postedSinceView : NoticeFlags
  /-- R129. -/
  mailbox : Option Signal
  /-- The bytes delivered in the port's latest frame that had an output phase (log 9). -/
  output : List Byte
deriving DecidableEq, Repr

/-! ### Engine, supply and reset -/

/-- Engine states (R45). -/
inductive EngineState where
  | idle
  | busy
  | suspending
  | parked
  | busyParked
deriving DecidableEq, Repr

/-- Supply states (R172). -/
inductive SupplyState where
  | normal
  | marginal
  | failed
deriving DecidableEq, Repr

/-- Device states (R176). -/
inductive DeviceState where
  | starting
  | ready
deriving DecidableEq, Repr

/-- An item of the Interrupted Operation Record (R182). -/
structure InterruptedItem where
  kind : EntryKind
  target : Addr
  port : Port
  tag : Byte
  suspended : Bool
deriving DecidableEq, Repr

/-- One read-holder count for each bank (R6). -/
structure BankCounts where
  n0 : Nat
  n1 : Nat
  n2 : Nat
  n3 : Nat
deriving DecidableEq, Repr

/-- The array: (address, byte) pairs in canonical form (`Memory.wf`). -/
abbrev Memory := List Host.Cell

/-- The whole part. -/
structure State where
  /-- The commands waiting, first in first out. -/
  pending : List Instr
  /-- The events on the lines that are to come (R135, log 32). -/
  inputs : List Input
  /-- The array contents (R1 to R4). -/
  mem : Memory
  /-- Pages with unsettled content, rising (R4, log 3). -/
  unsettled : List Nat
  /-- How many unsettled reads have been made (log 3). -/
  freeIndex : Nat
  /-- The three Host Ports. -/
  ports : PerPort PortState
  /-- R6. -/
  holders : BankCounts
  /-- The Work Queue in arrival order (R20). -/
  queue : List Entry
  /-- R21. -/
  arrival : Word16
  /-- R45. -/
  engine : EngineState
  /-- The read window's remaining ms, `none` while closed (R47). -/
  window : Option Nat
  /-- The noted request's window length, `none` while absent (R47). -/
  noted : Option Nat
  /-- The Region Table; `none` is UNDEFINED (R74). -/
  regions : List (Option Region)
  /-- Whether the lease clock runs (R90). -/
  leaseClock : Bool
  /-- The six Program Buffers (R100). -/
  buffers : List Buffer
  /-- The map authority (R159). -/
  authority : Option Port
  /-- The working generation (R156). -/
  generation : Word16
  /-- The current slot (R156). -/
  currentSlot : Option SlotName
  /-- R155. -/
  slotX : Slot
  /-- R155. -/
  slotY : Slot
  /-- The staged map (R160). -/
  staged : Option MapImage
  /-- The commit image (R160). -/
  commitImage : Option MapImage
  /-- R172. -/
  supply : SupplyState
  /-- R176. -/
  device : DeviceState
  /-- How many steps the start-up in progress has made (R177, R179); 0 while READY. -/
  startUpSteps : Nat
  /-- Whether RESET# is low (R180, R181). -/
  resetLow : Bool
  /-- The items of a cut-off that the Engine has not finished, in the order in which it will hand them over (R72, R181);
  empty at any other time. -/
  stopping : List InterruptedItem
  /-- The Interrupted Operation Record (R182). -/
  interrupted : List InterruptedItem
  /-- MAP_DEFAULTED (R178). -/
  mapDefaulted : Bool
deriving DecidableEq, Repr

/-! ### Why a command can stop -/

/-- Faults. -/
inductive Fault where
  /-- Raised by OPERATION_END and SUSPEND_POINT when the engine state names an active entry and the queue holds
  none in that state, which R45 excludes and no run reaches. Safe: the model stops (log 30). -/
  | engineLawBroken
deriving DecidableEq, Repr

/-- Refusals: a row that cannot occur in the state it meets, because the rule that owns it gives it no place
there. Each is safe: the model stops where the hardware has no such happening (log 13). -/
inductive Refusal where
  /-- Raised by exec for a row that has no meaning yet. Safe. -/
  | notModelled (mnemonic : String)
  /-- Raised by every frame row: the port has a frame in progress already, so no other frame of it can begin; and by
  the row of a rise while the lines are in the midst of a frame, whose own rise ends it (R136). Safe. -/
  | frameInProgress
  /-- Raised by TARGET_ENTRY: no parked target begins ahead of the stream (R11): there is none, or the stream, a fill
  stream, stands on its first byte (log 33). Safe. -/
  | noTargetAhead
  /-- Raised by UNKNOWN_OPCODE: the opcode is in the table of R187, so it is not unknown (R139). Safe. -/
  | knownOpcode
  /-- Raised by NOT_READY_ANSWER: the device is READY at the deciding moment (R144). Safe. -/
  | deviceReady
  /-- Raised by OPERATION_END: the engine has no active entry (R45), or is cutting it off (R54, R72). Safe. -/
  | noActiveEntry
  /-- Raised by SUSPEND_POINT: the engine is not SUSPENDING (R63), or is cutting the erase off (R54, R72). Safe. -/
  | notSuspending
  /-- Raised by READ_WINDOW_STEP and READ_WINDOW_CLOSE: the read window is closed (R66). Safe. -/
  | windowClosed
  /-- Raised by READ_WINDOW_CLOSE: more than 1 ms of the window remains (R66). Safe. -/
  | windowNotEnding
  /-- Raised by LEASE_TICK and LEASE_EXPIRY: the lease clock is stopped (R90). Safe. -/
  | leaseClockStopped
  /-- Raised by LEASE_EXPIRY: the region's next countdown step does not bring remaining to 0 (R91). Safe. -/
  | leaseNotEnding
  /-- Raised by the supply rows: the voltage does not make this change from this supply state (R172). Safe. -/
  | notThisSupplyChange
  /-- Raised by RESET_FALL: RESET# is low already (R180). Safe. -/
  | resetIsLow
  /-- Raised by RESET_RISE: RESET# is high already (R181). Safe. -/
  | resetIsHigh
  /-- Raised by START_UP: the device is READY, or RESET# is low, or the supply is FAILED (R175, R176, R181).
  Safe. -/
  | startUpNotDue
deriving DecidableEq, Repr

/-- The outcome of a command. -/
abbrev Result := Host.Outcome State Fault Refusal

/-! ### The state after power-on detection -/

/-- The set of all three ports. -/
def PortSet.all : PortSet := ⟨true, true, true⟩

/-- All flags clear. -/
def NoticeFlags.none : NoticeFlags := ⟨false, false, false, false, false, false, false, false⟩

/-- All eight flags set (R128). -/
def NoticeFlags.all : NoticeFlags := ⟨true, true, true, true, true, true, true, true⟩

/-- R157: the built-in factory map. -/
def factoryMap : MapImage where
  authority := some .a
  regions := some ⟨0, 255, .all, .all, 100⟩ :: List.replicate 15 none
  profiles := ⟨⟨3, 5, 0⟩, ⟨3, 5, 0⟩, ⟨3, 5, 0⟩⟩

/-- A Program Buffer that is FREE (R100); its bytes are not observable (log 31). -/
def freshBuffer : Buffer := ⟨.free, List.replicate 256 Config.erased⟩

/-- A port at power-on, in a given frame state (R101, R114, R117, R129, R134, R143, R147; logs 4 and 5). -/
def freshPort (frame : FrameState) : PortState where
  csLow := false
  shift := []
  frame := frame
  lastResponse := .ok
  conflictSeen := false
  deniedSeen := false
  profile := ⟨0, 0, 0⟩
  handles := List.replicate 4 none
  completions := []
  sequence := 0
  latched := .none
  enables := .none
  postedSinceView := .none
  mailbox := none
  output := []

/-- The machine right after power-on detection with RESET# high, as shipped (R175; log 1). -/
def State.reset : State where
  pending := []
  inputs := []
  mem := []
  unsettled := []
  freeIndex := 0
  ports := ⟨freshPort .deselected, freshPort .deselected, freshPort .deselected⟩
  holders := ⟨0, 0, 0, 0⟩
  queue := []
  arrival := 0
  engine := .idle
  window := none
  noted := none
  regions := List.replicate 16 none
  leaseClock := false
  buffers := List.replicate 6 freshBuffer
  authority := none
  generation := 0
  currentSlot := none
  slotX := ⟨factoryMap, 0, true⟩
  slotY := ⟨factoryMap, 0, false⟩
  staged := none
  commitImage := none
  supply := .marginal
  device := .starting
  startUpSteps := 0
  resetLow := false
  stopping := []
  interrupted := []
  mapDefaulted := false

end Sys2Proof.Machine
end

