-- ==== Sys2Proof/Machine/Operands.lean ====
section
/-! DEFINITION. Reading the fields of a frame (R185), the units of the array (R1), and access to the parts of the
state by port, bank and index. -/

namespace Sys2Proof

/-- R185: the code of a port in a frame, a view or a record. -/
def Port.code : Port → Nat
  | .a => 1
  | .b => 2
  | .c => 3

/-- R149: the port byte of READ IDENTITY. -/
def Port.identity : Port → Byte
  | .a => 0x0A
  | .b => 0x0B
  | .c => 0x0C

/-- R185: the code of a port or of none. -/
def Port.codeOf : Option Port → Nat
  | none => 0
  | some p => p.code

/-- R185: a port code byte, `none` when it is out of range. -/
def Port.ofCode (b : Byte) : Option (Option Port) :=
  match b.toNat with
  | 0 => some none
  | 1 => some (some .a)
  | 2 => some (some .b)
  | 3 => some (some .c)
  | _ => none

namespace Machine

/-! ### Access by port, by bank, by index -/

/-- The component of a port. -/
def PerPort.get {α : Type} (v : PerPort α) : Port → α
  | .a => v.a
  | .b => v.b
  | .c => v.c

/-- `v` with the component of one port replaced. -/
def PerPort.set {α : Type} (v : PerPort α) (p : Port) (x : α) : PerPort α :=
  match p with
  | .a => { v with a := x }
  | .b => { v with b := x }
  | .c => { v with c := x }

/-- Membership in a set of ports (R74). -/
def PortSet.has (m : PortSet) : Port → Bool
  | .a => m.a
  | .b => m.b
  | .c => m.c

/-- R185: bit 0 is A, bit 1 is B, bit 2 is C; a byte with any of bits 7 to 3 set is no set of ports. -/
def PortSet.ofByte (b : Byte) : Option PortSet :=
  if b.toNat < 8 then some ⟨b.getLsbD 0, b.getLsbD 1, b.getLsbD 2⟩ else none

/-- R185, R186: the mask bits of a set of ports. -/
def PortSet.bits (m : PortSet) : Nat :=
  m.a.toNat + 2 * m.b.toNat + 4 * m.c.toNat

/-- The read-holder count of a bank (R6). -/
def BankCounts.get (h : BankCounts) : Fin 4 → Nat
  | 0 => h.n0
  | 1 => h.n1
  | 2 => h.n2
  | 3 => h.n3

/-- `h` with the count of one bank replaced. -/
def BankCounts.set (h : BankCounts) (k : Fin 4) (n : Nat) : BankCounts :=
  match k with
  | 0 => { h with n0 := n }
  | 1 => { h with n1 := n }
  | 2 => { h with n2 := n }
  | 3 => { h with n3 := n }

/-- The state of one port. -/
def State.port (s : State) (p : Port) : PortState := s.ports.get p

/-- The state with one port changed. -/
def State.modifyPort (s : State) (p : Port) (f : PortState → PortState) : State :=
  { s with ports := s.ports.set p (f (s.ports.get p)) }

/-- The DEFINED entry of the Region Table at an index, if there is one (R74). -/
def State.region (s : State) (i : Nat) : Option Region := (s.regions[i]?).join

/-- The state with the DEFINED entry at an index changed. -/
def State.modifyRegion (s : State) (i : Nat) (f : Region → Region) : State :=
  { s with regions := s.regions.modify i (Option.map f) }

/-- The state with the lease fields of the DEFINED entry at an index changed. -/
def State.modifyLease (s : State) (i : Nat) (f : Lease → Lease) : State :=
  s.modifyRegion i (fun r => { r with lease := f r.lease })

/-- The state with one Work Queue entry changed where it stands. -/
def State.modifyEntry (s : State) (i : Nat) (f : Entry → Entry) : State :=
  { s with queue := s.queue.modify i f }

/-- The state with one Program Buffer changed. -/
def State.modifyBuffer (s : State) (b : Nat) (f : Buffer → Buffer) : State :=
  { s with buffers := s.buffers.modify b f }

/-- What a handle of the port maps (R101); handles above 3 map nothing. -/
def PortState.handle (q : PortState) (h : Byte) : Option Nat :=
  if h.toNat ≤ 3 then (q.handles[h.toNat]?).join else none

/-! ### The units of the array (R1) -/

/-- R1: the block of an address. -/
def blockOf (a : Addr) : Nat := a.toNat / Config.blockBytes

/-- R1: the bank of an address. -/
def bankOf (a : Addr) : Fin 4 :=
  ⟨a.toNat / Config.bankBytes % 4, Nat.mod_lt _ (by decide)⟩

/-- R1: the page of an address. -/
def pageOf (a : Addr) : Nat := a.toNat / Config.pageBytes

/-- R1: the sector of an address. -/
def sectorOf (a : Addr) : Nat := a.toNat / Config.sectorBytes

/-- R1: the first address of a target. -/
def Target.first : Target → Nat
  | .page n => n * Config.pageBytes
  | .sector n => n * Config.sectorBytes
  | .block n => n * Config.blockBytes

/-- R1: the size of a target in bytes. -/
def Target.size : Target → Nat
  | .page _ => Config.pageBytes
  | .sector _ => Config.sectorBytes
  | .block _ => Config.blockBytes

/-- Whether an address lies in a target. -/
def Target.contains (t : Target) (a : Nat) : Bool :=
  decide (t.first ≤ a) && decide (a < t.first + t.size)

/-- The address of a target's first byte, as records and views show it (R43, R115, R182). -/
def Target.addr (t : Target) : Addr := BitVec.ofNat 24 t.first

/-- R1: the block that a target lies in. -/
def Target.blockNumber (t : Target) : Nat := t.first / Config.blockBytes

/-- R1: the bank of a target. -/
def Target.bank (t : Target) : Fin 4 :=
  ⟨t.first / Config.bankBytes % 4, Nat.mod_lt _ (by decide)⟩

/-- The pages a target covers. -/
def Target.pages (t : Target) : List Nat :=
  List.range' (t.first / Config.pageBytes) (t.size / Config.pageBytes)

/-! ### Entries -/

/-- SECTOR_ERASE or BLOCK_ERASE. -/
def EntryKind.isErase : EntryKind → Bool
  | .sectorErase => true
  | .blockErase => true
  | _ => false

/-- R1: the bank of an entry is the bank of its target; a MAP_COMMIT has none. -/
def Entry.bank (e : Entry) : Option (Fin 4) := e.target.map Target.bank

/-- QUEUED (R19). -/
def Entry.isQueued (e : Entry) : Bool := decide (e.state = .queued)

/-- RUNNING or SUSPENDING: the entry is the engine's active entry (R45). -/
def Entry.isActive (e : Entry) : Bool := decide (e.state = .running) || decide (e.state = .suspending)

/-- SUSPENDED: the entry is the parked erase (R45). -/
def Entry.isParked (e : Entry) : Bool := decide (e.state = .suspended)

/-- The target address as records and views show it: 000000h for a MAP_COMMIT (R43, R115, R182). -/
def Entry.targetAddr (e : Entry) : Addr :=
  match e.target with
  | some t => t.addr
  | none => 0

/-- Whether an address lies in an entry's target. -/
def Entry.targetContains (e : Entry) (a : Nat) : Bool :=
  match e.target with
  | some t => t.contains a
  | none => false

/-- Whether an entry's target begins inside another entry's target. A page lies in a target or outside it, so for
a PROGRAM this says that its page lies inside the other target (R49, R60). -/
def Entry.targetInside (e other : Entry) : Bool :=
  match e.target with
  | some t => other.targetContains t.first
  | none => false

/-- R75: whether a block lies in a defined region. -/
def RegionDef.containsBlock (d : RegionDef) (b : Nat) : Bool :=
  decide (d.first.toNat ≤ b) && decide (b ≤ d.last.toNat)

/-- R75: the index of the defined region that a block lies in, `none` for unmapped space. -/
def State.regionOfBlock (s : State) (b : Nat) : Option Nat :=
  s.regions.findIdx? (fun slot => match slot with
    | some r => r.definition.containsBlock b
    | none => false)

/-! ### Counts (R23, R103, R118) -/

/-- R23: the entry count of a port, orphans included. -/
def State.entryCount (s : State) (p : Port) : Nat := s.queue.countP (fun e => decide (e.port = p))

/-- The number of records in a port's Completion Queue. -/
def State.recordCount (s : State) (p : Port) : Nat := (s.port p).completions.length

/-- R118: credit, derived afresh. -/
def State.credit (s : State) (p : Port) : Nat :=
  Config.portCredit - s.entryCount p - s.recordCount p

/-- R103: the number of mapped handles of a port. -/
def State.mappedHandles (s : State) (p : Port) : Nat := (s.port p).handles.countP Option.isSome

/-- R103: the ownership count of a port. -/
def State.ownedBuffers (s : State) (p : Port) : Nat :=
  s.mappedHandles p + s.queue.countP (fun e => decide (e.port = p) && decide (e.kind = .program))

/-- R146: the number of FREE buffers. -/
def State.freeBuffers (s : State) : Nat := s.buffers.countP (fun b => decide (b.state = .free))

/-- R31, R161: a MAP_COMMIT entry is in the Work Queue. -/
def State.mapPending (s : State) : Bool := s.queue.any (fun e => decide (e.kind = .mapCommit))

/-- R22: whether a port has an entry with a tag. -/
def State.tagInUse (s : State) (p : Port) (tag : Byte) : Bool :=
  s.queue.any (fun e => decide (e.port = p) && decide (e.tag = tag))

end Machine
end Sys2Proof
end

