-- ==== Sys2Proof/Machine/Flags.lean ====
section
/-! DEFINITION. Flags: notice kinds with their pending and enable flags and ALERT# (R122 to R128), the sticky flags
(R147), Last Response (R143), and the codes of R188. -/

namespace Sys2Proof.Machine

/-- The flag of a kind. -/
def NoticeFlags.get (f : NoticeFlags) : NoticeKind → Bool
  | .completion => f.completion
  | .leaseGranted => f.leaseGranted
  | .leaseLost => f.leaseLost
  | .leaseWarning => f.leaseWarning
  | .readConflict => f.readConflict
  | .mapChanged => f.mapChanged
  | .peerSignal => f.peerSignal
  | .deviceEvent => f.deviceEvent

/-- `f` with the flag of a kind set. -/
def NoticeFlags.mark (f : NoticeFlags) : NoticeKind → NoticeFlags
  | .completion => { f with completion := true }
  | .leaseGranted => { f with leaseGranted := true }
  | .leaseLost => { f with leaseLost := true }
  | .leaseWarning => { f with leaseWarning := true }
  | .readConflict => { f with readConflict := true }
  | .mapChanged => { f with mapChanged := true }
  | .peerSignal => { f with peerSignal := true }
  | .deviceEvent => { f with deviceEvent := true }

/-- R188: the notice bit table. -/
def NoticeFlags.toByte (f : NoticeFlags) : Byte :=
  byteOf (f.completion.toNat + 2 * f.leaseGranted.toNat + 4 * f.leaseLost.toNat + 8 * f.leaseWarning.toNat
    + 16 * f.readConflict.toNat + 32 * f.mapChanged.toNat + 64 * f.peerSignal.toNat + 128 * f.deviceEvent.toNat)

/-- R185, R188: the set an enable byte carries. -/
def NoticeFlags.ofByte (b : Byte) : NoticeFlags :=
  ⟨b.getLsbD 0, b.getLsbD 1, b.getLsbD 2, b.getLsbD 3, b.getLsbD 4, b.getLsbD 5, b.getLsbD 6, b.getLsbD 7⟩

/-- R127: what stays pending when a READ NOTICES is taken: a kind that the view showed is cleared unless it was
posted again since. -/
def NoticeFlags.afterReading (latched shown since : NoticeFlags) : NoticeFlags where
  completion := latched.completion && !(shown.completion && !since.completion)
  leaseGranted := latched.leaseGranted && !(shown.leaseGranted && !since.leaseGranted)
  leaseLost := latched.leaseLost && !(shown.leaseLost && !since.leaseLost)
  leaseWarning := latched.leaseWarning && !(shown.leaseWarning && !since.leaseWarning)
  readConflict := latched.readConflict && !(shown.readConflict && !since.readConflict)
  mapChanged := latched.mapChanged && !(shown.mapChanged && !since.mapChanged)
  peerSignal := latched.peerSignal && !(shown.peerSignal && !since.peerSignal)
  deviceEvent := latched.deviceEvent && !(shown.deviceEvent && !since.deviceEvent)

/-- R122, R124: the pending set of a port: the latched flags, and COMPLETION exactly while its Completion Queue
holds a record. -/
def PortState.pendingNotices (q : PortState) : NoticeFlags :=
  { q.latched with completion := !q.completions.isEmpty }

/-- R125: whether at least one kind is both pending and enabled. -/
def NoticeFlags.meet (pending enables : NoticeFlags) : Bool :=
  (pending.completion && enables.completion) || (pending.leaseGranted && enables.leaseGranted)
    || (pending.leaseLost && enables.leaseLost) || (pending.leaseWarning && enables.leaseWarning)
    || (pending.readConflict && enables.readConflict) || (pending.mapChanged && enables.mapChanged)
    || (pending.peerSignal && enables.peerSignal) || (pending.deviceEvent && enables.deviceEvent)

/-- R125: whether a port's ALERT# output is driven low. -/
def State.alertLow (s : State) (p : Port) : Bool :=
  (s.port p).pendingNotices.meet (s.port p).enables

/-- R122: a posting of a latched kind to a port. It is also noted as posted since the port's last READ NOTICES
view, for R127. -/
def State.post (s : State) (p : Port) (k : NoticeKind) : State :=
  s.modifyPort p (fun q => { q with latched := q.latched.mark k, postedSinceView := q.postedSinceView.mark k })

/-- R122: a posting to A, B and C. -/
def State.postAll (s : State) (k : NoticeKind) : State :=
  ((s.post .a k).post .b k).post .c k

/-- R143: the port's Last Response becomes a code. -/
def State.respond (s : State) (p : Port) (r : Response) : State :=
  s.modifyPort p (fun q => { q with lastResponse := r })

/-- R136: the port enters a frame state. -/
def State.setFrame (s : State) (p : Port) (f : FrameState) : State :=
  s.modifyPort p (fun q => { q with frame := f })

/-! ### Codes (R188) -/

/-- R188: Last Response codes. -/
def Response.code : Response → Byte
  | .ok => 0x00
  | .waiting => 0x01
  | .frameError => 0x02
  | .badCommand => 0x03
  | .badParameter => 0x04
  | .badAddress => 0x05
  | .undefinedRegion => 0x06
  | .noBuffer => 0x07
  | .notReady => 0x09
  | .noPermission => 0x0A
  | .notHolder => 0x0B
  | .pendingWork => 0x0C
  | .tagInUse => 0x0D
  | .unknownTag => 0x0E
  | .started => 0x0F
  | .noCredit => 0x10
  | .queueFull => 0x11
  | .noHandle => 0x12
  | .regionBusy => 0x13
  | .mapPending => 0x14
  | .notAuthority => 0x15
  | .noStage => 0x16
  | .badMap => 0x17
  | .generationSpent => 0x18
  | .mailboxFull => 0x19

/-- R188: entry kind codes. -/
def EntryKind.code : EntryKind → Nat
  | .program => 1
  | .sectorErase => 2
  | .blockErase => 3
  | .mapCommit => 4

/-- R188: entry state codes. -/
def EntryState.code : EntryState → Nat
  | .queued => 0
  | .running => 1
  | .suspending => 2
  | .suspended => 3

/-- R188: completion status codes. -/
def Status.code : Status → Nat
  | .done => 1
  | .programFailed => 2
  | .eraseFailed => 3
  | .cancelled => 4
  | .leaseLost => 5
  | .mapWriteFailed => 6

/-- R188: engine state codes. -/
def EngineState.code : EngineState → Nat
  | .idle => 0
  | .busy => 1
  | .suspending => 2
  | .parked => 3
  | .busyParked => 4

/-- R188: lease state codes; 0 is UNDEFINED. -/
def LeaseState.code : LeaseState → Nat
  | .free => 1
  | .held => 2
  | .draining => 3
  | .frozen => 4

/-- R188: slot codes; 0 is none. -/
def SlotName.codeOf : Option SlotName → Nat
  | none => 0
  | some .x => 1
  | some .y => 2

end Sys2Proof.Machine
end

