-- ==== Sys2Proof/Machine/Memory.lean ====
section
/-! DEFINITION. The array: reading and writing one byte, programming a page, erasing a range (R2, R3), and which
content is unsettled (R4). -/

namespace Sys2Proof.Machine

/-- The byte the array holds at an address. An address that is not listed holds FFh (log 2). -/
def Memory.read : Memory → Nat → Byte
  | [], _ => Config.erased
  | (k, v) :: m, a => if a = k then v else Memory.read m a

/-- The array with one byte replaced, in canonical form. -/
def Memory.write : Memory → Nat → Byte → Memory
  | [], a, b => if b = Config.erased then [] else [(a, b)]
  | (k, v) :: m, a, b =>
    if a < k then (if b = Config.erased then (k, v) :: m else (a, b) :: (k, v) :: m)
    else if a = k then (if b = Config.erased then m else (a, b) :: m)
    else (k, v) :: Memory.write m a b

/-- R2: each byte from an address on becomes the AND of itself and the byte given for it. -/
def Memory.program : Memory → Nat → List Byte → Memory
  | m, _, [] => m
  | m, a, b :: bs => Memory.program (m.write a (m.read a &&& b)) (a + 1) bs

/-- R3: every byte of a range becomes FFh. -/
def Memory.erase (m : Memory) (first size : Nat) : Memory :=
  m.filter (fun c => !(decide (first ≤ c.1) && decide (c.1 < first + size)))

/-- The canonical form: addresses strictly rising, inside the array, and no listed byte FFh. -/
def Memory.wf : Memory → Bool
  | [] => true
  | [(k, v)] => decide (k < Config.arrayBytes) && decide (v ≠ Config.erased)
  | (k, v) :: (k', v') :: m =>
    decide (k < k') && decide (k < Config.arrayBytes) && decide (v ≠ Config.erased) && Memory.wf ((k', v') :: m)

/-- A page joins a rising list of pages. -/
def insertPage : List Nat → Nat → List Nat
  | [], n => [n]
  | k :: ks, n => if n < k then n :: k :: ks else if n = k then k :: ks else k :: insertPage ks n

/-- R4: a target becomes unsettled. -/
def State.unsettle (s : State) (t : Target) : State :=
  { s with unsettled := t.pages.foldl insertPage s.unsettled }

/-- R4: an erase that ends DONE settles every byte of its target. -/
def State.settle (s : State) (t : Target) : State :=
  { s with unsettled := s.unsettled.filter (fun n => !(t.pages.contains n)) }

/-- R4, R11: the byte a read stream delivers at an address: the array byte, or, for unsettled content, the free
value of the k-th read. -/
def State.arrayByte (s : State) (a : Addr) (k : Nat) : Byte :=
  if s.unsettled.contains (pageOf a) then Config.unsettledByte a k else s.mem.read a.toNat

/-- R2, R3: the array after an operation that ended DONE. A program ANDs its buffer into its page and settles
nothing (R4); an erase sets its target to FFh and settles it. -/
def State.applyDone (s : State) (kind : EntryKind) (t : Target) (data : List Byte) : State :=
  match kind with
  | .program => { s with mem := s.mem.program t.first data }
  | .sectorErase => { s with mem := s.mem.erase t.first t.size }.settle t
  | .blockErase => { s with mem := s.mem.erase t.first t.size }.settle t
  | .mapCommit => s

end Sys2Proof.Machine
end

