-- ==== Sys2Proof/Machine/Ops.lean ====
section
/-! DEFINITION. The operations that several commands share: posting a Completion Record, buffers, entries leaving the
queue, leases, the map image, the frame moments, and an ordered list of checks. -/

namespace Sys2Proof.Machine

/-! ### Checks in order (R24, R104, R165 and the like) -/

/-- The code of the first check that fails. -/
def firstFailing (checks : List (Bool × Response)) : Option Response :=
  (checks.find? (fun c => c.1)).map (fun c => c.2)

/-! ### Completion Records (R116, R117) -/

/-- R116: the record is given the port's next sequence number and joins its Completion Queue at the tail; the
counter steps up, from FFFFh to 0000h (R117). -/
def State.postRecord (s : State) (e : Entry) (status : Status) : State :=
  s.modifyPort e.port (fun q =>
    { q with
      completions := q.completions ++
        [⟨q.sequence, e.tag, e.kind, e.targetAddr, status, e.effectiveClass, e.suspendCount⟩]
      sequence := q.sequence + 1 })

/-! ### Program Buffers (R100, R105, R106) -/

/-- R111: the buffer of an entry that leaves the queue goes to FREE. -/
def State.freeEntryBuffer (s : State) (e : Entry) : State :=
  match e.buffer with
  | some b => s.modifyBuffer b (fun u => { u with state := .free })
  | none => s

/-- R105: the lowest-numbered FREE buffer. -/
def State.lowestFree (s : State) : Option Nat :=
  s.buffers.findIdx? (fun b => decide (b.state = .free))

/-- R106: data bytes written at consecutive offsets, wrapping from FFh to 00h. -/
def loadBytes : List Byte → Nat → List Byte → List Byte
  | buf, _, [] => buf
  | buf, k, d :: ds => loadBytes (buf.set (k % 256) d) (k + 1) ds

/-- The port maps a handle to a buffer, or unmaps it (R101). -/
def State.setHandle (s : State) (p : Port) (h : Byte) (v : Option Nat) : State :=
  s.modifyPort p (fun q => { q with handles := q.handles.set h.toNat v })

/-! ### Leases (R80, R81, R82, R88, R93) -/

/-- R80: the grant step. A FREE region with a waiter is given to the head of its list. -/
def State.grantStep (s : State) (i : Nat) : State :=
  match s.region i with
  | some r =>
    match r.lease.state, r.lease.waiters with
    | .free, w :: ws =>
      (s.modifyLease i (fun l =>
        { l with state := .held, holder := some w, remaining := r.definition.limit.toNat, waiters := ws })).post w
        .leaseGranted
    | _, _ => s
  | none => s

/-- R88 case 4, R93 steps 3 and 4, R96 step 2: a lease ends. With started work the region drains; without, it is
FREE and the grant step runs. -/
def State.endLease (s : State) (i : Nat) : State :=
  match s.region i with
  | some r =>
    if 0 < r.lease.drain then
      s.modifyLease i (fun l => { l with state := .draining, holder := none, remaining := 0 })
    else
      (s.modifyLease i (fun l => { l with state := .free, holder := none, remaining := 0 })).grantStep i
  | none => s

/-- R81: an entry of a region has started. -/
def State.drainUp (s : State) (i : Nat) : State :=
  s.modifyLease i (fun l => { l with drain := l.drain + 1 })

/-- R81, R82: an entry of a region has ended; a DRAINING region whose count falls to 0 is FREE and runs its grant
step. -/
def State.drainDown (s : State) (i : Nat) : State :=
  match s.region i with
  | some r =>
    let t := s.modifyLease i (fun l => { l with drain := l.drain - 1 })
    if r.lease.state = .draining ∧ r.lease.drain - 1 = 0 then
      (t.modifyLease i (fun l => { l with state := .free })).grantStep i
    else t
  | none => s

/-- The indices of the Region Table, ascending (R90, R96). -/
def regionIndices : List Nat := List.range 16

/-- R95: a FROZEN region returns to FREE with its old definition and runs its grant step. -/
def State.unfreeze (s : State) (i : Nat) : State :=
  match s.region i with
  | some r =>
    if r.lease.state = .frozen then (s.modifyLease i (fun l => { l with state := .free })).grantStep i else s
  | none => s

/-- R34, R39, R169: every region that the commit froze returns to FREE. -/
def State.unfreezeAll (s : State) : State := regionIndices.foldl State.unfreeze s

/-- A lease right after its region is loaded or defined (R95, R97). -/
def freshLease : Lease := ⟨.free, none, 0, [], 0⟩

/-! ### Entries leaving the queue while QUEUED (R34, R37, R38, R39) -/

/-- R38: one entry removed by expiry: its buffer goes to FREE, then its LEASE_LOST record is posted. -/
def State.loseEntry (s : State) (e : Entry) : State := (s.freeEntryBuffer e).postRecord e .leaseLost

/-- R34, R39: what the removal of a QUEUED MAP_COMMIT does besides. The commit image is discarded (R160). -/
def State.dropCommit (s : State) : State := { s with commitImage := none }.unfreezeAll

/-! ### The map (R155 to R168) -/

/-- R161, R170: the working map as an image. -/
def State.workingImage (s : State) : MapImage where
  authority := s.authority
  regions := s.regions.map (Option.map (fun r => r.definition))
  profiles := ⟨s.ports.a.profile, s.ports.b.profile, s.ports.c.profile⟩

/-- The port profiles replaced (R150). -/
def State.loadProfiles (s : State) (v : PerPort Profile) : State :=
  ((s.modifyPort .a (fun q => { q with profile := v.a })).modifyPort .b
    (fun q => { q with profile := v.b })).modifyPort .c (fun q => { q with profile := v.c })

/-- R156: the slot a commit writes: the one that is not current, or X when there is none. -/
def State.commitSlot (s : State) : SlotName :=
  match s.currentSlot with
  | some .x => .y
  | _ => .x

/-- A slot by its name. -/
def State.slot (s : State) : SlotName → Slot
  | .x => s.slotX
  | .y => s.slotY

/-- The store with one slot replaced. -/
def State.setSlot (s : State) (n : SlotName) (v : Slot) : State :=
  match n with
  | .x => { s with slotX := v }
  | .y => { s with slotY := v }

/-- R156: the valid slot with the higher generation; X when both are valid with equal generations. -/
def chooseSlot (x y : Slot) : Option SlotName :=
  match x.mark, y.mark with
  | true, true => if x.generation.toNat < y.generation.toNat then some .y else some .x
  | true, false => some .x
  | false, true => some .y
  | false, false => none

/-! ### The moments of a frame (R136 to R145) -/

/-- A taken command with no data out (R138): a port that is INERT ignores its inputs (R137); in STARTING the frame
is answered NOT_READY (R144); in READY the owner makes its effects and gives the code for Last Response. -/
def takeCommand (p : Port) (s : State) (owner : State → Response × State) : Result :=
  match (s.port p).frame with
  | .inert => .next s
  | .deselected =>
    match s.device with
    | .starting => .next (s.respond p .notReady)
    | .ready => .next ((owner s).2.respond p (owner s).1)
  | _ => .refused .frameInProgress

/-- The end of the fixed part of a frame with an output phase, at its deciding moment (R138, R144): `answer` opens
the view or the stream when the device is READY; `quad` says whether the data phase is on IO0 to IO3. -/
def openFrame (quad : Bool) (p : Port) (s : State) (answer : State → State) : Result :=
  match (s.port p).frame with
  | .inert => .next s
  | .deselected =>
    match s.device with
    | .starting => .next (s.setFrame p (.dataOut (.notReady quad)))
    | .ready => .next (answer s)
  | _ => .refused .frameInProgress

/-- What the host receives when it clocks out n whole bytes: the response and then 00h (R138, R141). -/
def clockedOut (bytes : List Byte) (n : Nat) : List Byte :=
  bytes.take n ++ List.replicate (n - bytes.length) 0

/-- The frame of a port ends with the bytes the host received (log 9). -/
def State.endFrame (s : State) (p : Port) (bytes : List Byte) : State :=
  s.modifyPort p (fun q => { q with frame := .deselected, output := bytes })

/-- R144: the rise of a frame that is answered NOT_READY, after n data bytes of 00h. -/
def State.answerNotReady (s : State) (p : Port) (n : Nat) : State :=
  (s.endFrame p (clockedOut [] n)).respond p .notReady

/-- A view inquiry (R138): its view is taken at the end of its fixed part. -/
def openInquiry (p : Port) (s : State) (kind : InquiryKind) (bytes : List Byte) : Result :=
  openFrame false p s (fun t => t.setFrame p (.dataOut (.inquiry kind bytes)))

end Sys2Proof.Machine
end

