-- ==== Sys2Proof/Machine/Scheduler.lean ====
section
/-! DEFINITION. The engine's view of the queue, bank activity, and the Scheduler's look: eligibility, selection,
start, aging, the pressure test, the suspend order and the resume test (R5, R35, R36, R45 to R53, R60, R61, R68). -/

namespace Sys2Proof.Machine

/-- The entry at a place of the queue. -/
def State.entryAt (s : State) (i : Option Nat) : Option Entry := i.bind (fun k => s.queue[k]?)

/-- R45: the place in the queue of the engine's active entry. -/
def State.activeIndex (s : State) : Option Nat :=
  match s.engine with
  | .busy => s.queue.findIdx? Entry.isActive
  | .suspending => s.queue.findIdx? Entry.isActive
  | .busyParked => s.queue.findIdx? Entry.isActive
  | _ => none

/-- R45: the place in the queue of the parked erase. -/
def State.parkedIndex (s : State) : Option Nat :=
  match s.engine with
  | .parked => s.queue.findIdx? Entry.isParked
  | .busyParked => s.queue.findIdx? Entry.isParked
  | _ => none

/-- R45: the active entry. -/
def State.activeEntry (s : State) : Option Entry := s.entryAt s.activeIndex

/-- R45: the parked erase. -/
def State.parkedErase (s : State) : Option Entry := s.entryAt s.parkedIndex

/-- R5: the active bank. -/
def State.activeBank (s : State) : Option (Fin 4) := s.activeEntry.bind Entry.bank

/-- R5: the parked target. -/
def State.parkedTarget (s : State) : Option Target := s.parkedErase.bind (fun e => e.target)

/-- R49: whether a QUEUED entry is eligible. -/
def State.eligible (s : State) (e : Entry) : Bool :=
  e.isQueued && decide (s.supply = .normal)
    && (match e.bank with
      | some k => decide (s.holders.get k = 0)
      | none => true)
    && (match s.parkedErase with
      | some x => !e.kind.isErase && !(decide (e.kind = .program) && e.targetInside x)
      | none => true)

/-- R50, R51: among the entries that `ok` admits, the place of the one with the highest effective class, and among
those of that class the one that stands first; with its class. -/
def firstHighest (ok : Entry → Bool) : List Entry → Option (Nat × Nat)
  | [] => none
  | e :: es =>
    match firstHighest ok es with
    | none => if ok e then some (0, e.effectiveClass) else none
    | some (i, c) => if ok e && decide (c ≤ e.effectiveClass) then some (0, e.effectiveClass) else some (i + 1, c)

/-- R50: the choice at a look in IDLE. -/
def State.selectAny (s : State) : Option Nat := (firstHighest s.eligible s.queue).map (fun c => c.1)

/-- R51: whether an entry is a candidate to run over a parked erase. -/
def State.mayRunOver (s : State) (x e : Entry) : Bool :=
  s.eligible e && !e.kind.isErase && decide (x.effectiveClass < e.effectiveClass)

/-- R51: the choice at a look in PARKED. -/
def State.selectOver (s : State) : Option Nat :=
  match s.parkedErase with
  | some x => (firstHighest (s.mayRunOver x) s.queue).map (fun c => c.1)
  | none => none

/-- R35, R36: what the start of an entry of class `cls` does to an entry that stands before it. -/
def Entry.age (cls : Nat) (e : Entry) : Entry :=
  if e.isQueued && decide (e.effectiveClass < cls) then
    if e.bypass + 1 = Config.bypassLimit then { e with effectiveClass := e.effectiveClass + 1, bypass := 0 }
    else { e with bypass := e.bypass + 1 }
  else e

/-- R52 steps 1 and 2: the queue after the entry at a place is started. -/
def startQueue (q : List Entry) (i : Nat) (e : Entry) : List Entry :=
  (q.take i).map (Entry.age e.effectiveClass) ++ { e with state := .running } :: q.drop (i + 1)

/-- R52 step 4. -/
def EngineState.started : EngineState → EngineState
  | .idle => .busy
  | .parked => .busyParked
  | g => g

/-- R155, R167: the first stage of a commit's write removes the commit mark of the slot it writes. -/
def State.beginSlotWrite (s : State) : State :=
  s.setSlot s.commitSlot { s.slot s.commitSlot with mark := false }

/-- R52: the start of the entry at a place. The operation's effects show at its end (R54), but for the slot a
MAP_COMMIT writes, which is invalid from here on. -/
def State.startEntry (s : State) (i : Nat) : State :=
  match s.queue[i]? with
  | none => s
  | some e =>
    let s1 := { s with queue := startQueue s.queue i e }
    let s2 := match e.region with
      | some r => s1.drainUp r
      | none => s1
    let s3 := { s2 with engine := s2.engine.started }
    if e.kind = .mapCommit then s3.beginSlotWrite else s3

/-- R60: whether a PROGRAM entry presses a running erase. -/
def State.presses (s : State) (x e : Entry) : Bool :=
  decide (e.kind = .program) && s.eligible e && decide (x.effectiveClass < e.effectiveClass) && !e.targetInside x

/-- R60: the program pressure test, made in BUSY. -/
def State.pressureTest (s : State) : Bool :=
  match s.activeEntry with
  | some x => x.kind.isErase && decide (x.suspendCount < Config.suspendLimit) && s.queue.any (s.presses x)
  | none => false

/-- R60, R61: the running erase is ordered to suspend. -/
def State.orderSuspend (s : State) : State :=
  match s.activeIndex with
  | some i => { s.modifyEntry i (fun e => { e with state := .suspending }) with engine := .suspending }
  | none => s

/-- R61: a read suspend request is noted with its window length and the erase is ordered to suspend. -/
def State.requestSuspend (s : State) (w : Nat) : State := { s.orderSuspend with noted := some w }

/-- R68: the resume test, made in PARKED when no work runs over the erase. -/
def State.resumeTest (s : State) : Bool :=
  decide (s.window = none) && decide (s.supply = .normal)
    && (match s.parkedErase with
      | some x =>
        match x.bank with
        | some k => decide (s.holders.get k = 0)
        | none => true
      | none => false)

/-- R68: the parked erase is resumed. -/
def State.resumeErase (s : State) : State :=
  match s.parkedIndex with
  | some i => { s.modifyEntry i (fun e => { e with state := .running }) with engine := .busy }
  | none => s

/-- R48: the Scheduler's look, by the engine state it finds. -/
def State.look (s : State) : State :=
  match s.engine with
  | .idle =>
    match s.selectAny with
    | some i => s.startEntry i
    | none => s
  | .busy => if s.pressureTest then s.orderSuspend else s
  | .suspending => s
  | .parked =>
    match s.selectOver with
    | some i => s.startEntry i
    | none => if s.resumeTest then s.resumeErase else s
  | .busyParked => s

end Sys2Proof.Machine
end

