-- ==== Sys2Proof/Machine/ReadPath.lean ====
section
/-! DEFINITION. The Read Path: read streams, their checks and re-check points, the bytes they deliver, and their
effect on the bank counts and the Scheduler (R5 to R17, R61). -/

namespace Sys2Proof.Machine

/-- R9 check 1: the block of the address lies in a defined region whose read mask does not include the port. -/
def State.readDenied (s : State) (p : Port) (a : Addr) : Bool :=
  match (s.regionOfBlock (blockOf a)).bind s.region with
  | some r => !r.definition.readMask.has p
  | none => false

/-- R5, R9 check 2: the address lies in the active bank or inside the parked target. -/
def State.readConflict (s : State) (a : Addr) : Bool :=
  decide (s.activeBank = some (bankOf a))
    || (match s.parkedTarget with
      | some t => t.contains a.toNat
      | none => false)

/-- R10: whether a conflict of the port at the address raises a read suspend request. -/
def State.raisesRequest (s : State) (p : Port) (a : Addr) : Bool :=
  match s.activeEntry with
  | some x =>
    decide (s.engine = .busy) && x.kind.isErase && decide (x.bank = some (bankOf a)) && !x.targetContains a.toNat
      && decide ((s.port p).profile.window ≠ 0) && decide (x.effectiveClass ≤ (s.port p).profile.ceiling)
      && decide (x.suspendCount < Config.suspendLimit)
  | none => false

/-- R6: a stream takes hold of a bank. -/
def State.holdBank (s : State) (k : Fin 4) : State :=
  { s with holders := s.holders.set k (s.holders.get k + 1) }

/-- R6: a stream releases a bank. -/
def State.releaseBank (s : State) (k : Fin 4) : State :=
  { s with holders := s.holders.set k (s.holders.get k - 1) }

/-- R14: the port's stream becomes a fill stream, with the fill byte its profile gives now. -/
def State.fillStream (s : State) (p : Port) (st : ReadStream) : State :=
  s.setFrame p (.readStream { st with held := none, fill := some (s.port p).profile.fill })

/-- R9 check 1: the stream is denied. -/
def State.denyStream (s : State) (p : Port) (st : ReadStream) : State :=
  (s.fillStream p st).modifyPort p (fun q => { q with deniedSeen := true })

/-- R9 check 2, R10, R61: the stream meets a conflict, and hands over a suspend request when R10 admits one. -/
def State.conflictStream (s : State) (p : Port) (st : ReadStream) : State :=
  let t := ((s.fillStream p st).modifyPort p (fun q => { q with conflictSeen := true })).post p .readConflict
  if s.raisesRequest p st.current then t.requestSuspend (s.port p).profile.window else t

/-- R9: the opening checks of a stream that holds no bank, at its current address. -/
def State.checkStream (s : State) (p : Port) (st : ReadStream) : State :=
  if s.readDenied p st.current then s.denyStream p st
  else if s.readConflict st.current then s.conflictStream p st
  else
    (s.holdBank (bankOf st.current)).setFrame p
      (.readStream { st with held := some (bankOf st.current), fill := none })

/-- R8: a stream opens. -/
def openStream (quad : Bool) (p : Port) (a : Addr) (s : State) : Result :=
  openFrame quad p s (fun t => (t.modifyPort p (fun q => { q with output := [] })).checkStream p ⟨a, none, none, quad⟩)

/-- R11, R14: the next d bytes a stream delivers. -/
def State.streamBytes (s : State) (st : ReadStream) (d : Nat) : List Byte :=
  match st.fill with
  | some b => List.replicate d b
  | none => (List.range d).map (fun i => s.arrayByte (st.current + BitVec.ofNat 24 i) (s.freeIndex + i))

/-- R11: the address of a stream after d more bytes; from FFFFFFh it steps to 000000h. -/
def ReadStream.advance (st : ReadStream) (d : Nat) : ReadStream :=
  { st with current := st.current + BitVec.ofNat 24 d }

/-- R11, R14: the host clocks out d bytes, none of which brings a check. -/
def State.clockOut (s : State) (p : Port) (st : ReadStream) (d : Nat) : State :=
  { s.modifyPort p (fun q =>
      { q with frame := .readStream (st.advance d), output := q.output ++ s.streamBytes st d }) with
    freeIndex := s.freeIndex + (if st.fill.isNone then d else 0) }

/-- R12, R13: the checks of a stream that holds a bank, at the re-check point where its address now stands. The look
that leaving a bank calls for is the last part of the happening (R48, log 10). -/
def State.recheckStream (s : State) (p : Port) (st : ReadStream) : State :=
  match st.held with
  | some k =>
    if bankOf st.current = k ∧ s.readDenied p st.current = false ∧ s.readConflict st.current = false then
      s.setFrame p (.readStream st)
    else ((s.releaseBank k).checkStream p { st with held := none }).look
  | none => s.checkStream p st

/-- The stream delivers d bytes and steps onto a re-check point; a fill stream makes no check (R14). -/
def State.walkStream (s : State) (p : Port) (st : ReadStream) (d : Nat) : State :=
  match st.fill with
  | some _ => s.clockOut p st d
  | none => (s.clockOut p st d).recheckStream p (st.advance d)

/-- R11: the number of bytes whose delivery steps the stream into the next block. -/
def bytesToBlockEnd (a : Addr) : Nat := Config.blockBytes - a.toNat % Config.blockBytes

/-- R11: the number of bytes whose delivery steps a stream at the address onto the parked target's first byte. DESIGN
CHOICE (log 33): a stream that stands on that byte has no target ahead. Only a fill stream can stand there (R9, R12), it would
step onto the byte again after the whole array, and R11 and R14 give fill streams no target entry. -/
def State.bytesToTarget (s : State) (a : Addr) : Option Nat :=
  match s.parkedTarget with
  | some t =>
    let d := (t.first + Config.arrayBytes - a.toNat) % Config.arrayBytes
    if 0 < d then some d else none
  | none => none

/-- R11: the number of bytes whose delivery brings a stream to its next re-check point. -/
def State.bytesToRecheck (s : State) (a : Addr) : Nat :=
  match s.bytesToTarget a with
  | some d => min d (bytesToBlockEnd a)
  | none => bytesToBlockEnd a

/-- R11, R12, R13, R14: the host clocks n more whole bytes out of a port's read stream, if it has one. The checks are
made at each re-check point on the way; `fuel` bounds how many runs of bytes between them there are. -/
def State.clockBytes (p : Port) : Nat → Nat → State → State
  | 0, _, s => s
  | fuel + 1, n, s =>
    match (s.port p).frame with
    | .readStream st =>
      if st.fill.isSome = true ∨ n < s.bytesToRecheck st.current then s.clockOut p st n
      else if n = s.bytesToRecheck st.current then s.walkStream p st n
      else
        State.clockBytes p fuel (n - s.bytesToRecheck st.current) (s.walkStream p st (s.bytesToRecheck st.current))
    | _ => s

/-- R12, R13: the host clocks the port's read stream on into the next block, of the same bank or of another one, as
its address has it. A port with no read stream has no re-check point (R11): nothing changes (log 33). -/
def crossBlock (p : Port) (s : State) : Result :=
  match (s.port p).frame with
  | .readStream st => .next (s.clockBytes p (bytesToBlockEnd st.current) (bytesToBlockEnd st.current))
  | _ => .next s

/-- R15: the stream's bank, if it holds one, is released. -/
def State.releaseHeld (s : State) (st : ReadStream) : State :=
  match st.held with
  | some k => s.releaseBank k
  | none => s

/-- R15: a read stream closes. It releases its bank, its record is discarded, and the Scheduler looks. -/
def State.closeStream (s : State) (p : Port) : State :=
  match (s.port p).frame with
  | .readStream st => ((s.releaseHeld st).setFrame p .deselected).look
  | _ => s

/-- READ_ARRAY (R8). -/
def execReadArray (p : Port) (addr : Addr) (s : State) : Result := openStream false p addr s

/-- QUAD_READ_ARRAY (R8). -/
def execQuadReadArray (p : Port) (addr : Addr) (s : State) : Result := openStream true p addr s

/-- BLOCK_CROSSING (R12). -/
def execBlockCrossing (p : Port) (s : State) : Result := crossBlock p s

/-- BLOCK_CROSSING_NEW_BANK (R13). -/
def execBlockCrossingNewBank (p : Port) (s : State) : Result := crossBlock p s

/-- TARGET_ENTRY (R11, R12): the stream delivers the bytes before the parked target, with the block crossings among
them, and steps onto its first byte. Where that byte begins a block, the step is a block crossing too. -/
def execTargetEntry (p : Port) (s : State) : Result :=
  match (s.port p).frame with
  | .readStream st =>
    match s.bytesToTarget st.current with
    | some d => .next (s.clockBytes p d d)
    | none => .refused .noTargetAhead
  | _ => .next s

end Sys2Proof.Machine
end

