-- ==== Sys2Proof/Machine/Views.lean ====
section
/-! DEFINITION. The byte layouts of the views and records (R186, R188, R189): READ STATUS, the Completion Record,
READ QUEUE, READ REGIONS, READ MAP, READ INTERRUPTED, READ IDENTITY, READ NOTICES, READ MAILBOX. -/

namespace Sys2Proof.Machine

/-- R186: a 16-bit value, most significant byte first. -/
def bytes16 (w : Word16) : List Byte := [byteOf (w.toNat / 256), byteOf w.toNat]

/-- R186: a 24-bit address, most significant byte first. -/
def bytes24 (a : Addr) : List Byte := [byteOf (a.toNat / 65536), byteOf (a.toNat / 256), byteOf a.toNat]

/-- A slot, item or record of n bytes that is empty (R186). -/
def zeros (n : Nat) : List Byte := List.replicate n 0

/-- R146, R189: the READ STATUS view of a port. -/
def State.statusView (s : State) (p : Port) : List Byte :=
  let q := s.port p
  [q.lastResponse.code,
   byteOf ((decide (s.device = .ready)).toNat + 2 * (decide (s.supply ≠ .normal)).toNat),
   byteOf s.engine.code,
   byteOf (s.entryCount p),
   byteOf (s.recordCount p),
   byteOf (s.credit p),
   byteOf (16 * s.freeBuffers + s.mappedHandles p),
   byteOf (q.conflictSeen.toNat + 2 * q.deniedSeen.toNat + 4 * s.mapDefaulted.toNat
     + 8 * (!s.interrupted.isEmpty).toNat + 16 * s.staged.isSome.toNat)]

/-- R149: the READ IDENTITY view of a port. -/
def identityView (p : Port) : List Byte := [0x5D, 0xA3, p.identity, 0x01]

/-- R119, R189: the bytes of a Completion Record, or of the empty record. -/
def recordBytes : Option CompletionRecord → List Byte
  | none => zeros 8
  | some r =>
    bytes16 r.sequence ++ [r.tag, byteOf (16 * r.kind.code + r.status.code)] ++ bytes24 r.target ++
      [byteOf (64 * r.effectiveClass + r.suspendCount)]

/-- R43, R189: a slot of READ QUEUE in use. -/
def entrySlot (e : Entry) : List Byte :=
  [byteOf (64 * e.port.code + 32 * e.orphaned.toNat + 4 * e.kind.code + e.state.code), e.tag] ++
    bytes24 e.targetAddr ++
    [byteOf (64 * e.requestedClass + 16 * e.effectiveClass + e.bypass),
     byteOf (32 * e.buffer.getD 7 + e.suspendCount),
     byteOf e.arrival.toNat]

/-- R43: the 96 bytes of READ QUEUE. -/
def State.queueView (s : State) : List Byte :=
  (List.range 12).flatMap (fun i => match s.queue[i]? with
    | some e => entrySlot e
    | none => zeros 8)

/-- R98, R189: a slot of READ REGIONS. -/
def regionSlot : Option Region → List Byte
  | none => zeros 8
  | some r =>
    [byteOf r.lease.state.code, r.definition.first, r.definition.last,
     byteOf (r.definition.readMask.bits + 16 * r.definition.writeMask.bits),
     r.definition.limit,
     byteOf r.lease.remaining,
     byteOf (16 * Port.codeOf r.lease.holder + 4 * Port.codeOf r.lease.waiters[0]?
       + Port.codeOf r.lease.waiters[1]?),
     byteOf r.lease.drain]

/-- R98: the 128 bytes of READ REGIONS. -/
def State.regionsView (s : State) : List Byte :=
  (List.range 16).flatMap (fun i => regionSlot (s.region i))

/-- R189: a region definition in a map image. -/
def definitionBytes : Option RegionDef → List Byte
  | none => zeros 4
  | some d => [d.first, d.last, byteOf (128 + 16 * d.writeMask.bits + d.readMask.bits), d.limit]

/-- R189: a profile in a map image. -/
def profileBytes (f : Profile) : List Byte := [byteOf (16 * f.ceiling + f.window), f.fill]

/-- R170, R189: the 73 bytes of a map image that is present. -/
def imageBytes (m : MapImage) (generation : Word16) (slot : Option SlotName) : List Byte :=
  byteOf (128 + 4 * SlotName.codeOf slot + Port.codeOf m.authority) :: bytes16 generation ++
    (List.range 16).flatMap (fun i => definitionBytes (m.regions[i]?).join) ++
    profileBytes m.profiles.a ++ profileBytes m.profiles.b ++ profileBytes m.profiles.c

/-- R170: the READ MAP view chosen by a selector. -/
def State.mapView (s : State) (selector : Byte) : List Byte :=
  match selector.toNat with
  | 0 => imageBytes s.workingImage s.generation s.currentSlot
  | 1 =>
    match s.staged with
    | some m => imageBytes m 0 none
    | none => zeros 73
  | _ => zeros 73

/-- R183, R189: an item of READ INTERRUPTED. -/
def itemBytes : Option InterruptedItem → List Byte
  | none => zeros 7
  | some x => byteOf x.kind.code :: bytes24 x.target ++ [byteOf x.port.code, x.tag, byteOf x.suspended.toNat]

/-- R183: the 15 bytes of READ INTERRUPTED. -/
def State.interruptedView (s : State) : List Byte :=
  byteOf s.interrupted.length :: itemBytes s.interrupted[0]? ++ itemBytes s.interrupted[1]?

/-- R126, R188: the two bytes of READ NOTICES. -/
def noticesBytes (pending enables : NoticeFlags) : List Byte := [pending.toByte, enables.toByte]

/-- R132, R188: the two bytes of READ MAILBOX. -/
def mailboxBytes : Option Signal → List Byte
  | none => zeros 2
  | some x => [byteOf x.sender.code, x.value]

end Sys2Proof.Machine
end

