-- ==== Sys2Proof/Machine/FrameEnd.lean ====
section
/-! DEFINITION. The rise of chip-select that ends a frame with an output phase: what the host received, and what the
frame's own view makes of its clock-out (R15, R108, R120, R127, R132, R138, R142, R144, R148). -/

namespace Sys2Proof.Machine

/-- R108: the n bytes a READ BUFFER stream delivers. -/
def State.bufferBytes (s : State) (st : BufferStream) (n : Nat) : List Byte :=
  match st.buffer.bind (fun b => s.buffers[b]?) with
  | some u => (List.range n).map (fun i => u.data.getD ((st.offset.toNat + i) % 256) 0)
  | none => List.replicate n 0

/-- R148: the rise of READ STATUS. A full clock-out clears each sticky flag that the view showed set. -/
def State.endReadStatus (s : State) (p : Port) (bytes : List Byte) (conflict denied : Bool) (n : Nat) : State :=
  let t := s.endFrame p (clockedOut bytes n)
  if 8 ≤ n then
    t.modifyPort p (fun q =>
      { q with conflictSeen := q.conflictSeen && !conflict, deniedSeen := q.deniedSeen && !denied })
  else t

/-- R120: the rise of POP COMPLETION. The head record leaves when all 8 bytes were clocked out. -/
def State.endPopCompletion (s : State) (p : Port) (head : Option CompletionRecord) (n : Nat) : State :=
  let t := (s.endFrame p (clockedOut (recordBytes head) n)).respond p .ok
  if head.isSome && decide (8 ≤ n) then
    t.modifyPort p (fun q => { q with completions := q.completions.tail })
  else t

/-- R127: the rise of READ NOTICES. The latched kinds that the view showed, and that were not posted again since, are
cleared when the first byte was clocked out. -/
def State.endReadNotices (s : State) (p : Port) (shown enables : NoticeFlags) (n : Nat) : State :=
  let t := (s.endFrame p (clockedOut (noticesBytes shown enables) n)).respond p .ok
  if 1 ≤ n then
    t.modifyPort p (fun q => { q with latched := q.latched.afterReading shown q.postedSinceView })
  else t

/-- R132: the rise of READ MAILBOX. A full mailbox is emptied when both bytes were clocked out. -/
def State.endReadMailbox (s : State) (p : Port) (content : Option Signal) (n : Nat) : State :=
  let t := (s.endFrame p (clockedOut (mailboxBytes content) n)).respond p .ok
  if content.isSome && decide (2 ≤ n) then t.modifyPort p (fun q => { q with mailbox := none }) else t

/-- R138, R144: the rise of a DATA_OUT frame, by its view, after n whole bytes. -/
def State.endView (s : State) (p : Port) (n : Nat) : View → State
  | .notReady _ => s.answerNotReady p n
  | .status bytes conflict denied => s.endReadStatus p bytes conflict denied n
  | .inquiry _ bytes => s.endFrame p (clockedOut bytes n)
  | .completion head => s.endPopCompletion p head n
  | .notices shown enables => s.endReadNotices p shown enables n
  | .mailbox content => s.endReadMailbox p content n

/-- R136: the rise of chip-select ends the port's output frame, whichever it is. Of a view or a READ BUFFER stream
n whole bytes were clocked out; of a read stream n more are, with the checks they bring, before it closes. -/
def State.endOutput (s : State) (p : Port) (n : Nat) : State :=
  match (s.port p).frame with
  | .dataOut v => s.endView p n v
  | .bufferStream st => s.endFrame p (s.bufferBytes st n)
  | .readStream _ => (s.clockBytes p n n).closeStream p
  | _ => s

/-- The row of a rise. On a DESELECTED or INERT port nothing ends (R136, R137); a frame that the lines are in the
midst of ends with their own rise (logs 28 and 32). -/
def riseFrame (p : Port) (s : State) (n : Nat) : Result :=
  match (s.port p).frame with
  | .receiving _ => .refused .frameInProgress
  | .trailing _ => .refused .frameInProgress
  | .dataIn _ => .refused .frameInProgress
  | _ => .next (s.endOutput p n)

/-- READ_STREAM_CLOSE (R15): n more whole bytes, and the rise of chip-select. -/
def execReadStreamClose (p : Port) (clocked : Nat) (s : State) : Result := riseFrame p s clocked

end Sys2Proof.Machine
end

