-- ==== Sys2Proof/Machine/Buffers.lean ====
section
/-! DEFINITION. Program Buffers: LOAD BUFFER, LOAD BUFFER QUAD, DISCARD BUFFER, READ BUFFER (R100 to R109). -/

namespace Sys2Proof.Machine

/-- R104: the decision of a LOAD, case by case. -/
def State.loadCase (p : Port) (handle offset : Byte) (data : List Byte) (s : State) : Response × State :=
  if 3 < handle.toNat then (.badParameter, s)
  else
    match (s.port p).handle handle with
    | some b => (.ok, s.modifyBuffer b (fun u => { u with data := loadBytes u.data offset.toNat data }))
    | none =>
      match s.lowestFree with
      | none => (.noBuffer, s)
      | some b =>
        if Config.bufferOwnership ≤ s.ownedBuffers p then (.noBuffer, s)
        else
          (.ok, (s.modifyBuffer b (fun _ =>
            ⟨.filling, loadBytes (List.replicate 256 Config.erased) offset.toNat data⟩)).setHandle p handle
              (some b))

/-- R104, R107: a LOAD frame. A frame with no whole data byte ends inside its fixed part (R140, log 23). -/
def loadFrame (p : Port) (handle offset : Byte) (data : List Byte) (s : State) : Result :=
  takeCommand p s (fun t => if data = [] then (.frameError, t) else t.loadCase p handle offset data)

/-- LOAD_BUFFER (R104). -/
def execLoadBuffer (p : Port) (handle offset : Byte) (data : List Byte) (s : State) : Result :=
  loadFrame p handle offset data s

/-- LOAD_BUFFER_QUAD (R107). -/
def execLoadBufferQuad (p : Port) (handle offset : Byte) (data : List Byte) (s : State) : Result :=
  loadFrame p handle offset data s

/-- DISCARD_BUFFER (R109). -/
def execDiscardBuffer (p : Port) (handle : Byte) (s : State) : Result :=
  takeCommand p s (fun t =>
    if 3 < handle.toNat then (.badParameter, t)
    else
      match (t.port p).handle handle with
      | none => (.noHandle, t)
      | some b => (.ok, (t.modifyBuffer b (fun u => { u with state := .free })).setHandle p handle none))

/-- READ_BUFFER (R108): the stream opens at the end of the dummy byte and closes at the rise. -/
def execReadBuffer (p : Port) (m : FramePart (Byte × Byte)) (s : State) : Result :=
  match m with
  | .fixed f => openFrame false p s (fun t => t.setFrame p (.bufferStream ⟨(t.port p).handle f.1, f.2⟩))
  | .rise n => riseFrame p s n

end Sys2Proof.Machine
end

