-- ==== Sys2Proof/Machine/Completion.lean ====
section
/-! DEFINITION. Completion Queues, notices and Peer Mailboxes (R119 to R132). -/

namespace Sys2Proof.Machine

/-- POP_COMPLETION (R119, R120): the head record leaves when all 8 bytes were clocked out. -/
def execPopCompletion (p : Port) (m : FramePart Unit) (s : State) : Result :=
  match m with
  | .fixed _ => openFrame false p s (fun t => t.setFrame p (.dataOut (.completion (t.port p).completions.head?)))
  | .rise n => riseFrame p s n

/-- READ_NOTICES (R126, R127): the latched kinds that the view showed, and that were not posted again since, are
cleared when the first byte was clocked out. -/
def execReadNotices (p : Port) (m : FramePart Unit) (s : State) : Result :=
  match m with
  | .fixed _ =>
    openFrame false p s (fun t => t.modifyPort p (fun q =>
      { q with frame := .dataOut (.notices q.pendingNotices q.enables), postedSinceView := .none }))
  | .rise n => riseFrame p s n

/-- SET_NOTICE_ENABLES (R128). -/
def execSetNoticeEnables (p : Port) (enables : Byte) (s : State) : Result :=
  takeCommand p s (fun t => (.ok, t.modifyPort p (fun q => { q with enables := NoticeFlags.ofByte enables })))

/-- SIGNAL_PORT (R130). -/
def execSignalPort (p : Port) (target value : Byte) (s : State) : Result :=
  takeCommand p s (fun t =>
    match Port.ofCode target with
    | some (some d) =>
      if d = p then (.badParameter, t)
      else if (t.port d).mailbox.isSome then (.mailboxFull, t)
      else (.ok, (t.modifyPort d (fun q => { q with mailbox := some ⟨p, value⟩ })).post d .peerSignal)
    | _ => (.badParameter, t))

/-- READ_MAILBOX (R132): a full mailbox is emptied when both bytes were clocked out. -/
def execReadMailbox (p : Port) (m : FramePart Unit) (s : State) : Result :=
  match m with
  | .fixed _ => openFrame false p s (fun t => t.setFrame p (.dataOut (.mailbox (t.port p).mailbox)))
  | .rise n => riseFrame p s n

end Sys2Proof.Machine
end

