-- ==== Sys2Proof/Machine/Engine.lean ====
section
/-! DEFINITION. The happenings of the engine and of the read window: the end of an operation, the suspend point, and
the steps of the window (R55 to R66, R168, R169). -/

namespace Sys2Proof.Machine

/-- R55: the status of an ended entry. -/
def endStatus (kind : EntryKind) : EndOutcome → Status
  | .done => .done
  | .failed =>
    match kind with
    | .program => .programFailed
    | .sectorErase => .eraseFailed
    | .blockErase => .eraseFailed
    | .mapCommit => .mapWriteFailed

/-- The bytes of the buffer that an entry owns. -/
def State.entryData (s : State) (e : Entry) : List Byte :=
  match e.buffer.bind (fun b => s.buffers[b]?) with
  | some u => u.data
  | none => []

/-- R2, R3, R4: what the end of an array operation leaves in the array. -/
def State.endInArray (s : State) (e : Entry) (outcome : EndOutcome) : State :=
  match e.target with
  | some t =>
    match outcome with
    | .done => s.applyDone e.kind t (s.entryData e)
    | .failed => s.unsettle t
  | none => s

/-- R95: an entry of the Region Table when a commit ends DONE. A FROZEN region takes the image's definition or
becomes UNDEFINED; an UNDEFINED entry becomes DEFINED where the image defines it; any other is unchanged. -/
def applyDefinition (slot : Option Region) (d : Option RegionDef) : Option Region :=
  match slot with
  | some r => if r.lease.state = .frozen then d.map (fun x => ⟨x, freshLease⟩) else some r
  | none => d.map (fun x => ⟨x, freshLease⟩)

/-- R155, R168: a MAP_COMMIT ended DONE. Its slot is written whole and becomes current, the map takes the commit
image, the staged map is discarded, and MAP_CHANGED is posted to all ports. -/
def State.commitDone (s : State) : State :=
  match s.commitImage with
  | some m =>
    let n := s.commitSlot
    let t := s.setSlot n ⟨m, s.generation + 1, true⟩
    let u := { t with
      currentSlot := some n
      generation := s.generation + 1
      regions := regionIndices.map (fun i => applyDefinition (s.region i) (m.regions[i]?).join)
      authority := m.authority
      staged := none
      commitImage := none
      mapDefaulted := false }
    (u.loadProfiles m.profiles).postAll .mapChanged
  | none => s

/-- R169: a MAP_COMMIT ended MAP_WRITE_FAILED. -/
def State.commitFailed (s : State) : State := { s.unfreezeAll with commitImage := none }

/-- R56 step 3. -/
def State.endInNeighbours (s : State) (e : Entry) (outcome : EndOutcome) : State :=
  if e.kind = .mapCommit then
    match outcome with
    | .done => s.commitDone
    | .failed => s.commitFailed
  else
    match e.region with
    | some r => s.drainDown r
    | none => s

/-- R56 step 5. -/
def EngineState.ended : EngineState → EngineState
  | .busy => .idle
  | .suspending => .idle
  | .busyParked => .parked
  | g => g

/-- R56 steps 1 to 6 for the active entry, which stands at a place of the queue. -/
def State.endEntry (s : State) (i : Nat) (e : Entry) (outcome : EndOutcome) : State :=
  let s1 := { s with queue := s.queue.eraseIdx i }
  let s2 := (s1.endInArray e outcome).freeEntryBuffer e
  let s3 := s2.endInNeighbours e outcome
  let s4 := if e.orphaned then s3 else s3.postRecord e (endStatus e.kind outcome)
  { s4 with
    engine := s.engine.ended
    noted := if s.engine = .suspending then none else s4.noted }

/-- OPERATION_END (R55, R56): the look comes last. An operation that is being cut off has no end (R54, R72). -/
def execOperationEnd (outcome : EndOutcome) (s : State) : Result :=
  if s.engine = .idle ∨ s.engine = .parked ∨ s.stopping ≠ [] then .refused .noActiveEntry
  else
    match s.activeIndex with
    | some i =>
      match s.queue[i]? with
      | some e => .next (s.endEntry i e outcome).look
      | none => .fault .engineLawBroken
    | none => .fault .engineLawBroken

/-- R63 steps 1 to 3 for the erase that is SUSPENDING. -/
def State.parkErase (s : State) (i : Nat) : State :=
  let t := s.modifyEntry i (fun e => { e with state := .suspended, suspendCount := e.suspendCount + 1 })
  { t with
    engine := .parked
    window := if s.noted.isSome then s.noted else s.window
    noted := none }

/-- SUSPEND_POINT (R63). An erase that is being cut off reaches none (R54, R72). -/
def execSuspendPoint (s : State) : Result :=
  if s.engine = .suspending ∧ s.stopping = [] then
    match s.activeIndex with
    | some i => .next (s.parkErase i).look
    | none => .fault .engineLawBroken
  else .refused .notSuspending

/-- R66: the step that lowers the open window's remaining time; the step that brings it to 0 closes the window, and
the Scheduler looks. -/
def State.windowStep (s : State) (left : Nat) : State :=
  if left ≤ 1 then { s with window := none }.look else { s with window := some (left - 1) }

/-- READ_WINDOW_STEP (R66). -/
def execReadWindowStep (s : State) : Result :=
  match s.window with
  | some left => .next (s.windowStep left)
  | none => .refused .windowClosed

/-- READ_WINDOW_CLOSE (R66): the step that brings the remaining time to 0 (log 12). -/
def execReadWindowClose (s : State) : Result :=
  match s.window with
  | some left => if left ≤ 1 then .next { s with window := none }.look else .refused .windowNotEnding
  | none => .refused .windowClosed

end Sys2Proof.Machine
end

