-- ==== Sys2Proof/Machine/Leases.lean ====
section
/-! DEFINITION. Regions and write leases: the three lease commands, the tick, the expiry, READ REGIONS (R74 to
R99). -/

namespace Sys2Proof.Machine

/-- R83 cases 2 to 8 for a DEFINED region. -/
def State.claimCase (p : Port) (i : Nat) (r : Region) (s : State) : Response × State :=
  if r.definition.writeMask.has p = false then (.noPermission, s)
  else if r.lease.state = .frozen then (.mapPending, s)
  else if r.lease.holder = some p ∨ p ∈ r.lease.waiters then (.ok, s)
  else
    match r.lease.state with
    | .free =>
      (.ok, (s.modifyLease i (fun l =>
        { l with state := .held, holder := some p, remaining := r.definition.limit.toNat })).post p .leaseGranted)
    | .held => (.waiting, s.modifyLease i (fun l => { l with waiters := l.waiters ++ [p] }))
    | .draining =>
      if r.lease.waiters.length < 2 then
        (.waiting, s.modifyLease i (fun l => { l with waiters := l.waiters ++ [p] }))
      else (.notHolder, s)
    | .frozen => (.mapPending, s)

/-- CLAIM_REGION (R83, R84). -/
def execClaimRegion (p : Port) (index : Byte) (s : State) : Result :=
  takeCommand p s (fun t =>
    if 15 < index.toNat then (.undefinedRegion, t)
    else
      match t.region index.toNat with
      | none => (.undefinedRegion, t)
      | some r => t.claimCase p index.toNat r)

/-- RENEW_LEASE (R86). -/
def execRenewLease (p : Port) (index : Byte) (s : State) : Result :=
  takeCommand p s (fun t =>
    if 15 < index.toNat then (.undefinedRegion, t)
    else
      match t.region index.toNat with
      | none => (.undefinedRegion, t)
      | some r =>
        if r.lease.holder = some p then
          (.ok, t.modifyLease index.toNat (fun l => { l with remaining := r.definition.limit.toNat }))
        else (.notHolder, t))

/-- R88 case 3: a QUEUED entry of the port has this region. -/
def Entry.queuedIn (p : Port) (i : Nat) (e : Entry) : Bool :=
  e.isQueued && decide (e.port = p) && decide (e.region = some i)

/-- R88 cases 2 to 5 for a DEFINED region. -/
def State.releaseCase (p : Port) (i : Nat) (r : Region) (s : State) : Response × State :=
  if p ∈ r.lease.waiters then (.ok, s.modifyLease i (fun l => { l with waiters := l.waiters.erase p }))
  else if r.lease.holder = some p then
    if s.queue.any (Entry.queuedIn p i) then (.pendingWork, s) else (.ok, s.endLease i)
  else (.notHolder, s)

/-- RELEASE_REGION (R88). -/
def execReleaseRegion (p : Port) (index : Byte) (s : State) : Result :=
  takeCommand p s (fun t =>
    if 15 < index.toNat then (.undefinedRegion, t)
    else
      match t.region index.toNat with
      | none => (.undefinedRegion, t)
      | some r => t.releaseCase p index.toNat r)

/-- R38, R93 step 1: the holder's QUEUED entries in the region leave, oldest first. -/
def State.loseEntries (s : State) (p : Port) (i : Nat) : State :=
  (s.queue.filter (Entry.queuedIn p i)).foldl State.loseEntry
    { s with queue := s.queue.filter (fun e => !e.queuedIn p i) }

/-- R93: the expiry of the lease that a port holds on a region. -/
def State.expireLease (s : State) (p : Port) (i : Nat) : State :=
  ((s.loseEntries p i).post p .leaseLost).endLease i

/-- R92: the warning point of a lease limit; 0 gives no warning. -/
def warningPoint (limit : Nat) : Nat := limit / 4

/-- R91: the countdown step of a HELD region with a nonzero lease limit, its holder being p. -/
def State.countdownHeld (s : State) (i : Nat) (r : Region) (p : Port) : State :=
  let left := r.lease.remaining - 1
  let t := s.modifyLease i (fun l => { l with remaining := left })
  let u := if left = warningPoint r.definition.limit.toNat ∧ 1 ≤ left then t.post p .leaseWarning else t
  if left = 0 then u.expireLease p i else u

/-- R90: one region's part of a tick; other regions are passed over. -/
def State.countdown (s : State) (i : Nat) : State :=
  match s.region i with
  | some r =>
    match r.lease.state, r.lease.holder with
    | .held, some p => if 0 < r.definition.limit.toNat then s.countdownHeld i r p else s
    | _, _ => s
  | none => s

/-- LEASE_TICK (R90, R91): the countdown steps of all regions, in ascending index order. -/
def execLeaseTick (s : State) : Result :=
  if s.leaseClock then .next (regionIndices.foldl State.countdown s) else .refused .leaseClockStopped

/-- Whether a region's next countdown step expires its lease (R91). -/
def State.leaseEnding (s : State) (i : Nat) : Bool :=
  match s.region i with
  | some r =>
    decide (r.lease.state = .held) && r.lease.holder.isSome && decide (0 < r.definition.limit.toNat)
      && decide (r.lease.remaining ≤ 1)
  | none => false

/-- LEASE_EXPIRY (R91, R93): the countdown step of one region that brings its remaining to 0, with the expiry it
makes (log 11). -/
def execLeaseExpiry (region : Fin 16) (s : State) : Result :=
  if s.leaseClock = false then .refused .leaseClockStopped
  else if s.leaseEnding region.val then .next (s.countdown region.val)
  else .refused .leaseNotEnding

/-- READ_REGIONS (R98, R99). -/
def execReadRegions (p : Port) (m : FramePart Unit) (s : State) : Result :=
  match m with
  | .fixed _ => openInquiry p s .regions s.regionsView
  | .rise n => riseFrame p s n

end Sys2Proof.Machine
end

