-- ==== Sys2Proof/Machine/WorkQueue.lean ====
section
/-! DEFINITION. The Work Queue's commands: the three submissions, CANCEL and READ QUEUE (R18 to R44). -/

namespace Sys2Proof.Machine

/-- R20, R21, R27, R31: an entry is appended at the end of the queue, QUEUED, with the next arrival number. -/
def State.appendEntry (s : State) (p : Port) (tag : Byte) (kind : EntryKind) (target : Option Target)
    (region buffer : Option Nat) (requested effective : Nat) : State :=
  { s with
    queue := s.queue ++
      [⟨p, tag, kind, target, region, buffer, requested, effective, 0, .queued, false, 0, s.arrival⟩]
    arrival := s.arrival + 1 }

/-- R25 check 5: the target block lies in a defined region whose write mask includes the port. -/
def State.mayWrite (s : State) (p : Port) (block : Nat) : Bool :=
  match (s.regionOfBlock block).bind s.region with
  | some r => r.definition.writeMask.has p
  | none => false

/-- R25 check 6: that region is HELD with the port as holder. -/
def State.holdsBlock (s : State) (p : Port) (block : Nat) : Bool :=
  match (s.regionOfBlock block).bind s.region with
  | some r => decide (r.lease.state = .held) && decide (r.lease.holder = some p)
  | none => false

/-- R24 checks 4 to 8, which all three submissions make. -/
def State.commonChecks (s : State) (p : Port) (block : Nat) (tag : Byte) : List (Bool × Response) :=
  [(s.tagInUse p tag, .tagInUse),
   (!s.mayWrite p block, .noPermission),
   (!s.holdsBlock p block, .notHolder),
   (decide (s.credit p = 0), .noCredit),
   (decide (Config.queueCapacity ≤ s.queue.length), .queueFull)]

/-- R24: the checks of SUBMIT PROGRAM, in order. -/
def State.programChecks (s : State) (p : Port) (handle : Byte) (addr : Addr) (tag cls : Byte) :
    List (Bool × Response) :=
  [(decide (3 < cls.toNat) || decide (3 < handle.toNat), .badParameter),
   (((s.port p).handle handle).isNone, .noHandle),
   (decide (addr.toNat % 256 ≠ 0), .badAddress)] ++ s.commonChecks p (blockOf addr) tag

/-- R24: the checks of the erase submissions, in order. -/
def State.eraseChecks (s : State) (p : Port) (addr : Addr) (tag cls : Byte) : List (Bool × Response) :=
  (decide (3 < cls.toNat), .badParameter) :: s.commonChecks p (blockOf addr) tag

/-- R28: the effective class of a submission. -/
def State.cappedClass (s : State) (p : Port) (cls : Byte) : Nat := min cls.toNat (s.port p).profile.ceiling

/-- R27: an accepted SUBMIT PROGRAM binds its buffer, unmaps its handle and appends its entry (R110). -/
def State.acceptProgram (s : State) (p : Port) (handle : Byte) (addr : Addr) (tag cls : Byte) : State :=
  let b := (s.port p).handle handle
  let t := s.appendEntry p tag .program (some (.page (pageOf addr))) (s.regionOfBlock (blockOf addr)) b cls.toNat
    (s.cappedClass p cls)
  let u := match b with
    | some n => t.modifyBuffer n (fun x => { x with state := .bound })
    | none => t
  u.setHandle p handle none

/-- R27: an accepted erase submission appends its entry. -/
def State.acceptErase (s : State) (p : Port) (kind : EntryKind) (target : Target) (tag cls : Byte) (addr : Addr) :
    State :=
  s.appendEntry p tag kind (some target) (s.regionOfBlock (blockOf addr)) none cls.toNat (s.cappedClass p cls)

/-- R24: a checked command: the first check that fails gives the code and nothing else changes; otherwise it is
accepted with OK, and the Scheduler makes the look that an acceptance calls for (R27, R48). -/
def State.checkedAccept (s : State) (checks : List (Bool × Response)) (accepted : State) : Response × State :=
  match firstFailing checks with
  | some r => (r, s)
  | none => (.ok, accepted.look)

/-- SUBMIT_PROGRAM (R24). -/
def execSubmitProgram (p : Port) (handle : Byte) (addr : Addr) (tag cls : Byte) (s : State) : Result :=
  takeCommand p s (fun t =>
    t.checkedAccept (t.programChecks p handle addr tag cls) (t.acceptProgram p handle addr tag cls))

/-- SUBMIT_SECTOR_ERASE (R24). -/
def execSubmitSectorErase (p : Port) (addr : Addr) (tag cls : Byte) (s : State) : Result :=
  takeCommand p s (fun t =>
    t.checkedAccept (t.eraseChecks p addr tag cls)
      (t.acceptErase p .sectorErase (.sector (sectorOf addr)) tag cls addr))

/-- SUBMIT_BLOCK_ERASE (R24). -/
def execSubmitBlockErase (p : Port) (addr : Addr) (tag cls : Byte) (s : State) : Result :=
  takeCommand p s (fun t =>
    t.checkedAccept (t.eraseChecks p addr tag cls)
      (t.acceptErase p .blockErase (.block (blockOf addr)) tag cls addr))

/-- R32: the place of the port's entry with a tag. -/
def State.tagIndex (s : State) (p : Port) (tag : Byte) : Option Nat :=
  s.queue.findIdx? (fun e => decide (e.port = p) && decide (e.tag = tag))

/-- R32, R34: the removal of a QUEUED entry by CANCEL: its buffer goes to FREE, its CANCELLED record is posted, and
a MAP_COMMIT's regions return to FREE. -/
def State.cancelEntry (s : State) (i : Nat) (e : Entry) : State :=
  let t := (({ s with queue := s.queue.eraseIdx i }).freeEntryBuffer e).postRecord e .cancelled
  if e.kind = .mapCommit then t.dropCommit else t

/-- CANCEL (R32). -/
def execCancel (p : Port) (tag : Byte) (s : State) : Result :=
  takeCommand p s (fun t =>
    match t.tagIndex p tag with
    | none => (.unknownTag, t)
    | some i =>
      match t.queue[i]? with
      | none => (.unknownTag, t)
      | some e => if e.isQueued then (.ok, t.cancelEntry i e) else (.started, t))

/-- READ_QUEUE (R43, R44). -/
def execReadQueue (p : Port) (m : FramePart Unit) (s : State) : Result :=
  match m with
  | .fixed _ => openInquiry p s .queue s.queueView
  | .rise n => riseFrame p s n

end Sys2Proof.Machine
end

