-- ==== Sys2Proof/Machine/MapCommands.lean ====
section
/-! DEFINITION. The map commands: staging, MAP COMMIT, MAP DISCARD, READ MAP (R155 to R171). -/

namespace Sys2Proof.Machine

/-- R159: the first check of the six map commands. -/
def State.notAuthority (s : State) (p : Port) : Bool := decide (s.authority ≠ some p)

/-- R162, R163: the first three cases of the three edits. -/
def State.editChecks (s : State) (p : Port) : List (Bool × Response) :=
  [(s.notAuthority p, .notAuthority), (s.staged.isNone, .noStage), (s.mapPending, .mapPending)]

/-- A map command that is decided by checks and, when none fails, makes its effect with OK. -/
def State.checked (s : State) (checks : List (Bool × Response)) (effect : State) : Response × State :=
  match firstFailing checks with
  | some r => (r, s)
  | none => (.ok, effect)

/-- MAP_STAGE_BEGIN (R161). -/
def execMapStageBegin (p : Port) (s : State) : Result :=
  takeCommand p s (fun t =>
    t.checked [(t.notAuthority p, .notAuthority), (t.mapPending, .mapPending)]
      { t with staged := some t.workingImage })

/-- The staged map, if present, with an edit made. -/
def State.editStage (s : State) (f : MapImage → MapImage) : State := { s with staged := s.staged.map f }

/-- R162 case 4: the fields of MAP STAGE REGION are out of range. -/
def badRegionFields (index defined readMask writeMask : Byte) : Bool :=
  decide (15 < index.toNat) || decide (1 < defined.toNat) || (PortSet.ofByte readMask).isNone
    || (PortSet.ofByte writeMask).isNone

/-- R162 cases 5 and 6: the staged entry a MAP STAGE REGION writes. -/
def stagedEntry (defined first last readMask writeMask limit : Byte) : Option RegionDef :=
  if defined.toNat = 1 then
    match PortSet.ofByte readMask, PortSet.ofByte writeMask with
    | some r, some w => some ⟨first, last, r, w, limit⟩
    | _, _ => none
  else none

/-- MAP_STAGE_REGION (R162). -/
def execMapStageRegion (p : Port) (index defined first last readMask writeMask limit : Byte) (s : State) : Result :=
  takeCommand p s (fun t =>
    t.checked (t.editChecks p ++ [(badRegionFields index defined readMask writeMask, .badParameter)])
      (t.editStage (fun m =>
        { m with
          regions := m.regions.set index.toNat (stagedEntry defined first last readMask writeMask limit) })))

/-- R163: the fields of MAP STAGE PROFILE are out of range. -/
def badProfileFields (code ceiling window : Byte) : Bool :=
  decide (code.toNat = 0) || decide (3 < code.toNat) || decide (3 < ceiling.toNat) || decide (15 < window.toNat)

/-- R163: the staged profile of the named port takes the fields. -/
def MapImage.setProfile (m : MapImage) (code : Byte) (f : Profile) : MapImage :=
  match Port.ofCode code with
  | some (some d) => { m with profiles := m.profiles.set d f }
  | _ => m

/-- MAP_STAGE_PROFILE (R163). -/
def execMapStageProfile (p : Port) (code ceiling window fill : Byte) (s : State) : Result :=
  takeCommand p s (fun t =>
    t.checked (t.editChecks p ++ [(badProfileFields code ceiling window, .badParameter)])
      (t.editStage (fun m => m.setProfile code ⟨ceiling.toNat, window.toNat, fill⟩)))

/-- MAP_STAGE_AUTHORITY (R163). -/
def execMapStageAuthority (p : Port) (code : Byte) (s : State) : Result :=
  takeCommand p s (fun t =>
    t.checked (t.editChecks p ++ [((Port.ofCode code).isNone, .badParameter)])
      (t.editStage (fun m => { m with authority := (Port.ofCode code).join })))

/-- MAP_DISCARD (R164). -/
def execMapDiscard (p : Port) (s : State) : Result :=
  takeCommand p s (fun t =>
    t.checked [(t.notAuthority p, .notAuthority), (t.mapPending, .mapPending)] { t with staged := none })

/-- R165 check 4: two definitions share a block. -/
def RegionDef.overlaps (d e : RegionDef) : Bool :=
  decide (d.first.toNat ≤ e.last.toNat) && decide (e.first.toNat ≤ d.last.toNat)

/-- R165 check 4: a first block is not above the last, and no two share a block. -/
def definitionsValid : List RegionDef → Bool
  | [] => true
  | d :: ds => decide (d.first.toNat ≤ d.last.toNat) && ds.all (fun e => !d.overlaps e) && definitionsValid ds

/-- R165 check 4. -/
def MapImage.valid (m : MapImage) : Bool := definitionsValid (m.regions.filterMap id)

/-- R94, R165: whether the image changes a DEFINED region. -/
def MapImage.changes (m : MapImage) (i : Nat) (r : Region) : Bool :=
  decide ((m.regions[i]?).join ≠ some r.definition)

/-- R165 check 7: a changed DEFINED region is not FREE. -/
def State.changedNotFree (s : State) (m : MapImage) : Bool :=
  regionIndices.any (fun i => match s.region i with
    | some r => m.changes i r && decide (r.lease.state ≠ .free)
    | none => false)

/-- R94: a changed DEFINED region becomes FROZEN. -/
def State.freeze (m : MapImage) (s : State) (i : Nat) : State :=
  match s.region i with
  | some r => if m.changes i r then s.modifyLease i (fun l => { l with state := .frozen }) else s
  | none => s

/-- R165: the checks of MAP COMMIT, in order. -/
def State.commitChecks (s : State) (p : Port) (tag : Byte) : List (Bool × Response) :=
  [(s.notAuthority p, .notAuthority),
   (s.staged.isNone, .noStage),
   (s.mapPending, .mapPending),
   (match s.staged with
    | some m => !m.valid
    | none => false, .badMap),
   (decide (s.generation = Config.generationSpent), .generationSpent),
   (s.tagInUse p tag, .tagInUse),
   (match s.staged with
    | some m => s.changedNotFree m
    | none => false, .regionBusy),
   (decide (s.credit p = 0), .noCredit),
   (decide (Config.queueCapacity ≤ s.queue.length), .queueFull)]

/-- R166 steps 1 to 3: the commit image is taken, the changed regions are frozen, the entry is appended with both
classes at the port's ceiling (R28, R31). -/
def State.acceptCommit (s : State) (p : Port) (tag : Byte) : State :=
  match s.staged with
  | some m =>
    (regionIndices.foldl (State.freeze m) { s with commitImage := some m }).appendEntry p tag .mapCommit none none
      none (s.port p).profile.ceiling (s.port p).profile.ceiling
  | none => s

/-- MAP_COMMIT (R165, R166). -/
def execMapCommit (p : Port) (tag : Byte) (s : State) : Result :=
  takeCommand p s (fun t => t.checkedAccept (t.commitChecks p tag) (t.acceptCommit p tag))

/-- READ_MAP (R170). -/
def execReadMap (p : Port) (m : FramePart Byte) (s : State) : Result :=
  match m with
  | .fixed selector => openInquiry p s .map (s.mapView selector)
  | .rise n => riseFrame p s n

end Sys2Proof.Machine
end

