-- ==== Sys2Proof/Machine/Ports.lean ====
section
/-! DEFINITION. The Host Port's own commands: READ STATUS, READ IDENTITY, PORT RESET, and the frames that carry no
command (R135 to R153). -/

namespace Sys2Proof.Machine

/-- READ_STATUS (R146, R148): answered in STARTING as in READY; a full clock-out clears each sticky flag that the
view showed set. -/
def execReadStatus (p : Port) (m : FramePart Unit) (s : State) : Result :=
  match m with
  | .fixed _ =>
    match (s.port p).frame with
    | .inert => .next s
    | .deselected =>
      .next (s.setFrame p (.dataOut (.status (s.statusView p) (s.port p).conflictSeen (s.port p).deniedSeen)))
    | _ => .refused .frameInProgress
  | .rise n => riseFrame p s n

/-- READ_IDENTITY (R149). -/
def execReadIdentity (p : Port) (m : FramePart Unit) (s : State) : Result :=
  match m with
  | .fixed _ => openInquiry p s .identity (identityView p)
  | .rise n => riseFrame p s n

/-- R39, R40 (step 1 of R151): the port's QUEUED entries leave with no record and their buffers go to FREE; a
removed MAP_COMMIT's regions return to FREE; the port's started entries become orphaned. -/
def State.resetQueue (s : State) (p : Port) : State :=
  let gone := s.queue.filter (fun e => decide (e.port = p) && e.isQueued)
  let t := { s with
    queue := (s.queue.filter (fun e => !(decide (e.port = p) && e.isQueued))).map
      (fun e => if e.port = p then { e with orphaned := true } else e) }
  let u := gone.foldl State.freeEntryBuffer t
  if gone.any (fun e => decide (e.kind = .mapCommit)) then u.dropCommit else u

/-- R112 (step 2): the buffer that a handle maps goes to FREE. -/
def State.freeHandleBuffer (s : State) (h : Option Nat) : State :=
  match h with
  | some b => s.modifyBuffer b (fun u => { u with state := .free })
  | none => s

/-- R112 (step 2): the port's FILLING buffers go to FREE and its handles become UNMAPPED. -/
def State.resetHandles (s : State) (p : Port) : State :=
  ((s.port p).handles.foldl State.freeHandleBuffer s).modifyPort p
    (fun q => { q with handles := q.handles.map (fun _ => none) })

/-- R96 step 1: the port leaves every waiter list. -/
def State.leaveWaiting (p : Port) (s : State) (i : Nat) : State :=
  s.modifyLease i (fun l => { l with waiters := l.waiters.erase p })

/-- R96 step 2: a region held by the port ends its lease. -/
def State.endLeaseOf (p : Port) (s : State) (i : Nat) : State :=
  match s.region i with
  | some r => if r.lease.holder = some p then s.endLease i else s
  | none => s

/-- R96 (step 3). -/
def State.resetLeases (s : State) (p : Port) : State :=
  regionIndices.foldl (State.endLeaseOf p) (regionIndices.foldl (State.leaveWaiting p) s)

/-- R171 (step 4): the staged map is discarded when the port is the map authority. -/
def State.resetStage (s : State) (p : Port) : State :=
  if s.authority = some p then { s with staged := none } else s

/-- R133 (step 5): Completion Queue, sequence counter, pending and enable flags, mailbox. -/
def State.resetReports (s : State) (p : Port) : State :=
  s.modifyPort p (fun q =>
    { q with
      completions := []
      sequence := 0
      latched := .none
      postedSinceView := .none
      enables := .all
      mailbox := none })

/-- R147 (step 6): the sticky flags. -/
def State.resetSticky (s : State) (p : Port) : State :=
  s.modifyPort p (fun q => { q with conflictSeen := false, deniedSeen := false })

/-- PORT_RESET (R151): the six steps in order; Last Response becomes OK. -/
def execPortReset (p : Port) (s : State) : Result :=
  takeCommand p s (fun t =>
    (.ok, (((((t.resetQueue p).resetHandles p).resetLeases p).resetStage p).resetReports p).resetSticky p))

/-- FRAME_ENDS_SHORT (R139, R140): Last Response becomes FRAME_ERROR, or NOT_READY in STARTING (R144). A fall and
rise of chip-select with no bit between them is no frame (R136). -/
def execFrameEndsShort (p : Port) (bits : Nat) (s : State) : Result :=
  if bits = 0 then
    match (s.port p).frame with
    | .inert => .next s
    | .deselected => .next s
    | _ => .refused .frameInProgress
  else takeCommand p s (fun t => (.frameError, t))

/-- UNKNOWN_OPCODE (R139): Last Response becomes BAD_COMMAND. -/
def execUnknownOpcode (p : Port) (opcode : Byte) (s : State) : Result :=
  if commandOpcodes.contains opcode then .refused .knownOpcode
  else takeCommand p s (fun t => (.badCommand, t))

/-- INQUIRY_DROPPED (R142): no effect, in READY and in STARTING. -/
def execInquiryDropped (p : Port) (s : State) : Result :=
  match (s.port p).frame with
  | .inert => .next s
  | .deselected => .next s
  | _ => .refused .frameInProgress

/-- NOT_READY_ANSWER (R144): the deciding moment of a frame with a data phase, which then delivers 00h; or the rise,
which sets Last Response to NOT_READY. A frame with no data phase is judged at its rise, and is none of the others. -/
def execNotReadyAnswer (p : Port) (m : FramePart Unit) (s : State) : Result :=
  match m, (s.port p).frame with
  | _, .inert => .next s
  | .fixed _, .deselected =>
    match s.device with
    | .starting => .next (s.setFrame p (.dataOut (.notReady false)))
    | .ready => .refused .deviceReady
  | .rise _, .deselected =>
    match s.device with
    | .starting => .next (s.respond p .notReady)
    | .ready => .refused .deviceReady
  | .fixed _, _ => .refused .frameInProgress
  | .rise n, _ => riseFrame p s n

end Sys2Proof.Machine
end

