-- ==== Sys2Proof/Machine/Supply.lean ====
section
/-! DEFINITION. The Supply Monitor, RESET#, start-up and the Interrupted Operation Record (R172 to R184). -/

namespace Sys2Proof.Machine

/-- R172: the supply state after the voltage reads mv. -/
def SupplyState.after (now : SupplyState) (mv : Nat) : SupplyState :=
  match now with
  | .normal => if mv < Config.failedBelow then .failed else if mv < Config.marginalBelow then .marginal else .normal
  | .marginal =>
    if mv < Config.failedBelow then .failed else if Config.normalAbove < mv then .normal else .marginal
  | .failed => if Config.powerOnAbove < mv then .marginal else .failed

/-- R173: DEVICE_EVENT to A, B and C, when the device is READY. -/
def State.postSupplyChange (s : State) : State :=
  match s.device with
  | .ready => s.postAll .deviceEvent
  | .starting => s

/-- SUPPLY_MARGINAL (R172, R173): no look. -/
def execSupplyMarginal (mv : Nat) (s : State) : Result :=
  if s.supply = .normal ∧ s.supply.after mv = .marginal then
    .next { s with supply := .marginal }.postSupplyChange
  else .refused .notThisSupplyChange

/-- SUPPLY_NORMAL (R70, R172, R173): in READY the Scheduler looks. -/
def execSupplyNormal (mv : Nat) (s : State) : Result :=
  if s.supply = .marginal ∧ s.supply.after mv = .normal then
    match s.device with
    | .ready => .next (({ s with supply := .normal }.postAll .deviceEvent).look)
    | .starting => .next { s with supply := .normal }
  else .refused .notThisSupplyChange

/-! ### The cut-off (R72, R73, R181) -/

/-- R72: the item that names a cut-off entry. -/
def Entry.item (suspended : Bool) (e : Entry) : InterruptedItem := ⟨e.kind, e.targetAddr, e.port, e.tag, suspended⟩

/-- R72, R182: the items that the Engine hands over: the active entry, then the parked erase. -/
def State.cutOffItems (s : State) : List InterruptedItem :=
  (s.activeEntry.map (Entry.item false)).toList ++ (s.parkedErase.map (Entry.item true)).toList

/-- R4: the target of a cut-off entry is unsettled. -/
def State.cutOffTarget (s : State) (e : Option Entry) : State :=
  match e.bind (fun x => x.target) with
  | some t => s.unsettle t
  | none => s

/-- R72, R73: the Engine cuts off its active entry and its parked erase. A running MAP_COMMIT's slot stays invalid,
as its write left it (R155). -/
def State.cutOff (s : State) : State := (s.cutOffTarget s.activeEntry).cutOffTarget s.parkedErase

/-- R46, R72, R182: the array has stopped. The Engine becomes IDLE and hands its items over, and they replace the
Interrupted Operation Record. Where no cut-off is unfinished, nothing happens. -/
def State.arrayStops (s : State) : State :=
  match s.stopping with
  | [] => s
  | items => { s with engine := .idle, stopping := [], interrupted := items }

/-! ### Supply failure and power-on -/

/-- R174, R175: a port at power-on, in a given frame state; what it has delivered to its host stays recorded (log 9). -/
def PortState.powerOn (q : PortState) (frame : FrameState) : PortState := { freshPort frame with output := q.output }

/-- R174, R175: the part with every piece of volatile state at its power-on value; the array, the slots, the level of
RESET# and the queue of commands stay. -/
def State.powerOnValues (s : State) (supply : SupplyState) (frame : FrameState) : State :=
  { State.reset with
    pending := s.pending
    inputs := s.inputs
    mem := s.mem
    unsettled := s.unsettled
    freeIndex := s.freeIndex
    slotX := s.slotX
    slotY := s.slotY
    resetLow := s.resetLow
    supply := supply
    ports := ⟨s.ports.a.powerOn frame, s.ports.b.powerOn frame, s.ports.c.powerOn frame⟩ }

/-- SUPPLY_FAILED (R174). -/
def execSupplyFailed (mv : Nat) (s : State) : Result :=
  if s.supply ≠ .failed ∧ s.supply.after mv = .failed then .next (s.cutOff.powerOnValues .failed .inert)
  else .refused .notThisSupplyChange

/-- POWER_ON_DETECTION (R175): the ports stay INERT while RESET# is low. -/
def execPowerOnDetection (mv : Nat) (s : State) : Result :=
  if s.supply = .failed ∧ s.supply.after mv = .marginal then
    .next (s.powerOnValues .marginal (if s.resetLow then .inert else .deselected))
  else .refused .notThisSupplyChange

/-! ### RESET# -/

/-- R180: a port at the fall of RESET# (R101, R117, R134, R137, R143, R147). -/
def PortState.atReset (q : PortState) : PortState :=
  { q with
    shift := []
    frame := .inert
    lastResponse := .ok
    conflictSeen := false
    deniedSeen := false
    handles := List.replicate 4 none
    completions := []
    sequence := 0
    latched := .none
    postedSinceView := .none
    mailbox := none }

/-- R180: the effects of the fall on every block, with the items that the Engine is to hand over when the array has
stopped. Until then the engine state is as it was (R46), and so is the Interrupted Operation Record (R72). -/
def State.atReset (s : State) (items : List InterruptedItem) : State :=
  { s with
    ports := ⟨s.ports.a.atReset, s.ports.b.atReset, s.ports.c.atReset⟩
    holders := ⟨0, 0, 0, 0⟩
    queue := []
    arrival := 0
    engine := if items.isEmpty then .idle else s.engine
    window := none
    noted := none
    regions := s.regions.map (Option.map (fun r => { r with lease := freshLease }))
    leaseClock := false
    buffers := s.buffers.map (fun b => { b with state := .free })
    staged := none
    commitImage := none
    device := .starting
    startUpSteps := 0
    resetLow := true
    stopping := items }

/-- RESET_FALL (R72, R180, R181): while the supply is FAILED it changes nothing but the level of the input; while the
cut-off of an earlier fall has not finished it starts no second one. -/
def execResetFall (s : State) : Result :=
  if s.resetLow then .refused .resetIsLow
  else if s.supply = .failed then .next { s with resetLow := true }
  else if s.stopping ≠ [] then .next (s.atReset s.stopping)
  else .next (s.cutOff.atReset s.cutOffItems)

/-- Every port goes from INERT to DESELECTED (R137). -/
def State.deselectAll (s : State) : State :=
  ((s.setFrame .a .deselected).setFrame .b .deselected).setFrame .c .deselected

/-- RESET_RISE (R181): a rise while the supply is FAILED begins nothing. The array need not have stopped. -/
def execResetRise (s : State) : Result :=
  if s.resetLow then
    if s.supply = .failed then .next { s with resetLow := false }
    else .next { s with resetLow := false }.deselectAll
  else .refused .resetIsHigh

/-! ### Start-up -/

/-- R156, R157, R177 step 2: the image that start-up loads. -/
def State.startImage (s : State) : MapImage :=
  match s.currentSlot with
  | some n => (s.slot n).image
  | none => factoryMap

/-- R156, R158: the working generation that start-up loads. -/
def State.startGeneration (s : State) : Word16 :=
  match s.currentSlot with
  | some n => (s.slot n).generation
  | none => 0

/-- R177 step 1, R178: slot choice. -/
def State.chooseMap (s : State) : State :=
  { s with
    currentSlot := chooseSlot s.slotX s.slotY
    mapDefaulted := (chooseSlot s.slotX s.slotY).isNone }

/-- R177 step 2: map load; every DEFINED region FREE and idle (R97). -/
def State.loadMap (s : State) : State :=
  { s with
    generation := s.startGeneration
    regions := regionIndices.map (fun i => ((s.startImage.regions[i]?).join).map (fun d => ⟨d, freshLease⟩))
    authority := s.startImage.authority }.loadProfiles s.startImage.profiles

/-- R177 step 3: every enable flag of every port is set. -/
def State.enableAll (s : State) : State :=
  ((s.modifyPort .a (fun q => { q with enables := .all })).modifyPort .b (fun q =>
    { q with enables := .all })).modifyPort .c (fun q => { q with enables := .all })

/-- R177 step 4: the supply assessed afresh, without the hysteresis band. -/
def assessSupply (mv : Nat) : SupplyState := if Config.normalAbove < mv then .normal else .marginal

/-- The place of a step of start-up in their order (R177). -/
def startUpPlace : StartUpStep → Nat
  | .slotChoice => 0
  | .mapLoad => 1
  | .enables => 2
  | .assessment => 3
  | .ready => 4

/-- R177: one step of start-up. -/
def State.startUpStep (mv : Nat) (s : State) : StartUpStep → State
  | .slotChoice => { s.chooseMap with startUpSteps := 1 }
  | .mapLoad => { s.loadMap with startUpSteps := 2 }
  | .enables => { s.enableAll with startUpSteps := 3 }
  | .assessment => { s with supply := assessSupply mv, startUpSteps := 4 }
  | .ready => { s with device := .ready, leaseClock := true, startUpSteps := 0 }.postAll .deviceEvent

/-- R177, R179: the steps of start-up that are still to make, up to the end of one. -/
def State.stepsThrough (s : State) (through : StartUpStep) : List StartUpStep :=
  [.slotChoice, .mapLoad, .enables, .assessment, .ready].filter (fun k =>
    decide (s.startUpSteps ≤ startUpPlace k) && decide (startUpPlace k ≤ startUpPlace through))

/-- START_UP (R177, R181): it waits for the stop of the array, and then makes the steps in order, up to the end of
one. -/
def execStartUp (run : StartUpRun) (s : State) : Result :=
  if s.device = .starting ∧ s.resetLow = false ∧ s.supply ≠ .failed then
    .next ((s.stepsThrough run.through).foldl (State.startUpStep run.mv) s.arrayStops)
  else .refused .startUpNotDue

/-! ### The Interrupted Operation Record -/

/-- READ_INTERRUPTED (R183). -/
def execReadInterrupted (p : Port) (m : FramePart Unit) (s : State) : Result :=
  match m with
  | .fixed _ => openInquiry p s .interrupted s.interruptedView
  | .rise n => riseFrame p s n

/-- CLEAR_INTERRUPTED (R184). -/
def execClearInterrupted (p : Port) (s : State) : Result :=
  takeCommand p s (fun t => (.ok, { t with interrupted := [] }))

end Sys2Proof.Machine
end

