-- ==== Sys2Proof/Machine/Dispatch.lean ====
section
/-! DEFINITION. The dispatch: one direct call of a meaning for each row of the table. -/

namespace Sys2Proof.Machine

def exec (i : Instr) (s : State) : Host.Outcome State Fault Refusal :=
  match i with
  | .readArray p addr => Sys2Proof.Machine.execReadArray p addr s
  | .quadReadArray p addr => Sys2Proof.Machine.execQuadReadArray p addr s
  | .blockCrossing p => Sys2Proof.Machine.execBlockCrossing p s
  | .targetEntry p => Sys2Proof.Machine.execTargetEntry p s
  | .blockCrossingNewBank p => Sys2Proof.Machine.execBlockCrossingNewBank p s
  | .readStreamClose p clocked => Sys2Proof.Machine.execReadStreamClose p clocked s
  | .loadBuffer p handle offset data => Sys2Proof.Machine.execLoadBuffer p handle offset data s
  | .loadBufferQuad p handle offset data => Sys2Proof.Machine.execLoadBufferQuad p handle offset data s
  | .discardBuffer p handle => Sys2Proof.Machine.execDiscardBuffer p handle s
  | .readBuffer p m => Sys2Proof.Machine.execReadBuffer p m s
  | .readStatus p m => Sys2Proof.Machine.execReadStatus p m s
  | .readIdentity p m => Sys2Proof.Machine.execReadIdentity p m s
  | .mapStageBegin p => Sys2Proof.Machine.execMapStageBegin p s
  | .mapStageRegion p index defined first last readMask writeMask limit => Sys2Proof.Machine.execMapStageRegion p index defined first last readMask writeMask limit s
  | .mapStageProfile p code ceiling window fill => Sys2Proof.Machine.execMapStageProfile p code ceiling window fill s
  | .mapStageAuthority p code => Sys2Proof.Machine.execMapStageAuthority p code s
  | .mapCommit p tag => Sys2Proof.Machine.execMapCommit p tag s
  | .mapDiscard p => Sys2Proof.Machine.execMapDiscard p s
  | .readMap p m => Sys2Proof.Machine.execReadMap p m s
  | .submitProgram p handle addr tag cls => Sys2Proof.Machine.execSubmitProgram p handle addr tag cls s
  | .submitSectorErase p addr tag cls => Sys2Proof.Machine.execSubmitSectorErase p addr tag cls s
  | .submitBlockErase p addr tag cls => Sys2Proof.Machine.execSubmitBlockErase p addr tag cls s
  | .cancel p tag => Sys2Proof.Machine.execCancel p tag s
  | .readQueue p m => Sys2Proof.Machine.execReadQueue p m s
  | .claimRegion p index => Sys2Proof.Machine.execClaimRegion p index s
  | .renewLease p index => Sys2Proof.Machine.execRenewLease p index s
  | .releaseRegion p index => Sys2Proof.Machine.execReleaseRegion p index s
  | .readRegions p m => Sys2Proof.Machine.execReadRegions p m s
  | .popCompletion p m => Sys2Proof.Machine.execPopCompletion p m s
  | .readNotices p m => Sys2Proof.Machine.execReadNotices p m s
  | .setNoticeEnables p enables => Sys2Proof.Machine.execSetNoticeEnables p enables s
  | .signalPort p target value => Sys2Proof.Machine.execSignalPort p target value s
  | .readMailbox p m => Sys2Proof.Machine.execReadMailbox p m s
  | .readInterrupted p m => Sys2Proof.Machine.execReadInterrupted p m s
  | .clearInterrupted p => Sys2Proof.Machine.execClearInterrupted p s
  | .portReset p => Sys2Proof.Machine.execPortReset p s
  | .frameEndsShort p bits => Sys2Proof.Machine.execFrameEndsShort p bits s
  | .unknownOpcode p opcode => Sys2Proof.Machine.execUnknownOpcode p opcode s
  | .inquiryDropped p => Sys2Proof.Machine.execInquiryDropped p s
  | .notReadyAnswer p m => Sys2Proof.Machine.execNotReadyAnswer p m s
  | .operationEnd outcome => Sys2Proof.Machine.execOperationEnd outcome s
  | .suspendPoint => Sys2Proof.Machine.execSuspendPoint s
  | .readWindowStep => Sys2Proof.Machine.execReadWindowStep s
  | .readWindowClose => Sys2Proof.Machine.execReadWindowClose s
  | .leaseTick => Sys2Proof.Machine.execLeaseTick s
  | .leaseExpiry region => Sys2Proof.Machine.execLeaseExpiry region s
  | .supplyMarginal mv => Sys2Proof.Machine.execSupplyMarginal mv s
  | .supplyNormal mv => Sys2Proof.Machine.execSupplyNormal mv s
  | .supplyFailed mv => Sys2Proof.Machine.execSupplyFailed mv s
  | .powerOnDetection mv => Sys2Proof.Machine.execPowerOnDetection mv s
  | .resetFall => Sys2Proof.Machine.execResetFall s
  | .resetRise => Sys2Proof.Machine.execResetRise s
  | .startUp run => Sys2Proof.Machine.execStartUp run s

end Sys2Proof.Machine
end

