-- ==== Sys2Proof/Machine/Serial.lean ====
section
/-! DEFINITION. The lines of a port: the sampling of bits, the frame while it is received, the data lines the part
drives, and the three events of the lines (R135 to R142). At the moment at which a frame acts (R138) its row is
executed. -/

namespace Sys2Proof.Machine

/-! ### Bits and bytes (R135) -/

/-- The bits of a byte, the most significant first. -/
def bitsOf (b : Byte) : List Bool := (List.range 8).map b.getMsbD

/-- The byte of eight bits, the most significant first. -/
def byteOfBits (bits : List Bool) : Byte := byteOf (bits.foldl (fun n b => 2 * n + b.toNat) 0)

/-- R187: whether the next bits of a frame come on IO0 to IO3: those of the data phase of LOAD BUFFER QUAD, after its
opcode, handle and offset. -/
def quadIn (bytes : List Byte) : Bool := decide (bytes.head? = some 0x57) && decide (3 ≤ bytes.length)

/-- R135: the bits that a clock brings: four in a quad data phase, IO3 the highest; one, of IO0, at any other time. -/
def sampled (quad : Bool) (io : IoLines Bool) : List Bool :=
  if quad then [io.io3, io.io2, io.io1, io.io0] else [io.io0]

/-! ### What the part drives -/

/-- R138: the bytes of a view, after which 00h is delivered. -/
def viewBytes : View → List Byte
  | .notReady _ => []
  | .status bytes _ _ => bytes
  | .inquiry _ bytes => bytes
  | .completion head => recordBytes head
  | .notices shown enables => noticesBytes shown enables
  | .mailbox content => mailboxBytes content

/-- R135: whether an output phase is on IO0 to IO3: that of QUAD READ ARRAY, answered or not. -/
def FrameState.quadOut : FrameState → Bool
  | .dataOut (.notReady quad) => quad
  | .readStream st => st.quad
  | _ => false

/-- R11, R14, R108, R138, R144: the byte that a port is delivering, `none` outside its output phases. DESIGN CHOICE
(log 3): each clock asks for the byte afresh, so the bits of one unsettled byte (R4) are drawn from one free value only
while no other port's stream delivers a byte between them. -/
def State.byteOut (s : State) (p : Port) : Option Byte :=
  match (s.port p).frame with
  | .dataOut v => some ((viewBytes v).getD (s.port p).output.length 0)
  | .bufferStream st => some ((s.bufferBytes st ((s.port p).output.length + 1)).getD (s.port p).output.length 0)
  | .readStream st => some ((s.streamBytes st 1).getD 0 0)
  | _ => none

/-- The bits of the byte in progress that a port delivers at the next clock. -/
def State.bitsOut (s : State) (p : Port) (b : Byte) : List Bool :=
  ((bitsOf b).drop (s.port p).shift.length).take (if (s.port p).frame.quadOut then 4 else 1)

/-- R135: the level that the part drives on each data line of a port at the next rising edge, `none` where it drives
none: outside the output phases no line, in a single-line phase IO1, in the quad phase all four. -/
def State.driven (s : State) (p : Port) : IoLines (Option Bool) :=
  match s.byteOut p with
  | none => ⟨none, none, none, none⟩
  | some b =>
    if (s.port p).frame.quadOut then
      ⟨(s.bitsOut p b)[3]?, (s.bitsOut p b)[2]?, (s.bitsOut p b)[1]?, (s.bitsOut p b)[0]?⟩
    else ⟨none, (s.bitsOut p b)[0]?, none, none⟩

/-! ### Frames on the lines -/

/-- The first of some rows is executed; there is none where a fall and a rise have no clock between them (R136). -/
def runFirst (rows : List Instr) (s : State) : Result :=
  match rows with
  | [] => .next s
  | c :: _ => exec c s

/-- R138: a frame acts: the port hands on the row that its bits spell, at the end of its fixed part or at its rise. -/
def State.handOn (s : State) (p : Port) (bytes : List Byte) (extraBits : Nat) : Result :=
  runFirst (decodeFrame p ⟨bytes, extraBits⟩)
    (s.modifyPort p (fun q => { q with frame := .deselected, shift := [] }))

/-- R136: the frame state after one more whole byte of a frame that was RECEIVING; `none` where the fixed part of a
command with an output phase is complete, and the frame acts. -/
def afterByte (bytes : List Byte) : Option FrameState :=
  match bytes with
  | [] => some (.receiving [])
  | op :: fields =>
    match frameShape op with
    | none => some (.trailing bytes)
    | some (n, after) =>
      if fields.length < n then some (.receiving bytes)
      else
        match after with
        | .trailing => some (.trailing bytes)
        | .dataIn => some (.dataIn bytes)
        | .dataOut => none
        | .stream => none

/-- R135, R136: a port that is RECEIVING has a whole byte. Where an output phase begins, nothing is delivered yet. -/
def State.receiveByte (s : State) (p : Port) (bytes : List Byte) : Result :=
  match afterByte bytes with
  | some f => .next (s.modifyPort p (fun q => { q with frame := f, shift := [] }))
  | none => (s.modifyPort p (fun q => { q with output := [] })).handOn p bytes 0

/-- R11, R108, R138: the last bit of a byte has been clocked out. DESIGN CHOICE (log 3): of an unsettled byte (R4) the
output records the free value of this moment, which is the byte driven only where `State.byteOut` was one value at each
of its clocks. -/
def State.deliverByte (s : State) (p : Port) (b : Byte) : State :=
  match (s.port p).frame with
  | .readStream _ => (s.modifyPort p (fun q => { q with shift := [] })).clockBytes p 1 1
  | _ => s.modifyPort p (fun q => { q with shift := [], output := q.output ++ [b] })

/-- A fall of chip-select (R135, R136). -/
def pinFall (p : Port) (s : State) : State :=
  if (s.port p).csLow then s
  else
    match (s.port p).frame with
    | .deselected => s.modifyPort p (fun q => { q with csLow := true, shift := [], frame := .receiving [] })
    | _ => s.modifyPort p (fun q => { q with csLow := true, shift := [] })

/-- A period of the clock, with the levels the host holds on the data lines (R135). The port ignores it while
chip-select is high, in TRAILING, and while it is INERT. -/
def pinClock (p : Port) (io : IoLines Bool) (s : State) : Result :=
  if (s.port p).csLow then
    match (s.port p).frame with
    | .receiving bytes =>
      let bits := (s.port p).shift ++ sampled (quadIn bytes) io
      if bits.length < 8 then .next (s.modifyPort p (fun q => { q with shift := bits }))
      else s.receiveByte p (bytes ++ [byteOfBits bits])
    | .dataIn bytes =>
      let bits := (s.port p).shift ++ sampled (quadIn bytes) io
      if bits.length < 8 then .next (s.modifyPort p (fun q => { q with shift := bits }))
      else .next (s.modifyPort p (fun q => { q with frame := .dataIn (bytes ++ [byteOfBits bits]), shift := [] }))
    | _ =>
      match s.byteOut p with
      | none => .next s
      | some b =>
        let bits := (s.port p).shift ++ s.bitsOut p b
        if bits.length < 8 then .next (s.modifyPort p (fun q => { q with shift := bits }))
        else .next (s.deliverByte p b)
  else .next s

/-- A rise of chip-select (R136). A byte in progress is partial, and is dropped (R140, R141, R142). -/
def pinRise (p : Port) (s : State) : Result :=
  if (s.port p).csLow then
    let t := s.modifyPort p (fun q => { q with csLow := false, shift := [] })
    match (s.port p).frame with
    | .receiving bytes => t.handOn p bytes (s.port p).shift.length
    | .trailing bytes => t.handOn p bytes 0
    | .dataIn bytes => t.handOn p bytes 0
    | .readStream _ => .next (t.endOutput p 0)
    | _ => .next (t.endOutput p (s.port p).output.length)
  else .next s

/-- An event on the lines of a port. -/
def pinEvent (p : Port) (e : PinEvent) (s : State) : Result :=
  match e with
  | .fall => .next (pinFall p s)
  | .clock io => pinClock p io s
  | .rise => pinRise p s

/-- The next thing that the part waits for beside its queue of commands. -/
def takeInput (i : Input) (s : State) : Result :=
  match i with
  | .pin p e => pinEvent p e s
  | .command c => exec c s
  | .arrayStops => .next s.arrayStops

end Sys2Proof.Machine
end

