-- ==== Sys2Proof/Machine/Step.lean ====
section
/-! DEFINITION. One step: the command at the front of the queue, on the state with the queue's rest; or, while no
command waits, the next of the part's other inputs. -/

namespace Sys2Proof.Machine

/-- One step. On an empty queue the part takes the next of its other inputs; when there is none, the array stops if a
cut-off is unfinished (R72), and the part idles if none is (logs 15, 16 and 32). -/
def step (s : State) : Host.Outcome State Fault Refusal :=
  match s.pending with
  | [] =>
    match s.inputs with
    | [] => .next s.arrayStops
    | i :: rest => takeInput i { s with inputs := rest }
  | c :: rest => exec c { s with pending := rest }

/-- The command that a word spells, at the front of the queue; no row has bits, so no word spells one (log 20). -/
def State.withFetchWord (s : State) (nbits w : Nat) : State :=
  match decodeTableWord nbits w with
  | some i => { s with pending := i :: s.pending }
  | none => s

end Sys2Proof.Machine
end

