-- ==== Sys2Proof/Safety.lean ====
section
/-! DEFINITION. What the spec says holds of the part at all times: the laws that its rules state, each as a Bool on
the state, in the terms the obligations use. -/

namespace Sys2Proof.Machine

/-- A condition for each of the three ports. -/
def allPorts (f : Port → Bool) : Bool := f .a && f .b && f .c

/-- A condition for each of the four banks. -/
def allBanks (f : Fin 4 → Bool) : Bool := f 0 && f 1 && f 2 && f 3

/-- R118: a port's entries and records together never exceed 8. -/
def State.creditLaw (s : State) : Bool :=
  allPorts (fun p => decide (s.entryCount p + s.recordCount p ≤ 8))

/-- R20: the Work Queue never holds more than 12 entries. -/
def State.capacityLaw (s : State) : Bool := decide (s.queue.length ≤ 12)

/-- Two entries of one port carry different tags. -/
def Entry.tagApart (e f : Entry) : Bool := !(decide (e.port = f.port) && decide (e.tag = f.tag))

/-- No earlier entry of the list shares its port and tag with a later one. -/
def tagsApart : List Entry → Bool
  | [] => true
  | e :: es => es.all e.tagApart && tagsApart es

/-- R22: no two entries of one port carry the same tag. -/
def State.tagLaw (s : State) : Bool := tagsApart s.queue

/-- The number of entries in a state. -/
def State.countIn (s : State) (x : EntryState) : Nat := s.queue.countP (fun e => decide (e.state = x))

/-- R45: how many entries are RUNNING, SUSPENDING and SUSPENDED in each engine state. -/
def EngineState.counts : EngineState → Nat × Nat × Nat
  | .idle => (0, 0, 0)
  | .busy => (1, 0, 0)
  | .suspending => (0, 1, 0)
  | .parked => (0, 0, 1)
  | .busyParked => (1, 0, 1)

/-- R19, R20: only an erase is SUSPENDING or SUSPENDED; R45: what runs over a parked erase is no erase. -/
def State.eraseStates (s : State) : Bool :=
  s.queue.all (fun e =>
    match e.state with
    | .suspending => e.kind.isErase
    | .suspended => e.kind.isErase
    | .running => !(decide (s.engine = .busyParked) && e.kind.isErase)
    | .queued => true)

/-- R182: the suspended indications of the items that a cut-off hands over, by the engine state at the fall. -/
def EngineState.cutOffIndications : EngineState → List Bool
  | .idle => []
  | .busy => [false]
  | .suspending => [false]
  | .parked => [true]
  | .busyParked => [false, true]

/-- R20, R45: the engine state and the entries' states agree. While a cut-off is unfinished, the device is STARTING, the
queue is empty, and the engine state is still that of the fall (R46, R72, R182). -/
def State.engineLaw (s : State) : Bool :=
  (if s.stopping = [] then
    decide ((s.countIn .running, s.countIn .suspending, s.countIn .suspended) = s.engine.counts)
  else
    decide (s.device = .starting) && s.queue.isEmpty
      && decide (s.stopping.map (fun x => x.suspended) = s.engine.cutOffIndications)) && s.eraseStates

/-- R47: a request is noted only in SUSPENDING; the window is open only in PARKED and BUSY_PARKED; lengths are 1 to
15 ms; while a cut-off is unfinished there is neither (R180). -/
def State.windowLaw (s : State) : Bool :=
  (decide (s.stopping = []) || s.noted.isNone && s.window.isNone)
  && (match s.noted with
    | some w => decide (s.engine = .suspending) && decide (1 ≤ w) && decide (w ≤ 15)
    | none => true)
  && (match s.window with
    | some w => (decide (s.engine = .parked) || decide (s.engine = .busyParked)) && decide (1 ≤ w) && decide (w ≤ 15)
    | none => true)

/-- R67: what runs while an erase is SUSPENDED lies outside the suspended erase's target. -/
def State.overParkedLaw (s : State) : Bool :=
  match s.parkedErase, s.activeEntry with
  | some x, some e => !e.targetInside x
  | _, _ => true

/-- Whether a port's open stream holds a bank (R7). -/
def PortState.holds (q : PortState) (k : Fin 4) : Bool :=
  match q.frame with
  | .readStream st => decide (st.held = some k)
  | _ => false

/-- R6: each read-holder count is the number of open streams that hold the bank. -/
def State.holderLaw (s : State) : Bool :=
  allBanks (fun k => decide (s.holders.get k =
    (s.ports.a.holds k).toNat + (s.ports.b.holds k).toNat + (s.ports.c.holds k).toNat))

/-- R7: a stream that is no fill stream holds the bank of its current address, and a fill stream holds none. -/
def PortState.streamLaw (q : PortState) : Bool :=
  match q.frame with
  | .readStream st =>
    match st.fill with
    | none => decide (st.held = some (bankOf st.current))
    | some _ => decide (st.held = none)
  | _ => true

/-- R7. -/
def State.streamLaw (s : State) : Bool := allPorts (fun p => (s.port p).streamLaw)

/-- R6: no bank is held by an open stream while an entry in that bank is RUNNING or SUSPENDING. -/
def State.bankLaw (s : State) : Bool :=
  match s.activeBank with
  | some k => decide (s.holders.get k = 0)
  | none => true

/-- R78, R79: what each lease state fixes of the other lease fields. -/
def Region.leaseLaw (r : Region) : Bool :=
  match r.lease.state with
  | .free =>
    decide (r.lease.holder = none) && decide (r.lease.remaining = 0) && r.lease.waiters.isEmpty
      && decide (r.lease.drain = 0)
  | .frozen =>
    decide (r.lease.holder = none) && decide (r.lease.remaining = 0) && r.lease.waiters.isEmpty
      && decide (r.lease.drain = 0)
  | .draining =>
    decide (r.lease.holder = none) && decide (r.lease.remaining = 0) && decide (1 ≤ r.lease.drain)
      && decide r.lease.waiters.Nodup && decide (r.lease.waiters.length ≤ 2)
  | .held =>
    match r.lease.holder with
    | some p =>
      r.definition.writeMask.has p && decide (p ∉ r.lease.waiters) && decide r.lease.waiters.Nodup
        && decide (r.lease.remaining ≤ r.definition.limit.toNat)
        && decide (r.definition.limit.toNat = 0 ∨ 1 ≤ r.lease.remaining)
    | none => false

/-- R78: every waiter is in the write mask. -/
def Region.waiterLaw (r : Region) : Bool := r.lease.waiters.all (fun p => r.definition.writeMask.has p)

/-- R78, R79, R82: of every DEFINED region. -/
def State.leaseLaw (s : State) : Bool :=
  s.regions.all (fun slot => match slot with
    | some r => r.leaseLaw && r.waiterLaw
    | none => true)

/-- The number of started entries whose region is i. -/
def State.startedIn (s : State) (i : Nat) : Nat :=
  s.queue.countP (fun e => !e.isQueued && decide (e.region = some i))

/-- R81: a region's drain count is the number of started entries that target it. -/
def State.drainLaw (s : State) : Bool :=
  regionIndices.all (fun i => match s.region i with
    | some r => decide (r.lease.drain = s.startedIn i)
    | none => decide (s.startedIn i = 0))

/-- R41: every QUEUED PROGRAM or erase is not orphaned and its region is HELD by its port. -/
def State.queuedLaw (s : State) : Bool :=
  s.queue.all (fun e =>
    if e.isQueued then
      !e.orphaned && (decide (e.kind = .mapCommit) || (match e.region.bind s.region with
        | some r => decide (r.lease.state = .held) && decide (r.lease.holder = some e.port)
        | none => false))
    else true)

/-- The buffers that entries and handles name. -/
def State.namedBuffers (s : State) : List Nat :=
  s.queue.filterMap (fun e => e.buffer) ++ (s.ports.a.handles ++ s.ports.b.handles ++ s.ports.c.handles).filterMap id

/-- R102: a buffer named by an entry is BOUND, one mapped by a handle is FILLING. -/
def State.bufferStates (s : State) : Bool :=
  s.queue.all (fun e => match e.buffer with
    | some b => decide ((s.buffers[b]?).map (fun u => u.state) = some .bound)
    | none => true)
  && (s.ports.a.handles ++ s.ports.b.handles ++ s.ports.c.handles).all (fun h => match h with
    | some b => decide ((s.buffers[b]?).map (fun u => u.state) = some .filling)
    | none => true)

/-- R102: no buffer is named twice, each buffer that is not FREE is named, and the PROGRAM entries, and they alone,
own buffers. -/
def State.bufferLaw (s : State) : Bool :=
  s.bufferStates && decide s.namedBuffers.Nodup
    && decide (s.namedBuffers.length = s.buffers.countP (fun u => decide (u.state ≠ .free)))
    && s.queue.all (fun e => decide (e.buffer.isSome = decide (e.kind = .program)))

/-- R103: no port owns more than 4 Program Buffers. -/
def State.ownershipLaw (s : State) : Bool := allPorts (fun p => decide (s.ownedBuffers p ≤ 4))

/-- R31, R160: at most one MAP_COMMIT is in the queue, and the commit image is kept exactly while one is. -/
def State.commitLaw (s : State) : Bool :=
  decide (s.queue.countP (fun e => decide (e.kind = .mapCommit)) ≤ 1)
    && decide (s.commitImage.isSome = s.mapPending)

/-- R82, R94: a region is FROZEN only while a MAP_COMMIT is in the queue, and no entry targets it. -/
def State.frozenLaw (s : State) : Bool :=
  regionIndices.all (fun i => match s.region i with
    | some r =>
      if r.lease.state = .frozen then s.mapPending && s.queue.all (fun e => decide (e.region ≠ some i)) else true
    | none => true)

/-- R75: no block belongs to more than one defined region. -/
def disjointRegions : List (Option Region) → Bool
  | [] => true
  | none :: rs => disjointRegions rs
  | some r :: rs =>
    decide (r.definition.first.toNat ≤ r.definition.last.toNat)
      && rs.all (fun slot => match slot with
        | some q => decide (r.definition.last.toNat < q.definition.first.toNat)
            || decide (q.definition.last.toNat < r.definition.first.toNat)
        | none => true)
      && disjointRegions rs

/-- R75. -/
def State.regionLaw (s : State) : Bool := disjointRegions s.regions

/-- R18, R35, R36, R65: the ranges of an entry's fields. -/
def Entry.rangeLaw (e : Entry) : Bool :=
  decide (e.requestedClass ≤ 3) && decide (e.effectiveClass ≤ 3) && decide (e.bypass ≤ 7)
    && decide (e.suspendCount ≤ 16) && (e.kind.isErase || decide (e.suspendCount = 0))
    && (decide (e.state ≠ .suspending) || decide (e.suspendCount < 16))
    && (!e.isQueued || decide (e.suspendCount = 0))

/-- R18, R65. -/
def State.entryLaw (s : State) : Bool := s.queue.all Entry.rangeLaw

/-- R129: a mailbox never holds a signal of its own port. -/
def State.mailboxLaw (s : State) : Bool :=
  allPorts (fun p => match (s.port p).mailbox with
    | some x => decide (x.sender ≠ p)
    | none => true)

/-- R90, R176: the lease clock runs exactly while the device is READY. -/
def State.clockLaw (s : State) : Bool := decide (s.leaseClock = decide (s.device = .ready))

/-- R136, R137, R175: a port is INERT exactly while RESET# is low or the supply has failed. -/
def State.inertLaw (s : State) : Bool :=
  allPorts (fun p => decide (decide ((s.port p).frame = .inert) =
    (s.resetLow || decide (s.supply = .failed))))

/-- R176, R181: while the device is STARTING no work is there, and the engine is IDLE unless a cut-off is unfinished.
READY needs power, RESET# high, and the array stopped. -/
def State.startingLaw (s : State) : Bool :=
  match s.device with
  | .starting => s.queue.isEmpty && (decide (s.engine = .idle) || decide (s.stopping ≠ []))
  | .ready => decide (s.supply ≠ .failed) && !s.resetLow && decide (s.stopping = [])

/-- R156, R177, R178: once slot choice is made, the current slot is valid, and MAP_DEFAULTED is set exactly when there
is none. Once the map is loaded, the working generation is the current slot's, or 0 when there is none. -/
def State.slotLaw (s : State) : Bool :=
  let chosen := match s.currentSlot with
    | some n => (s.slot n).mark && !s.mapDefaulted
    | none => s.mapDefaulted
  let loaded := match s.currentSlot with
    | some n => decide ((s.slot n).generation = s.generation)
    | none => decide (s.generation = 0)
  match s.device with
  | .ready => chosen && loaded && decide (s.startUpSteps = 0)
  | .starting =>
    (decide (s.startUpSteps = 0) || chosen && decide (s.currentSlot = chooseSlot s.slotX s.slotY))
      && (decide (s.startUpSteps ≤ 1) || loaded) && decide (s.startUpSteps ≤ 4)

/-- R20, R74, R100, R101, R182: the sizes of the tables. -/
def State.sizeLaw (s : State) : Bool :=
  decide (s.regions.length = 16) && decide (s.buffers.length = 6)
    && s.buffers.all (fun b => decide (b.data.length = 256))
    && allPorts (fun p => decide ((s.port p).handles.length = 4)) && decide (s.interrupted.length ≤ 2)
    && decide (s.stopping.length ≤ 2)


/-- R1: the number of a target's unit is in range. -/
def Target.inRange : Target → Bool
  | .page n => decide (n < 65536)
  | .sector n => decide (n < 4096)
  | .block n => decide (n < 256)

/-- R1, R18: every entry's target is a unit of the array, and it is the kind of unit that the entry's kind has. -/
def Entry.targetLaw (e : Entry) : Bool :=
  match e.kind, e.target with
  | .program, some (.page n) => (Target.page n).inRange
  | .sectorErase, some (.sector n) => (Target.sector n).inRange
  | .blockErase, some (.block n) => (Target.block n).inRange
  | .mapCommit, none => true
  | _, _ => false

/-- R18, R31: a MAP_COMMIT entry names no region. -/
def State.commitRegionLaw (s : State) : Bool :=
  s.queue.all (fun e => decide (e.kind ≠ .mapCommit) || e.region.isNone)

/-- R1, R18. -/
def State.targetLaw (s : State) : Bool := s.queue.all Entry.targetLaw

/-- R150: the ranges of a Port Profile. -/
def Profile.inRange (f : Profile) : Bool := decide (f.ceiling ≤ 3) && decide (f.window ≤ 15)

/-- R150: the three profiles of an image are in range. -/
def MapImage.profileLaw (m : MapImage) : Bool :=
  m.profiles.a.inRange && m.profiles.b.inRange && m.profiles.c.inRange

/-- R150: every Port Profile is in range, in the Host Ports and in every map image that can be loaded or applied. -/
def State.profileLaw (s : State) : Bool :=
  allPorts (fun p => (s.port p).profile.inRange)
    && s.slotX.image.profileLaw && s.slotY.image.profileLaw
    && s.staged.all MapImage.profileLaw && s.commitImage.all MapImage.profileLaw

/-- R94, R165: whether the commit image keeps the definition of every DEFINED region that is not FROZEN. -/
def State.commitAgrees (s : State) (m : MapImage) : Bool :=
  regionIndices.all (fun i => match s.region i with
    | some r => decide (r.lease.state = .frozen) || decide ((m.regions[i]?).join = some r.definition)
    | none => true)

/-- R75, R155, R160: every image that can be loaded or applied is valid: that of a valid slot, and the commit image,
which changes FROZEN and UNDEFINED entries alone. -/
def State.imageLaw (s : State) : Bool :=
  (!s.slotX.mark || s.slotX.image.valid) && (!s.slotY.mark || s.slotY.image.valid)
    && s.commitImage.all (fun m => m.valid && s.commitAgrees m)

/-- R135, R136: a port that is RECEIVING, in TRAILING or in DATA_IN has its chip-select low and has received what its
frame state says: part of a fixed part, a whole one with no data phase or an unknown opcode, a whole LOAD with its first
data byte. A byte in progress has fewer than eight bits, and in a quad phase none or four. -/
def PortState.lineLaw (q : PortState) : Bool :=
  decide (q.shift.length < 8)
    && match q.frame with
      | .receiving bytes =>
        q.csLow && decide (afterByte bytes = some (.receiving bytes))
          && (!quadIn bytes || decide (q.shift.length % 4 = 0))
      | .trailing bytes => q.csLow && decide (afterByte bytes = some (.trailing bytes)) && q.shift.isEmpty
      | .dataIn bytes =>
        q.csLow && decide (afterByte bytes = some (.dataIn bytes))
          && (!quadIn bytes || decide (q.shift.length % 4 = 0))
      | _ => true

/-- R135, R136. -/
def State.lineLaw (s : State) : Bool := allPorts (fun p => (s.port p).lineLaw)

/-! ### Which rows are which frames (R138, R144) -/

end Sys2Proof.Machine

namespace Sys2Proof

/-- The port whose frame, or moment of a frame, a row is; `none` for the rows that are no part of a frame. -/
def Instr.framePort : Instr → Option Port
  | .readArray p _ => some p
  | .quadReadArray p _ => some p
  | .blockCrossing p => some p
  | .targetEntry p => some p
  | .blockCrossingNewBank p => some p
  | .readStreamClose p _ => some p
  | .loadBuffer p _ _ _ => some p
  | .loadBufferQuad p _ _ _ => some p
  | .discardBuffer p _ => some p
  | .readBuffer p _ => some p
  | .readStatus p _ => some p
  | .readIdentity p _ => some p
  | .mapStageBegin p => some p
  | .mapStageRegion p _ _ _ _ _ _ _ => some p
  | .mapStageProfile p _ _ _ _ => some p
  | .mapStageAuthority p _ => some p
  | .mapCommit p _ => some p
  | .mapDiscard p => some p
  | .readMap p _ => some p
  | .submitProgram p _ _ _ _ => some p
  | .submitSectorErase p _ _ _ => some p
  | .submitBlockErase p _ _ _ => some p
  | .cancel p _ => some p
  | .readQueue p _ => some p
  | .claimRegion p _ => some p
  | .renewLease p _ => some p
  | .releaseRegion p _ => some p
  | .readRegions p _ => some p
  | .popCompletion p _ => some p
  | .readNotices p _ => some p
  | .setNoticeEnables p _ => some p
  | .signalPort p _ _ => some p
  | .readMailbox p _ => some p
  | .readInterrupted p _ => some p
  | .clearInterrupted p => some p
  | .portReset p => some p
  | .frameEndsShort p _ => some p
  | .unknownOpcode p _ => some p
  | .inquiryDropped p => some p
  | .notReadyAnswer p _ => some p
  | .operationEnd _ => none
  | .suspendPoint => none
  | .readWindowStep => none
  | .readWindowClose => none
  | .leaseTick => none
  | .leaseExpiry _ => none
  | .supplyMarginal _ => none
  | .supplyNormal _ => none
  | .supplyFailed _ => none
  | .powerOnDetection _ => none
  | .resetFall => none
  | .resetRise => none
  | .startUp _ => none

/-- R144, first two lines of its table: the frames that are judged at the rise of chip-select: the taken commands
with no data out, a frame that ends short and a frame with an unknown opcode. -/
def Instr.takenBy : Instr → Option Port
  | .loadBuffer p _ _ _ => some p
  | .loadBufferQuad p _ _ _ => some p
  | .discardBuffer p _ => some p
  | .mapStageBegin p => some p
  | .mapStageRegion p _ _ _ _ _ _ _ => some p
  | .mapStageProfile p _ _ _ _ => some p
  | .mapStageAuthority p _ => some p
  | .mapCommit p _ => some p
  | .mapDiscard p => some p
  | .submitProgram p _ _ _ _ => some p
  | .submitSectorErase p _ _ _ => some p
  | .submitBlockErase p _ _ _ => some p
  | .cancel p _ => some p
  | .claimRegion p _ => some p
  | .renewLease p _ => some p
  | .releaseRegion p _ => some p
  | .setNoticeEnables p _ => some p
  | .signalPort p _ _ => some p
  | .clearInterrupted p => some p
  | .portReset p => some p
  | .frameEndsShort p _ => some p
  | .unknownOpcode p _ => some p
  | _ => none

/-- R144, the other lines of its table: the frames with an output phase that STARTING answers NOT_READY, at their
deciding moment. -/
def Instr.outputOpens : Instr → Option Port
  | .readArray p _ => some p
  | .quadReadArray p _ => some p
  | .readBuffer p (.fixed _) => some p
  | .readIdentity p (.fixed _) => some p
  | .readMap p (.fixed _) => some p
  | .readQueue p (.fixed _) => some p
  | .readRegions p (.fixed _) => some p
  | .readInterrupted p (.fixed _) => some p
  | .popCompletion p (.fixed _) => some p
  | .readNotices p (.fixed _) => some p
  | .readMailbox p (.fixed _) => some p
  | .notReadyAnswer p (.fixed _) => some p
  | _ => none

/-- R135, R144: whether a frame's data phase is on IO0 to IO3. -/
def Instr.quadOut : Instr → Bool
  | .quadReadArray _ _ => true
  | _ => false

/-- The rise of such a frame, with the number of whole bytes clocked out. -/
def Instr.outputRises : Instr → Option (Port × Nat)
  | .readStreamClose p n => some (p, n)
  | .readBuffer p (.rise n) => some (p, n)
  | .readIdentity p (.rise n) => some (p, n)
  | .readMap p (.rise n) => some (p, n)
  | .readQueue p (.rise n) => some (p, n)
  | .readRegions p (.rise n) => some (p, n)
  | .readInterrupted p (.rise n) => some (p, n)
  | .popCompletion p (.rise n) => some (p, n)
  | .readNotices p (.rise n) => some (p, n)
  | .readMailbox p (.rise n) => some (p, n)
  | .notReadyAnswer p (.rise n) => some (p, n)
  | _ => none

/-- R138: the rows of the inquiries, from the opening of a view or a stream to its end. -/
def Instr.isInquiry : Instr → Bool
  | .readArray _ _ => true
  | .quadReadArray _ _ => true
  | .blockCrossing _ => true
  | .targetEntry _ => true
  | .blockCrossingNewBank _ => true
  | .readStreamClose _ _ => true
  | .readBuffer _ _ => true
  | .readStatus _ _ => true
  | .readIdentity _ _ => true
  | .readMap _ _ => true
  | .readQueue _ _ => true
  | .readRegions _ _ => true
  | .readInterrupted _ _ => true
  | .inquiryDropped _ => true
  | _ => false

/-- The view inquiries that change no state (R138): the port, the kind, and the bytes of the view that the state
gives at the end of the fixed part. -/
def Instr.inquiryView (s : Machine.State) : Instr → Option (Port × Machine.InquiryKind × List Byte)
  | .readIdentity p (.fixed _) => some (p, .identity, Machine.identityView p)
  | .readQueue p (.fixed _) => some (p, .queue, s.queueView)
  | .readRegions p (.fixed _) => some (p, .regions, s.regionsView)
  | .readMap p (.fixed k) => some (p, .map, s.mapView k)
  | .readInterrupted p (.fixed _) => some (p, .interrupted, s.interruptedView)
  | _ => none

/-- The rise of such a frame: the port, the kind, and the number of whole bytes clocked out. -/
def Instr.inquiryRise : Instr → Option (Port × Machine.InquiryKind × Nat)
  | .readIdentity p (.rise n) => some (p, .identity, n)
  | .readQueue p (.rise n) => some (p, .queue, n)
  | .readRegions p (.rise n) => some (p, .regions, n)
  | .readMap p (.rise n) => some (p, .map, n)
  | .readInterrupted p (.rise n) => some (p, .interrupted, n)
  | _ => none

/-- LOAD BUFFER and LOAD BUFFER QUAD, whose data bytes follow the fixed part (R141). -/
def Instr.isLoad : Instr → Bool
  | .loadBuffer _ _ _ _ => true
  | .loadBufferQuad _ _ _ _ => true
  | _ => false

end Sys2Proof

namespace Sys2Proof.Machine

/-- The next frame of the port finds it DESELECTED and the device READY (R136, R144). -/
def State.portReady (s : State) (p : Port) : Bool :=
  decide ((s.port p).frame = .deselected) && decide (s.device = .ready)

/-! ### Tables of refusals, in the spec's order (R24, R165) -/

/-- The first condition of a table that holds is the one with this code. -/
def firstHolds : List (Prop × Response) → Response → Prop
  | [], _ => False
  | c :: cs, r => (c.1 ∧ r = c.2) ∨ (¬c.1 ∧ firstHolds cs r)

/-- No condition of a table holds. -/
def noneHolds : List (Prop × Response) → Prop
  | [] => True
  | c :: cs => ¬c.1 ∧ noneHolds cs

/-- R22: the port has an entry with the tag. -/
def State.hasTag (s : State) (p : Port) (tag : Byte) : Prop := ∃ e ∈ s.queue, e.port = p ∧ e.tag = tag

/-- R75: block b lies in region i, whose entry is r. -/
def State.blockInRegion (s : State) (b i : Nat) (r : Region) : Prop :=
  s.region i = some r ∧ r.definition.first.toNat ≤ b ∧ b ≤ r.definition.last.toNat

/-- R24: checks 4 to 8, for the block that holds the target. -/
def State.sharedRefusals (s : State) (p : Port) (block : Nat) (tag : Byte) : List (Prop × Response) :=
  [(s.hasTag p tag, .tagInUse),
   (¬∃ i r, s.blockInRegion block i r ∧ r.definition.writeMask.has p = true, .noPermission),
   (¬∃ i r, s.blockInRegion block i r ∧ r.lease.state = .held ∧ r.lease.holder = some p, .notHolder),
   (8 ≤ s.entryCount p + s.recordCount p, .noCredit),
   (12 ≤ s.queue.length, .queueFull)]

/-- R24: the table of SUBMIT PROGRAM. -/
def State.programRefusals (s : State) (p : Port) (handle : Byte) (addr : Addr) (tag cls : Byte) :
    List (Prop × Response) :=
  (3 < cls.toNat ∨ 3 < handle.toNat, .badParameter) ::
  ((s.port p).handle handle = none, .noHandle) ::
  (addr.toNat % 256 ≠ 0, .badAddress) :: s.sharedRefusals p (addr.toNat / 65536) tag

/-- R24: the table of the erase submissions. -/
def State.eraseRefusals (s : State) (p : Port) (addr : Addr) (tag cls : Byte) : List (Prop × Response) :=
  (3 < cls.toNat, .badParameter) :: s.sharedRefusals p (addr.toNat / 65536) tag

/-- R165 check 4: an image in which every first block is at or below its last, and no two defined regions share a
block. -/
def MapImage.sound (m : MapImage) : Prop :=
  (∀ d ∈ m.regions.filterMap id, d.first.toNat ≤ d.last.toNat) ∧
  (m.regions.filterMap id).Pairwise (fun d e => ∀ b, ¬(d.containsBlock b = true ∧ e.containsBlock b = true))

/-- R94, R165: region i is DEFINED and the image changes it. -/
def State.changedBy (s : State) (m : MapImage) (i : Nat) : Prop :=
  i < 16 ∧ ∃ r, s.region i = some r ∧ (m.regions[i]?).join ≠ some r.definition

/-- R165: the table of MAP COMMIT. -/
def State.commitRefusals (s : State) (p : Port) (tag : Byte) : List (Prop × Response) :=
  [(s.authority ≠ some p, .notAuthority),
   (s.staged = none, .noStage),
   (∃ e ∈ s.queue, e.kind = .mapCommit, .mapPending),
   (∃ m, s.staged = some m ∧ ¬m.sound, .badMap),
   (s.generation.toNat = 65535, .generationSpent),
   (s.hasTag p tag, .tagInUse),
   (∃ m i r, s.staged = some m ∧ s.changedBy m i ∧ s.region i = some r ∧ r.lease.state ≠ .free, .regionBusy),
   (8 ≤ s.entryCount p + s.recordCount p, .noCredit),
   (12 ≤ s.queue.length, .queueFull)]

/-- R162, R163: the first three refusals of the three map edits. -/
def State.editRefusals (s : State) (p : Port) : List (Prop × Response) :=
  [(s.authority ≠ some p, .notAuthority),
   (s.staged = none, .noStage),
   (∃ e ∈ s.queue, e.kind = .mapCommit, .mapPending)]

/-- A frame answered with a code, and nothing else (R24, R140, R165). -/
def State.answers (s : State) (p : Port) (r : Response) : Result :=
  .next (s.modifyPort p (fun q => { q with lastResponse := r }))

/-- R116, R117: a record of an entry that leaves with a status, as the port's next. -/
def PortState.nextRecord (q : PortState) (e : Entry) (status : Status) : CompletionRecord :=
  ⟨q.sequence, e.tag, e.kind, e.targetAddr, status, e.effectiveClass, e.suspendCount⟩

/-! ### What a lease happening makes of one region (R80 to R82, R88, R91, R93) -/

/-- R80: a lease that has just become FREE, after its grant step. -/
def Region.granted (r : Region) (l : Lease) : Lease :=
  match l.waiters with
  | [] => l
  | w :: ws => { l with state := .held, holder := some w, remaining := r.definition.limit.toNat, waiters := ws }

/-- R88 case 4, R93 steps 3 and 4, R96 step 2: the lease after its holder's lease has ended. -/
def Region.leaseEnded (r : Region) : Lease :=
  if 0 < r.lease.drain then { r.lease with state := .draining, holder := none, remaining := 0 }
  else r.granted { r.lease with state := .free, holder := none, remaining := 0 }

/-- R81, R82: the lease after a started entry of the region has ended. -/
def Region.entryEnded (r : Region) : Lease :=
  if r.lease.state = .draining ∧ r.lease.drain - 1 = 0 then
    r.granted { r.lease with state := .free, drain := r.lease.drain - 1 }
  else { r.lease with drain := r.lease.drain - 1 }

/-- R90: a tick counts the region down. -/
def Region.counts (r : Region) : Bool :=
  decide (r.lease.state = .held) && r.lease.holder.isSome && decide (0 < r.definition.limit.toNat)

/-- R91: a tick brings the region's remaining to 0. -/
def Region.expires (r : Region) : Bool := r.counts && decide (r.lease.remaining ≤ 1)

/-- R92: a tick brings the region's remaining down to its warning point. -/
def Region.warns (r : Region) : Bool :=
  r.counts && decide (1 ≤ r.definition.limit.toNat / 4)
    && decide (r.lease.remaining = r.definition.limit.toNat / 4 + 1)

/-- R90, R91, R93: the lease after a tick. -/
def Region.ticked (r : Region) : Lease :=
  if r.expires then r.leaseEnded
  else if r.counts then { r.lease with remaining := r.lease.remaining - 1 } else r.lease

/-- R38, R93 step 1: the entry is QUEUED and belongs to the holder of a region whose lease expires at this tick. -/
def State.losesEntry (s : State) (e : Entry) : Bool :=
  e.isQueued && (match e.region.bind s.region with
    | some r => r.expires && decide (r.lease.holder = some e.port)
    | none => false)

/-- R38, R91: the entries of a port that a tick removes, in the order in which their records are posted: region by
region in ascending index order, the oldest first. -/
def State.lostAtTick (s : State) (p : Port) : List Entry :=
  regionIndices.flatMap (fun i =>
    s.queue.filter (fun e => decide (e.port = p ∧ e.region = some i) && s.losesEntry e))

/-- R116, R117: the records of entries that leave in one happening, with the port's next sequence numbers. -/
def PortState.nextRecords (q : PortState) (es : List Entry) (status : Status) : List CompletionRecord :=
  es.zipIdx.map (fun x =>
    { q.nextRecord x.1 status with sequence := q.sequence + BitVec.ofNat 16 x.2 })

/-- R122: the kinds that satisfy a condition were posted to the port between two of its states, and no other kind
became or stopped being pending; the record that R127 needs of them follows. -/
def PortState.posted (before after : PortState) (kinds : NoticeKind → Prop) : Prop :=
  ∀ k, (after.latched.get k = true ↔ before.latched.get k = true ∨ kinds k) ∧
    (after.postedSinceView.get k = true ↔ before.postedSinceView.get k = true ∨ kinds k)

/-- Some region's lease is held by the port and satisfies a condition. -/
def State.someLease (s : State) (p : Port) (f : Region → Bool) : Bool :=
  s.regions.any (fun slot => match slot with
    | some r => decide (r.lease.holder = some p) && f r
    | none => false)

/-- R94, R95: a FROZEN region back at FREE with its old definition. -/
def Region.thawed (r : Region) : Region :=
  if r.lease.state = .frozen then { r with lease := { r.lease with state := .free } } else r

/-- R95: the entry of the Region Table that a commit leaves when it ends DONE. -/
def committedRegion (old : Option Region) (new : Option RegionDef) : Option Region :=
  match old with
  | some r => if r.lease.state = .frozen then new.map (fun d => ⟨d, ⟨.free, none, 0, [], 0⟩⟩) else some r
  | none => new.map (fun d => ⟨d, ⟨.free, none, 0, [], 0⟩⟩)

/-! ### Events on the lines (R135, R136) -/

/-- Events on the lines of one port, one after the other. -/
def runEvents (p : Port) : List PinEvent → State → Result
  | [], s => .next s
  | e :: es, s =>
    match pinEvent p e s with
    | .next t => runEvents p es t
    | .fault f => .fault f
    | .refused r => .refused r

/-- R135: the groups of bits that a frame's bytes are sent in, clock by clock: one bit a clock, and four in the data
phase of LOAD BUFFER QUAD, the highest first. -/
def bitGroups (bytes : List Byte) : List (List Bool) :=
  let single := fun b : Byte => (List.range 8).map (fun i => [b.getMsbD i])
  let quad := fun b : Byte =>
    [[b.getMsbD 0, b.getMsbD 1, b.getMsbD 2, b.getMsbD 3], [b.getMsbD 4, b.getMsbD 5, b.getMsbD 6, b.getMsbD 7]]
  if bytes.head? = some 0x57 then (bytes.take 3).flatMap single ++ (bytes.drop 3).flatMap quad
  else bytes.flatMap single

/-- R135: the levels of a clock carry a group of bits: one on IO0, whatever the other lines do, or four on IO3 to
IO0. -/
def carries (io : IoLines Bool) (bits : List Bool) : Prop :=
  bits = [io.io0] ∨ bits = [io.io3, io.io2, io.io1, io.io0]

end Sys2Proof.Machine
end

