-- ==== Sys2Proof/WellFormed.lean ====
section
/-! DEFINITION. Which commands are well formed: what the operands of a row must satisfy for the row to name a
happening at all, whatever the state. -/

namespace Sys2Proof

/-- A LOAD frame carries at least one whole data byte, which its fixed part includes (R104, R138). -/
def loadWellFormed (data : List Byte) : Bool := !data.isEmpty

/-- The checks, row by row. -/
def Instr.wellFormed : Instr → Bool
  | .loadBuffer _ _ _ data => loadWellFormed data
  | .loadBufferQuad _ _ _ data => loadWellFormed data
  | .frameEndsShort _ bits => decide (0 < bits)
  | .unknownOpcode _ op => !commandOpcodes.contains op
  | .supplyMarginal mv => decide (Config.failedBelow ≤ mv) && decide (mv < Config.marginalBelow)
  | .supplyNormal mv => decide (Config.normalAbove < mv)
  | .supplyFailed mv => decide (mv < Config.failedBelow)
  | .powerOnDetection mv => decide (Config.powerOnAbove < mv)
  | .startUp run => decide (Config.failedBelow ≤ run.mv)
  | .readArray _ _ => true
  | .quadReadArray _ _ => true
  | .blockCrossing _ => true
  | .targetEntry _ => true
  | .blockCrossingNewBank _ => true
  | .readStreamClose _ _ => true
  | .discardBuffer _ _ => true
  | .readBuffer _ _ => true
  | .readStatus _ _ => true
  | .readIdentity _ _ => true
  | .mapStageBegin _ => true
  | .mapStageRegion _ _ _ _ _ _ _ _ => true
  | .mapStageProfile _ _ _ _ _ => true
  | .mapStageAuthority _ _ => true
  | .mapCommit _ _ => true
  | .mapDiscard _ => true
  | .readMap _ _ => true
  | .submitProgram _ _ _ _ _ => true
  | .submitSectorErase _ _ _ _ => true
  | .submitBlockErase _ _ _ _ => true
  | .cancel _ _ => true
  | .readQueue _ _ => true
  | .claimRegion _ _ => true
  | .renewLease _ _ => true
  | .releaseRegion _ _ => true
  | .readRegions _ _ => true
  | .popCompletion _ _ => true
  | .readNotices _ _ => true
  | .setNoticeEnables _ _ => true
  | .signalPort _ _ _ => true
  | .readMailbox _ _ => true
  | .readInterrupted _ _ => true
  | .clearInterrupted _ => true
  | .portReset _ => true
  | .inquiryDropped _ => true
  | .notReadyAnswer _ _ => true
  | .operationEnd _ => true
  | .suspendPoint => true
  | .readWindowStep => true
  | .readWindowClose => true
  | .leaseTick => true
  | .leaseExpiry _ => true
  | .resetFall => true
  | .resetRise => true

end Sys2Proof
end

