-- ==== Sys2Proof/Certificates/Slice0/Obligations.lean ====
section
/-! DEFINITION. The statements for the provers, by chapter of the spec. A statement about an output frame speaks of
its two moments (R138). Where an effect ends with the Scheduler's look (R48), the statement gives the state before
the look in full, and the statements of the Scheduler say what a look does. -/

open Sys2Proof Sys2Proof.Machine

/-! ### Commands and frames -/

/-- The command at the front of the queue runs on the state with the queue's rest, and changes nothing of that rest.
On an empty queue the part takes the next of its other inputs: an event on the lines, a command among them, or the stop
of the array after a cut-off. With none the array stops, and the part idles where no cut-off is unfinished. What a step
does on an empty queue is the model's choice (logs 15, 16 and 32). -/
def Obligations.StepRunsTheFrontCommand : Prop :=
  (∀ (c : Instr) (rest : List Instr) (s : State), s.pending = c :: rest →
    step s = exec c { s with pending := rest }) ∧
  (∀ s : State, s.pending = [] → s.inputs = [] →
    step s = .next s.arrayStops ∧ (s.stopping = [] → step s = .next s)) ∧
  (∀ (rest : List Input) (s : State), s.pending = [] → s.inputs = .arrayStops :: rest →
    step s = .next { s with inputs := rest }.arrayStops) ∧
  (∀ (p : Port) (e : PinEvent) (rest : List Input) (s : State), s.pending = [] → s.inputs = .pin p e :: rest →
    step s = pinEvent p e { s with inputs := rest }) ∧
  (∀ (c : Instr) (rest : List Input) (s : State), s.pending = [] → s.inputs = .command c :: rest →
    step s = exec c { s with inputs := rest }) ∧
  (∀ (c : Instr) (s t : State), exec c s = .next t → t.pending = s.pending ∧ t.inputs = s.inputs)

/-- R187, R141: the frame of a command decodes to it, for every operand, also when the frame ends with a partial
byte, and also when it goes on after its fixed part. The data bytes of a LOAD are the rest of its frame. -/
def Obligations.FrameDecodesToItsCommand : Prop :=
  ∀ (i : Instr) (p : Port) (bs : List Byte), i.wellFormed = true → encodeFrame i = some (p, bs) →
    (∀ k, (decodeFrame p ⟨bs, k⟩).head? = some i) ∧
    (i.isLoad = false → ∀ (more : List Byte) (k : Nat), (decodeFrame p ⟨bs ++ more, k⟩).head? = some i)

/-- R136, R139, R140, R142, R187: a frame with no bit is no frame; a frame that ends inside its opcode or inside the
fixed part of a taken command ends short; an inquiry that ends inside its fixed part is dropped; an opcode with no
command is unknown, whatever follows it. -/
def Obligations.ShortFramesCarryNoCommand : Prop :=
  ∀ (p : Port) (k : Nat),
    decodeFrame p ⟨[], 0⟩ = [] ∧
    (0 < k → decodeFrame p ⟨[], k⟩ = [.frameEndsShort p k]) ∧
    (∀ (op : Byte) (fields : List Byte) (m : Nat) (after : AfterFixed),
      frameShape op = some (m, after) → fields.length < m →
      decodeFrame p ⟨op :: fields, k⟩ =
        if after = .stream ∨ op = 0x9A then [.inquiryDropped p]
        else [.frameEndsShort p (8 * (fields.length + 1) + k)]) ∧
    (∀ (op : Byte) (fields : List Byte), frameShape op = none →
      decodeFrame p ⟨op :: fields, k⟩ = [.unknownOpcode p op])

/-- R144, R145: a frame whose deciding moment finds the device STARTING gives NOT_READY and no other effect; one
with an output phase delivers 00h, and its rise gives NOT_READY also when the device has become READY since. -/
def Obligations.StartingAnswersNotReady : Prop :=
  (∀ (i : Instr) (p : Port) (s : State), i.takenBy = some p → i.wellFormed = true →
    (s.port p).frame = .deselected → s.device = .starting → exec i s = s.answers p .notReady) ∧
  (∀ (i : Instr) (p : Port) (s : State), i.outputOpens = some p →
    (s.port p).frame = .deselected → s.device = .starting →
    exec i s = .next (s.modifyPort p (fun q => { q with frame := .dataOut (.notReady i.quadOut) }))) ∧
  (∀ (i : Instr) (p : Port) (n : Nat) (quad : Bool) (s : State), i.outputRises = some (p, n) →
    (s.port p).frame = .dataOut (.notReady quad) →
    exec i s = .next (s.modifyPort p (fun q =>
      { q with frame := .deselected, output := List.replicate n 0, lastResponse := .notReady }))) ∧
  (∀ (p : Port) (n : Nat) (s : State), (s.port p).frame = .deselected → s.device = .starting →
    exec (.notReadyAnswer p (.rise n)) s = s.answers p .notReady)

/-- R137, R139, R140, R142: in READY a frame that ends short sets FRAME_ERROR and an unknown opcode BAD_COMMAND, and
nothing else; a dropped inquiry changes nothing, in READY and in STARTING. An INERT port ignores its inputs; that a
frame row then leaves the state unchanged is the model's reading (log 14), and so is that the row of a rise does on a
DESELECTED port, where no output frame is there to end (log 28). -/
def Obligations.FramesWithNoCommand : Prop :=
  (∀ (i : Instr) (p : Port) (s : State), i.framePort = some p → i.wellFormed = true →
    (s.port p).frame = .inert → exec i s = .next s) ∧
  (∀ (p : Port) (s : State),
    (∀ bits, s.portReady p = true → 0 < bits → exec (.frameEndsShort p bits) s = s.answers p .frameError) ∧
    (∀ op, s.portReady p = true → op ∉ commandOpcodes → exec (.unknownOpcode p op) s = s.answers p .badCommand) ∧
    ((s.port p).frame = .deselected → exec (.inquiryDropped p) s = .next s) ∧
    (∀ i n, i.outputRises = some (p, n) ∨ i = .readStatus p (.rise n) → i ≠ .notReadyAnswer p (.rise n) →
      (s.port p).frame = .deselected → exec i s = .next s))

/-- R146, R148, R189: READ STATUS delivers its eight bytes from one view, in any device state. Its rise clears the
sticky flags that the view showed when all eight bytes were clocked out, and leaves Last Response unchanged. -/
def Obligations.ReadStatusShowsAndClears : Prop :=
  (∀ (p : Port) (s : State), (s.port p).frame = .deselected →
    exec (.readStatus p (.fixed ())) s = .next (s.modifyPort p (fun q =>
      { q with frame := .dataOut (.status
          [q.lastResponse.code,
           byteOf ((if s.device = .ready then 1 else 0) + (if s.supply = .normal then 0 else 2)),
           byteOf s.engine.code,
           byteOf (s.entryCount p),
           byteOf q.completions.length,
           byteOf (8 - s.entryCount p - q.completions.length),
           byteOf (16 * s.buffers.countP (fun b => decide (b.state = .free)) + q.handles.countP Option.isSome),
           byteOf ((if q.conflictSeen then 1 else 0) + (if q.deniedSeen then 2 else 0)
             + (if s.mapDefaulted then 4 else 0) + (if s.interrupted = [] then 0 else 8)
             + (if s.staged = none then 0 else 16))]
          q.conflictSeen q.deniedSeen) }))) ∧
  (∀ (p : Port) (n : Nat) (bytes : List Byte) (conflict denied : Bool) (s : State),
    (s.port p).frame = .dataOut (.status bytes conflict denied) →
    exec (.readStatus p (.rise n)) s = .next (s.modifyPort p (fun q =>
      { q with
        frame := .deselected
        output := (bytes ++ List.replicate n 0).take n
        conflictSeen := if 8 ≤ n ∧ conflict = true then false else q.conflictSeen
        deniedSeen := if 8 ≤ n ∧ denied = true then false else q.deniedSeen })))

/-- R138, R44, R99, R149, R170, R183: each of these view inquiries takes its view at the end of its fixed part,
delivers it and then 00h, and changes nothing else. READ IDENTITY's view is the four bytes of R149. -/
def Obligations.ViewInquiriesChangeNothing : Prop :=
  (∀ (i : Instr) (p : Port) (kind : InquiryKind) (bytes : List Byte) (s : State),
    i.inquiryView s = some (p, kind, bytes) → s.portReady p = true →
    exec i s = .next (s.modifyPort p (fun q => { q with frame := .dataOut (.inquiry kind bytes) }))) ∧
  (∀ (i : Instr) (p : Port) (kind : InquiryKind) (n : Nat) (bytes : List Byte) (s : State),
    i.inquiryRise = some (p, kind, n) → (s.port p).frame = .dataOut (.inquiry kind bytes) →
    exec i s = .next (s.modifyPort p (fun q =>
      { q with frame := .deselected, output := (bytes ++ List.replicate n 0).take n }))) ∧
  identityView .a = [0x5D, 0xA3, 0x0A, 0x01] ∧ identityView .b = [0x5D, 0xA3, 0x0B, 0x01] ∧
  identityView .c = [0x5D, 0xA3, 0x0C, 0x01]

/-- R43, R98, R189: READ QUEUE shows twelve slots of eight bytes in arrival order, READ REGIONS sixteen in index
order; each field can be read back from its bits, and an empty slot is all 00h. -/
def Obligations.QueueAndRegionViewFields : Prop :=
  (∀ s : State, s.queueView.length = 96 ∧
    ∀ i, i < 12 →
      let v := (s.queueView.drop (8 * i)).take 8
      match s.queue[i]? with
      | none => v = List.replicate 8 0
      | some e => e.rangeLaw = true → (∀ b, e.buffer = some b → b ≤ 5) →
        let n := fun k => ((v[k]?).getD 0).toNat
        n 0 / 64 = e.port.code ∧ n 0 / 32 % 2 = (if e.orphaned then 1 else 0) ∧ n 0 / 4 % 8 = e.kind.code ∧
        n 0 % 4 = e.state.code ∧ v[1]? = some e.tag ∧
        n 2 * 65536 + n 3 * 256 + n 4 = e.targetAddr.toNat ∧
        n 5 / 64 = e.requestedClass ∧ n 5 / 16 % 4 = e.effectiveClass ∧ n 5 / 8 % 2 = 0 ∧ n 5 % 8 = e.bypass ∧
        n 6 / 32 = (match e.buffer with
          | some b => b
          | none => 7) ∧
        n 6 % 32 = e.suspendCount ∧ n 7 = e.arrival.toNat % 256) ∧
  (∀ s : State, s.regionsView.length = 128 ∧
    ∀ i, i < 16 →
      let v := (s.regionsView.drop (8 * i)).take 8
      match s.region i with
      | none => v = List.replicate 8 0
      | some r =>
        let n := fun k => ((v[k]?).getD 0).toNat
        n 0 = r.lease.state.code ∧ v[1]? = some r.definition.first ∧ v[2]? = some r.definition.last ∧
        n 3 % 8 = r.definition.readMask.bits ∧ n 3 / 16 = r.definition.writeMask.bits ∧ n 3 / 8 % 2 = 0 ∧
        v[4]? = some r.definition.limit ∧ n 5 = r.lease.remaining % 256 ∧
        n 6 / 16 = Port.codeOf r.lease.holder ∧ n 6 / 4 % 4 = Port.codeOf r.lease.waiters[0]? ∧
        n 6 % 4 = Port.codeOf r.lease.waiters[1]? ∧ n 7 = r.lease.drain % 256)

/-- R115, R170, R183, R189: the 73 bytes of READ MAP, for selector 0 the working map with its generation and slot, for
selector 1 the staged map or zeros, for any other zeros; the 8 bytes of a Completion Record; the 15 bytes of READ
INTERRUPTED. Each part can be read back from its bytes, and what is empty is all 00h. -/
def Obligations.MapAndRecordViewFields : Prop :=
  (∀ (s : State) (sel : Byte),
    (s.mapView sel).length = 73 ∧
    (2 ≤ sel.toNat ∨ sel = 1 ∧ s.staged = none → s.mapView sel = List.replicate 73 0) ∧
    ∀ (m : MapImage) (g : Word16) (slot : Option SlotName),
      (sel = 0 ∧ m = s.workingImage ∧ g = s.generation ∧ slot = s.currentSlot) ∨
        (sel = 1 ∧ s.staged = some m ∧ g = 0 ∧ slot = none) →
      let v := s.mapView sel
      let n := fun k => ((v[k]?).getD 0).toNat
      n 0 / 128 = 1 ∧ n 0 / 4 % 32 = SlotName.codeOf slot ∧ n 0 % 4 = Port.codeOf m.authority ∧
      n 1 * 256 + n 2 = g.toNat ∧
      (∀ i, i < 16 →
        match (m.regions[i]?).join with
        | none => (v.drop (3 + 4 * i)).take 4 = [0, 0, 0, 0]
        | some d => v[3 + 4 * i]? = some d.first ∧ v[4 + 4 * i]? = some d.last ∧
          n (5 + 4 * i) / 128 = 1 ∧ n (5 + 4 * i) / 16 % 8 = d.writeMask.bits ∧
          n (5 + 4 * i) % 16 = d.readMask.bits ∧ v[6 + 4 * i]? = some d.limit) ∧
      (m.profileLaw = true →
        n 67 = 16 * m.profiles.a.ceiling + m.profiles.a.window ∧ v[68]? = some m.profiles.a.fill ∧
        n 69 = 16 * m.profiles.b.ceiling + m.profiles.b.window ∧ v[70]? = some m.profiles.b.fill ∧
        n 71 = 16 * m.profiles.c.ceiling + m.profiles.c.window ∧ v[72]? = some m.profiles.c.fill)) ∧
  (recordBytes none = List.replicate 8 0 ∧
  (∀ r : CompletionRecord, r.effectiveClass ≤ 3 → r.suspendCount ≤ 16 →
    let v := recordBytes (some r)
    let n := fun k => ((v[k]?).getD 0).toNat
    v.length = 8 ∧ n 0 * 256 + n 1 = r.sequence.toNat ∧ v[2]? = some r.tag ∧ n 3 / 16 = r.kind.code ∧
    n 3 % 16 = r.status.code ∧ n 4 * 65536 + n 5 * 256 + n 6 = r.target.toNat ∧
    n 7 / 64 = r.effectiveClass ∧ n 7 % 64 = r.suspendCount) ∧
  (∀ s : State, s.interrupted.length ≤ 2 →
    let v := s.interruptedView
    let n := fun k => ((v[k]?).getD 0).toNat
    v.length = 15 ∧ n 0 = s.interrupted.length ∧
    ∀ i, i < 2 →
      match s.interrupted[i]? with
      | none => (v.drop (1 + 7 * i)).take 7 = List.replicate 7 0
      | some x => n (1 + 7 * i) = x.kind.code ∧
        n (2 + 7 * i) * 65536 + n (3 + 7 * i) * 256 + n (4 + 7 * i) = x.target.toNat ∧
        n (5 + 7 * i) = x.port.code ∧ v[6 + 7 * i]? = some x.tag ∧
        n (7 + 7 * i) = if x.suspended then 1 else 0))

/-- R135, R136, R138, R139, R140, R141, R142: a frame that a host sends bit by bit. A fall of chip-select, the clocks
that carry the bytes of a command, the highest bit first, on IO0 or, for the data of LOAD BUFFER QUAD, on IO3 to IO0, any
bits after them that make no whole data byte, and the rise: the part does what the command's row does. For a command
with an output phase it does so after the last bit of the fixed part. A frame with no bit does nothing; one that ends
inside its opcode or its fixed part ends short or is dropped, and one with an unknown opcode is unknown, whatever follows
it. No event on the lines stops the part, whatever its state. -/
def Obligations.LinesCarryFrames : Prop :=
  (∀ (i : Instr) (p : Port) (bytes : List Byte) (clocks : List (IoLines Bool)) (s : State),
    i.wellFormed = true → encodeFrame i = some (p, bytes) →
    (s.port p).frame = .deselected → (s.port p).csLow = false → (s.port p).shift = [] →
    List.Forall₂ carries clocks (bitGroups bytes) →
    (i.takenBy = some p → ∀ more : List (IoLines Bool),
      (i.isLoad = true → more.length < if bytes.head? = some 0x57 then 2 else 8) →
      runEvents p (.fall :: (clocks ++ more).map .clock ++ [.rise]) s = exec i s) ∧
    (i.outputOpens = some p ∨ i = .readStatus p (.fixed ()) →
      runEvents p (.fall :: clocks.map .clock) s =
        exec i (s.modifyPort p (fun q => { q with csLow := true, output := [] })))) ∧
  (∀ (p : Port) (more : List (IoLines Bool)) (s : State),
    (s.port p).frame = .deselected → (s.port p).csLow = false → (s.port p).shift = [] →
    let sent := fun clocks : List (IoLines Bool) => runEvents p (.fall :: (clocks ++ more).map .clock ++ [.rise]) s
    (more = [] → sent [] = .next s) ∧
    (0 < more.length → more.length < 8 → sent [] = exec (.frameEndsShort p more.length) s) ∧
    (∀ (op : Byte) (fields : List Byte) (m : Nat) (after : AfterFixed) (clocks : List (IoLines Bool)),
      frameShape op = some (m, after) → fields.length < m → List.Forall₂ carries clocks (bitGroups (op :: fields)) →
      let each := if op = 0x57 ∧ fields.length = 2 then 4 else 1
      more.length * each < 8 →
      sent clocks = exec (if after = .stream ∨ op = 0x9A then .inquiryDropped p
        else .frameEndsShort p (8 * (fields.length + 1) + more.length * each)) s) ∧
    (∀ (op : Byte) (clocks : List (IoLines Bool)), frameShape op = none →
      List.Forall₂ carries clocks (bitGroups [op]) → sent clocks = exec (.unknownOpcode p op) s)) ∧
  (∀ (p : Port) (e : PinEvent) (s : State), ∃ t, pinEvent p e s = .next t)

/-- R11, R14, R108, R135, R136, R138, R141, R144: an output phase bit by bit. The byte that a port delivers is the view's,
the mapped buffer's or 00h at the place that the bytes delivered so far give, or the stream's array or fill byte, and 00h
in a frame answered NOT_READY. Its bits are driven, the highest first, on IO1 or, for QUAD READ ARRAY, on IO3 to IO0, and
outside an output phase no line is. After its last bit the byte is delivered, and a stream that it brings to a re-check
point makes the checks of that point's row. The clocks of n bytes, any bits that make no whole byte, and the rise do what
the row of the rise does with n bytes. That one byte is here driven and recorded is the model's choice where it is an
unsettled one and another port's delivery falls between its bits (log 3). -/
def Obligations.LinesCarryOutput : Prop :=
  (∀ (p : Port) (s : State),
    let n := (s.port p).output.length
    (∀ v, (s.port p).frame = .dataOut v → s.byteOut p = some ((match v with
      | .notReady _ => []
      | .status bytes _ _ => bytes
      | .inquiry _ bytes => bytes
      | .completion head => recordBytes head
      | .notices shown enables => [shown.toByte, enables.toByte]
      | .mailbox none => [0, 0]
      | .mailbox (some x) => [byteOf x.sender.code, x.value]).getD n 0)) ∧
    (∀ o, (s.port p).frame = .bufferStream ⟨none, o⟩ → s.byteOut p = some 0) ∧
    (∀ o b u, (s.port p).frame = .bufferStream ⟨some b, o⟩ → s.buffers[b]? = some u → u.data.length = 256 →
      s.byteOut p = u.data[(o.toNat + n) % 256]?) ∧
    (∀ st, (s.port p).frame = .readStream st → s.byteOut p = some (match st.fill with
      | some b => b
      | none => s.arrayByte st.current s.freeIndex)) ∧
    ((∀ v, (s.port p).frame ≠ .dataOut v) → (∀ st, (s.port p).frame ≠ .bufferStream st) →
      (∀ st, (s.port p).frame ≠ .readStream st) → s.byteOut p = none)) ∧
  (∀ (p : Port) (s : State),
    (s.byteOut p = none → s.driven p = ⟨none, none, none, none⟩) ∧
    (∀ (b : Byte) (k : Nat), s.byteOut p = some b → (s.port p).shift.length = k → k < 8 →
      ((s.port p).frame.quadOut = false → s.driven p = ⟨none, some (b.getMsbD k), none, none⟩) ∧
      ((s.port p).frame.quadOut = true → k = 0 ∨ k = 4 → s.driven p =
        ⟨some (b.getMsbD (k + 3)), some (b.getMsbD (k + 2)), some (b.getMsbD (k + 1)), some (b.getMsbD k)⟩))) ∧
  (∀ (p : Port) (b : Byte) (clocks : List (IoLines Bool)) (s : State),
    s.byteOut p = some b → (s.port p).csLow = true → (s.port p).shift = [] →
    clocks.length = (if (s.port p).frame.quadOut then 2 else 8) →
    let delivered := s.modifyPort p (fun q => { q with output := q.output ++ [b] })
    let sent := runEvents p (clocks.map .clock) s
    ((∀ st, (s.port p).frame ≠ .readStream st) → sent = .next delivered) ∧
    (∀ st, (s.port p).frame = .readStream st →
      let walked := delivered.setFrame p (.readStream { st with current := st.current + 1 })
      (∀ f, st.fill = some f → sent = .next walked) ∧
      (st.fill = none → 1 < s.bytesToRecheck st.current → sent = .next { walked with freeIndex := s.freeIndex + 1 }) ∧
      (st.fill = none → s.bytesToRecheck st.current = 1 →
        sent = exec (if s.bytesToTarget st.current = some 1 then .targetEntry p
          else if bankOf (st.current + 1) = bankOf st.current then .blockCrossing p else .blockCrossingNewBank p) s))) ∧
  (∀ (i : Instr) (p : Port) (n : Nat) (clocks more : List (IoLines Bool)) (s : State),
    i.outputRises = some (p, n) ∨ i = .readStatus p (.rise n) → s.byteOut p ≠ none →
    (s.port p).csLow = true → (s.port p).shift = [] →
    ((∀ st, (s.port p).frame ≠ .readStream st) → (s.port p).output = []) →
    let perByte := if (s.port p).frame.quadOut then 2 else 8
    clocks.length = n * perByte → more.length < perByte →
    runEvents p ((clocks ++ more).map .clock ++ [.rise]) s =
      exec i (s.modifyPort p (fun q => { q with csLow := false })))

/-! ### The Read Path -/

/-- R5, R9, R75: what the checks of a read look at. In a map whose regions share no block, a port is denied exactly
where a defined region holds the block and leaves the port out of its read mask. An address is in conflict exactly
where it lies in the bank of a RUNNING or SUSPENDING entry, or inside the target of a SUSPENDED one. -/
def Obligations.ReadChecksMeanTheirTables : Prop :=
  (∀ (s : State) (p : Port) (a : Addr), s.regionLaw = true →
    (s.readDenied p a = true ↔
      ∃ i r, s.blockInRegion (a.toNat / 65536) i r ∧ r.definition.readMask.has p = false)) ∧
  (∀ (s : State) (a : Addr), s.engineLaw = true →
    (s.readConflict a = true ↔
      (∃ e ∈ s.queue, (e.state = .running ∨ e.state = .suspending) ∧ e.bank = some (bankOf a)) ∨
      (∃ e ∈ s.queue, e.state = .suspended ∧ e.targetContains a.toNat = true)))

/-- R8, R9: a read that passes its opening checks opens a stream that holds the bank of its address; a read that is
denied opens a fill stream and sets DENIED_SEEN, and makes no bank check. -/
def Obligations.ReadOpensByItsChecks : Prop :=
  ∀ (row : Port → Addr → Instr) (quad : Bool) (p : Port) (a : Addr) (s : State),
    (row = .readArray ∧ quad = false) ∨ (row = .quadReadArray ∧ quad = true) → s.portReady p = true →
    (s.readDenied p a = false → s.readConflict a = false →
      exec (row p a) s = .next
        { s.modifyPort p (fun q => { q with frame := .readStream ⟨a, some (bankOf a), none, quad⟩, output := [] }) with
          holders := s.holders.set (bankOf a) (s.holders.get (bankOf a) + 1) }) ∧
    (s.readDenied p a = true →
      exec (row p a) s = .next (s.modifyPort p (fun q =>
        { q with
          frame := .readStream ⟨a, none, some q.profile.fill, quad⟩
          output := []
          deniedSeen := true })))

/-- R10: the conditions under which a conflict at an address raises a read suspend request, x being the active
entry. -/
def Obligations.ReadConflictFillsAndMayRequest : Prop :=
  ∀ (row : Port → Addr → Instr) (quad : Bool) (p : Port) (a : Addr) (s : State),
    (row = .readArray ∧ quad = false) ∨ (row = .quadReadArray ∧ quad = true) → s.portReady p = true →
    s.readDenied p a = false → s.readConflict a = true →
    let filled := s.modifyPort p (fun q =>
      { q with
        frame := .readStream ⟨a, none, some q.profile.fill, quad⟩
        output := []
        conflictSeen := true
        latched := { q.latched with readConflict := true }
        postedSinceView := { q.postedSinceView with readConflict := true } })
    let requests := fun x : Entry =>
      s.engine = .busy ∧ (x.kind = .sectorErase ∨ x.kind = .blockErase) ∧ x.bank = some (bankOf a) ∧
      x.targetContains a.toNat = false ∧ (s.port p).profile.window ≠ 0 ∧
      x.effectiveClass ≤ (s.port p).profile.ceiling ∧ x.suspendCount < 16
    ((∀ x, s.activeEntry = some x → ¬requests x) → exec (row p a) s = .next filled) ∧
    (∀ i x, s.activeIndex = some i → s.queue[i]? = some x → requests x →
      exec (row p a) s = .next
        { filled with
          queue := s.queue.modify i (fun e => { e with state := .suspending })
          engine := .suspending
          noted := some (s.port p).profile.window })

/-- R11, R15, R141: a stream that holds a bank delivers the array byte at each address in turn, and its close releases
the bank and calls for a look. A close after a re-check point does what the row of that point does first. The bytes of
settled pages are those of the array; the others are free values (log 3). -/
def Obligations.StreamCloseDeliversAndReleases : Prop :=
  (∀ (p : Port) (n : Nat) (s : State) (st : ReadStream) (k : Fin 4),
    (s.port p).frame = .readStream st → st.fill = none → st.held = some k → n < s.bytesToRecheck st.current →
    exec (.readStreamClose p n) s = .next
      ({ s.modifyPort p (fun q =>
          { q with
            frame := .deselected
            output := q.output ++ (List.range n).map (fun j =>
              s.arrayByte (st.current + BitVec.ofNat 24 j) (s.freeIndex + j)) }) with
        holders := s.holders.set k (s.holders.get k - 1)
        freeIndex := s.freeIndex + n }.look)) ∧
  (∀ (p : Port) (n : Nat) (s t : State) (st : ReadStream), (s.port p).frame = .readStream st → st.fill = none →
    let d := s.bytesToRecheck st.current
    d ≤ n →
    exec (if s.bytesToTarget st.current = some d then .targetEntry p
      else if bankOf (st.current + BitVec.ofNat 24 d) = bankOf st.current then .blockCrossing p
      else .blockCrossingNewBank p) s = .next t →
    exec (.readStreamClose p n) s = exec (.readStreamClose p (n - d)) t) ∧
  (∀ (s : State) (a : Addr) (k : Nat), a.toNat / 256 ∉ s.unsettled → s.arrayByte a k = s.mem.read a.toNat)

/-- R11, R12, R13, R48: a block crossing that passes its checks. In the same bank the stream keeps its hold and no
count changes; into another bank the hold moves. That the look for the bank left comes after the stream has taken hold
of the new bank is the model's reading (log 10): R13 leaves the two without order, R48 puts a look last. A port with no
read stream has no re-check point; that the three rows then change nothing is the model's reading too (log 33). -/
def Obligations.CrossingsThatPass : Prop :=
  (∀ (p : Port) (s : State), (∀ st, (s.port p).frame ≠ .readStream st) →
    exec (.blockCrossing p) s = .next s ∧ exec (.blockCrossingNewBank p) s = .next s ∧
    exec (.targetEntry p) s = .next s) ∧
  ∀ (p : Port) (s : State) (st : ReadStream) (k : Fin 4),
    let d := bytesToBlockEnd st.current
    let a := st.current + BitVec.ofNat 24 d
    (s.port p).frame = .readStream st → st.fill = none → st.held = some k → k = bankOf st.current →
    s.bytesToRecheck st.current = d → s.readDenied p a = false → s.readConflict a = false →
    let walked := fun held : Fin 4 =>
      { s.modifyPort p (fun q =>
          { q with
            frame := .readStream ⟨a, some held, none, st.quad⟩
            output := q.output ++ (List.range d).map (fun j =>
              s.arrayByte (st.current + BitVec.ofNat 24 j) (s.freeIndex + j)) }) with
        freeIndex := s.freeIndex + d }
    (bankOf a = k → exec (.blockCrossing p) s = .next (walked k)) ∧
    (bankOf a ≠ k → exec (.blockCrossingNewBank p) s = .next
      ({ walked (bankOf a) with
        holders := (s.holders.set k (s.holders.get k - 1)).set (bankOf a) (s.holders.get (bankOf a) + 1) }.look))

/-- R9, R10, R12, R13: a stream that holds a bank and fails a check, at a block crossing or at the first byte of the
parked target, releases its bank and fills; a conflict can order the active erase to suspend. That the look for the
bank left comes after the check and the suspend order is the model's reading (log 10): R13 leaves them without order,
R48 puts a look last. -/
def Obligations.CrossingsThatFill : Prop :=
  ∀ (p : Port) (s : State) (st : ReadStream) (k : Fin 4) (row : Instr) (d : Nat),
    (s.port p).frame = .readStream st → st.fill = none → st.held = some k →
    let a := st.current + BitVec.ofNat 24 d
    (d = bytesToBlockEnd st.current ∧ s.bytesToRecheck st.current = d ∧
        row = (if bankOf a = bankOf st.current then .blockCrossing p else .blockCrossingNewBank p)) ∨
      (s.bytesToTarget st.current = some d ∧ d ≤ bytesToBlockEnd st.current ∧ row = .targetEntry p) →
    let filled := fun f : PortState → PortState =>
      { s.modifyPort p (fun q => f
          { q with
            frame := .readStream ⟨a, none, some q.profile.fill, st.quad⟩
            output := q.output ++ (List.range d).map (fun j =>
              s.arrayByte (st.current + BitVec.ofNat 24 j) (s.freeIndex + j)) }) with
        holders := s.holders.set k (s.holders.get k - 1)
        freeIndex := s.freeIndex + d }
    let conflict := filled (fun q =>
      { q with
        conflictSeen := true
        latched := { q.latched with readConflict := true }
        postedSinceView := { q.postedSinceView with readConflict := true } })
    let requests := fun x : Entry =>
      s.engine = .busy ∧ (x.kind = .sectorErase ∨ x.kind = .blockErase) ∧ x.bank = some (bankOf a) ∧
      x.targetContains a.toNat = false ∧ (s.port p).profile.window ≠ 0 ∧
      x.effectiveClass ≤ (s.port p).profile.ceiling ∧ x.suspendCount < 16
    (s.readDenied p a = true → exec row s = .next (filled (fun q => { q with deniedSeen := true })).look) ∧
    (s.readDenied p a = false → s.readConflict a = true →
      ((∀ x, s.activeEntry = some x → ¬requests x) → exec row s = .next conflict.look) ∧
      (∀ i x, s.activeIndex = some i → s.queue[i]? = some x → requests x →
        exec row s = .next
          { conflict with
            queue := s.queue.modify i (fun e => { e with state := .suspending })
            engine := .suspending
            noted := some (s.port p).profile.window }))

/-- R14, R15: a fill stream delivers its fill byte across every re-check point, with no check, no flag and no notice,
whatever the map and the engine have become; its close calls for a look and releases no bank. That its address goes
on stepping, so that the crossing rows occur on it, is the model's reading (log 22): R11 speaks of streams that are no
fill streams. That a stream which stands on the parked target's first byte has no target ahead is the model's choice (log
33). -/
def Obligations.FillStreamsOnlyFill : Prop :=
  ∀ (p : Port) (s : State) (st : ReadStream) (b : Byte),
    (s.port p).frame = .readStream st → st.fill = some b → st.held = none →
    let walked := fun d : Nat => s.modifyPort p (fun q =>
      { q with
        frame := .readStream { st with current := st.current + BitVec.ofNat 24 d }
        output := q.output ++ List.replicate d b })
    (∀ n, exec (.readStreamClose p n) s = .next (s.modifyPort p (fun q =>
      { q with frame := .deselected, output := q.output ++ List.replicate n b })).look) ∧
    (∀ d, d = bytesToBlockEnd st.current →
      exec (if bankOf (st.current + BitVec.ofNat 24 d) = bankOf st.current then .blockCrossing p
        else .blockCrossingNewBank p) s = .next (walked d)) ∧
    (∀ d, s.bytesToTarget st.current = some d → d ≤ bytesToBlockEnd st.current →
      exec (.targetEntry p) s = .next (walked d))

/-! ### Program Buffers -/

/-- R104, R105, R107: a taken LOAD BUFFER or LOAD BUFFER QUAD is decided by the first case of the table that applies;
an allocation takes the lowest-numbered FREE buffer, filled with FFh. -/
def Obligations.LoadDecidedByFirstCase : Prop :=
  ∀ (row : Port → Byte → Byte → List Byte → Instr) (p : Port) (h o : Byte) (data : List Byte) (s : State),
    row = .loadBuffer ∨ row = .loadBufferQuad → s.portReady p = true → data ≠ [] →
    let owned := s.mappedHandles p + s.queue.countP (fun e => decide (e.port = p ∧ e.kind = .program))
    (3 < h.toNat → exec (row p h o data) s = s.answers p .badParameter) ∧
    (h.toNat ≤ 3 →
      (∀ b, (s.port p).handle h = some b →
        exec (row p h o data) s = .next
          ((s.modifyBuffer b (fun u => { u with data := loadBytes u.data o.toNat data })).modifyPort p
            (fun q => { q with lastResponse := .ok }))) ∧
      ((s.port p).handle h = none →
        ((∀ u ∈ s.buffers, u.state ≠ .free) → exec (row p h o data) s = s.answers p .noBuffer) ∧
        (4 ≤ owned → exec (row p h o data) s = s.answers p .noBuffer) ∧
        (owned < 4 → ∀ b, (s.buffers[b]?).map (fun u => u.state) = some .free →
          (∀ c, c < b → (s.buffers[c]?).map (fun u => u.state) ≠ some .free) →
          exec (row p h o data) s = .next
            ((s.modifyBuffer b (fun _ => ⟨.filling, loadBytes (List.replicate 256 0xFF) o.toNat data⟩)).modifyPort p
              (fun q => { q with handles := q.handles.set h.toNat (some b), lastResponse := .ok })))))

/-- R106: byte i of the data of a LOAD goes to offset (offset + i) modulo 256; where an offset is reached more than
once the later byte stands, and an offset that is not reached keeps its byte. -/
def Obligations.LoadedBytesByOffset : Prop :=
  ∀ (buf data : List Byte) (o k : Nat), buf.length = 256 → k < 256 →
    (loadBytes buf o data).length = 256 ∧
    (∀ i, i < data.length → (o + i) % 256 = k → (∀ j, i < j → j < data.length → (o + j) % 256 ≠ k) →
      (loadBytes buf o data)[k]? = data[i]?) ∧
    ((∀ i, i < data.length → (o + i) % 256 ≠ k) → (loadBytes buf o data)[k]? = buf[k]?)

/-- R109: DISCARD BUFFER is decided by the first case of its table that applies. -/
def Obligations.DiscardDecidedByFirstCase : Prop :=
  ∀ (p : Port) (h : Byte) (s : State), s.portReady p = true →
    (3 < h.toNat → exec (.discardBuffer p h) s = s.answers p .badParameter) ∧
    (h.toNat ≤ 3 → (s.port p).handle h = none → exec (.discardBuffer p h) s = s.answers p .noHandle) ∧
    (h.toNat ≤ 3 → ∀ b, (s.port p).handle h = some b →
      exec (.discardBuffer p h) s = .next
        ((s.modifyBuffer b (fun u => { u with state := .free })).modifyPort p
          (fun q => { q with handles := q.handles.set h.toNat none, lastResponse := .ok })))

/-- R108: READ BUFFER delivers the mapped buffer's bytes from its offset on, wrapping from FFh to 00h, or 00h for a
handle that is above 3 or UNMAPPED, and changes nothing else. -/
def Obligations.ReadBufferDeliversItsBuffer : Prop :=
  (∀ (p : Port) (h o : Byte) (s : State), s.portReady p = true →
    exec (.readBuffer p (.fixed (h, o))) s = .next (s.modifyPort p (fun q =>
      { q with frame := .bufferStream ⟨if h.toNat ≤ 3 then (q.handles[h.toNat]?).join else none, o⟩ }))) ∧
  (∀ (p : Port) (n : Nat) (o : Byte) (b : Nat) (u : Buffer) (s : State),
    (s.port p).frame = .bufferStream ⟨some b, o⟩ → s.buffers[b]? = some u → u.data.length = 256 →
    ∃ bytes : List Byte,
      exec (.readBuffer p (.rise n)) s = .next (s.modifyPort p (fun q =>
        { q with frame := .deselected, output := bytes })) ∧
      bytes.length = n ∧ ∀ i, i < n → bytes[i]? = u.data[(o.toNat + i) % 256]?) ∧
  (∀ (p : Port) (n : Nat) (o : Byte) (s : State),
    (s.port p).frame = .bufferStream ⟨none, o⟩ →
    exec (.readBuffer p (.rise n)) s = .next (s.modifyPort p (fun q =>
      { q with frame := .deselected, output := List.replicate n 0 })))

/-! ### The Work Queue -/

/-- R24: a taken submission that fails a check answers the code of the first check that fails, and changes nothing
else. The block lookup presumes a map whose regions share no block (R75). -/
def Obligations.SubmissionRefusedByFirstCheck : Prop :=
  ∀ (p : Port) (h : Byte) (a : Addr) (tag cls : Byte) (r : Response) (s : State),
    s.portReady p = true → s.regionLaw = true →
    (firstHolds (s.programRefusals p h a tag cls) r → exec (.submitProgram p h a tag cls) s = s.answers p r) ∧
    (firstHolds (s.eraseRefusals p a tag cls) r →
      exec (.submitSectorErase p a tag cls) s = s.answers p r ∧
      exec (.submitBlockErase p a tag cls) s = s.answers p r)

/-- R18, R21, R27, R28, R110: a submission that passes every check appends its entry with the next arrival number and
its class capped at the port's ceiling; a PROGRAM binds its buffer and unmaps its handle. The look comes last. -/
def Obligations.SubmissionAcceptedAppendsItsEntry : Prop :=
  ∀ (p : Port) (h : Byte) (a : Addr) (tag cls : Byte) (i : Nat) (r : Region) (s : State),
    s.portReady p = true → s.regionLaw = true → s.blockInRegion (a.toNat / 65536) i r →
    let appended := fun (t : State) (kind : EntryKind) (target : Target) (buffer : Option Nat) =>
      { t with
        queue := s.queue ++ [⟨p, tag, kind, some target, some i, buffer, cls.toNat,
          min cls.toNat (s.port p).profile.ceiling, 0, .queued, false, 0, s.arrival⟩]
        arrival := s.arrival + 1 }
    let answered := fun t : State => t.look.modifyPort p (fun q => { q with lastResponse := .ok })
    (∀ b, (s.port p).handle h = some b → noneHolds (s.programRefusals p h a tag cls) →
      exec (.submitProgram p h a tag cls) s = .next (answered (appended
        ((s.modifyBuffer b (fun u => { u with state := .bound })).modifyPort p
          (fun q => { q with handles := q.handles.set h.toNat none }))
        .program (.page (a.toNat / 256)) (some b)))) ∧
    (noneHolds (s.eraseRefusals p a tag cls) →
      exec (.submitSectorErase p a tag cls) s =
        .next (answered (appended s .sectorErase (.sector (a.toNat / 4096)) none)) ∧
      exec (.submitBlockErase p a tag cls) s =
        .next (answered (appended s .blockErase (.block (a.toNat / 65536)) none)))

/-- R32, R34, R95, R160: CANCEL acts on the entry of its own port that carries the tag. The removal of a QUEUED
MAP_COMMIT also returns each FROZEN region to FREE and discards the commit image, and leaves the staged map, the
working map and the store as they were. -/
def Obligations.CancelDecidedByItsEntry : Prop :=
  (∀ (p : Port) (tag : Byte) (s : State), s.portReady p = true →
    ((∀ e ∈ s.queue, ¬(e.port = p ∧ e.tag = tag)) → exec (.cancel p tag) s = s.answers p .unknownTag) ∧
    (∀ (i : Nat) (e : Entry), s.queue[i]? = some e → e.port = p → e.tag = tag → s.tagLaw = true →
      (e.state ≠ .queued → exec (.cancel p tag) s = s.answers p .started) ∧
      (e.state = .queued → e.kind ≠ .mapCommit →
        let t := { s with queue := s.queue.eraseIdx i }.modifyPort p (fun q =>
          { q with
            completions := q.completions ++ [q.nextRecord e .cancelled]
            sequence := q.sequence + 1
            lastResponse := .ok })
        exec (.cancel p tag) s = .next (match e.buffer with
          | some b => t.modifyBuffer b (fun u => { u with state := .free })
          | none => t)))) ∧
  (∀ (p : Port) (tag : Byte) (i : Nat) (e : Entry) (s : State), s.portReady p = true →
    s.queue[i]? = some e → e.port = p → e.tag = tag → e.state = .queued → e.kind = .mapCommit → e.buffer = none →
    s.tagLaw = true → s.leaseLaw = true → s.regions.length = 16 →
    exec (.cancel p tag) s = .next
      ({ s with
        queue := s.queue.eraseIdx i
        commitImage := none
        regions := s.regions.map (Option.map Region.thawed) }.modifyPort p
        (fun q =>
          { q with
            completions := q.completions ++ [q.nextRecord e .cancelled]
            sequence := q.sequence + 1
            lastResponse := .ok })))

/-! ### The Scheduler and the Engine -/

/-- R35, R36, R52: what a start does. Each older QUEUED entry of lower class takes a bypass, the eighth of which
promotes it; the entry is RUNNING; its region's drain count rises; the engine is BUSY or BUSY_PARKED; a MAP_COMMIT
takes the mark from the slot it writes (R155), which is the one that is not current, or X where none is (R156, R167).
Nothing else changes. -/
def Obligations.StartAgesAndRuns : Prop :=
  ∀ (s : State) (i : Nat) (e : Entry), s.queue[i]? = some e → s.engine = .idle ∨ s.engine = .parked →
    let t := s.startEntry i
    let aged := fun f : Entry =>
      if f.state = .queued ∧ f.effectiveClass < e.effectiveClass then
        if f.bypass = 7 then { f with effectiveClass := f.effectiveClass + 1, bypass := 0 }
        else { f with bypass := f.bypass + 1 }
      else f
    t.queue = (s.queue.take i).map aged ++ { e with state := .running } :: s.queue.drop (i + 1) ∧
    t.engine = (if s.engine = .idle then .busy else .busyParked) ∧
    (∀ j, t.region j = (s.region j).map (fun r =>
      if e.region = some j then { r with lease := { r.lease with drain := r.lease.drain + 1 } } else r)) ∧
    (∀ n, t.slot n = if e.kind = .mapCommit ∧ n = (if s.currentSlot = some .x then .y else .x)
      then { s.slot n with mark := false } else s.slot n) ∧
    { t with
      queue := s.queue
      engine := s.engine
      regions := s.regions
      slotX := s.slotX
      slotY := s.slotY } = s

/-- R48 to R51, R60, R65, R68: what a look does. In IDLE it starts the eligible entry of the highest class, the first
in arrival order among them. In PARKED it starts such an entry among the eligible PROGRAM and MAP_COMMIT entries of a
class strictly above the parked erase's; failing that, it resumes the erase when the window is closed, the supply is
NORMAL and no reader holds the erase's bank. In BUSY it orders a running erase to suspend exactly when its suspend
count is below 16 and an eligible PROGRAM of strictly higher class is queued for a page outside its target. Otherwise
it changes nothing. -/
def Obligations.LookStartsResumesOrSuspends : Prop :=
  (∀ s : State,
    let chosen := fun (ok : Entry → Prop) (i : Nat) => ∃ e, s.queue[i]? = some e ∧ ok e ∧
      ∀ j f, s.queue[j]? = some f → ok f →
        f.effectiveClass ≤ e.effectiveClass ∧ (j < i → f.effectiveClass < e.effectiveClass)
    let fit := fun e : Entry => e.state = .queued ∧ s.supply = .normal ∧
      (∀ k, e.bank = some k → s.holders.get k = 0) ∧
      (∀ x, s.parkedErase = some x → e.kind ≠ .sectorErase ∧ e.kind ≠ .blockErase ∧
        (e.kind = .program → e.targetInside x = false))
    (s.engine = .idle →
      (∀ i, chosen fit i → s.look = s.startEntry i) ∧ ((∀ e ∈ s.queue, ¬fit e) → s.look = s)) ∧
    (∀ x, s.engine = .parked → s.parkedErase = some x → (x.kind = .sectorErase ∨ x.kind = .blockErase) →
      let above := fun e : Entry => fit e ∧ x.effectiveClass < e.effectiveClass
      let resumes := s.window = none ∧ s.supply = .normal ∧ ∀ k, x.bank = some k → s.holders.get k = 0
      (∀ i, chosen above i → s.look = s.startEntry i) ∧
      ((∀ e ∈ s.queue, ¬above e) →
        (¬resumes → s.look = s) ∧
        (resumes → ∀ i, s.parkedIndex = some i →
          s.look = { s with queue := s.queue.modify i (fun e => { e with state := .running }), engine := .busy }))) ∧
    (s.engine = .suspending ∨ s.engine = .busyParked → s.look = s)) ∧
  (∀ (s : State) (i : Nat) (x : Entry), s.engine = .busy → s.activeIndex = some i → s.queue[i]? = some x →
    let presses := (x.kind = .sectorErase ∨ x.kind = .blockErase) ∧ x.suspendCount < 16 ∧
      ∃ e ∈ s.queue, e.kind = .program ∧ e.state = .queued ∧ s.supply = .normal ∧
        (∀ k, e.bank = some k → s.holders.get k = 0) ∧ x.effectiveClass < e.effectiveClass ∧ e.targetInside x = false
    (presses → s.look =
      { s with queue := s.queue.modify i (fun e => { e with state := .suspending }), engine := .suspending }) ∧
    (¬presses → s.look = s))

/-- R56, R57, R58, R81, R82, R111: the end of a PROGRAM or an erase, before its look: the entry leaves, its buffer is
FREE, its region counts it down and is granted when it was DRAINING and the count reached 0, its record is posted
unless it is orphaned, and the engine moves; a suspend order and a noted request are void. No other notice is posted or
cleared, nor does what R127 remembers of the postings change. What the end leaves in the array is `ArrayAfterAnEnd`. -/
def Obligations.OperationEndLeavesAndReports : Prop :=
  ∀ (s : State) (i : Nat) (e : Entry) (outcome : EndOutcome),
    s.stopping = [] → s.activeIndex = some i → s.queue[i]? = some e → e.kind ≠ .mapCommit →
    let status : Status :=
      if outcome = .done then .done else if e.kind = .program then .programFailed else .eraseFailed
    let granted := fun q : Port => ∃ j r ws, e.region = some j ∧ s.region j = some r ∧ r.lease.state = .draining ∧
      r.lease.drain ≤ 1 ∧ r.lease.waiters = q :: ws
    ∃ u : State, exec (.operationEnd outcome) s = .next u.look ∧
      u.queue = s.queue.eraseIdx i ∧
      u.engine = (if s.engine = .busyParked then .parked else .idle) ∧
      u.noted = (if s.engine = .suspending then none else s.noted) ∧
      u.buffers = (match e.buffer with
        | some b => s.buffers.modify b (fun x => { x with state := .free })
        | none => s.buffers) ∧
      (∀ j, u.region j = (s.region j).map (fun r =>
        if e.region = some j then { r with lease := r.entryEnded } else r)) ∧
      (∀ q, (u.port q).completions = (s.port q).completions ++
          (if q = e.port ∧ e.orphaned = false then [(s.port q).nextRecord e status] else []) ∧
        (u.port q).sequence = (s.port q).sequence + (if q = e.port ∧ e.orphaned = false then 1 else 0) ∧
        (s.port q).posted (u.port q) (fun k => k = .leaseGranted ∧ granted q) ∧
        { u.port q with
          completions := (s.port q).completions
          sequence := (s.port q).sequence
          latched := (s.port q).latched
          postedSinceView := (s.port q).postedSinceView } = s.port q) ∧
      { u with
        queue := s.queue
        engine := s.engine
        noted := s.noted
        buffers := s.buffers
        regions := s.regions
        ports := s.ports
        mem := s.mem
        unsettled := s.unsettled } = s

/-- R2, R3, R4: what the end of a PROGRAM or an erase leaves in the array, address by address and page by page. A failed
target is unsettled; that its stored bytes stay is the model's form of it, which no host can observe (log 3). -/
def Obligations.ArrayAfterAnEnd : Prop :=
  ∀ (s : State) (i : Nat) (e : Entry) (tg : Target),
    s.stopping = [] → s.activeIndex = some i → s.queue[i]? = some e → e.kind ≠ .mapCommit → e.target = some tg →
    e.targetLaw = true → s.mem.wf = true →
    let inside := fun a : Nat => tg.first ≤ a ∧ a < tg.first + tg.size
    (∀ b u, e.kind = .program → e.buffer = some b → s.buffers[b]? = some u → u.data.length = 256 →
      ∃ t, exec (.operationEnd .done) s = .next t ∧
        (∀ a, inside a → t.mem.read a = s.mem.read a &&& u.data.getD (a - tg.first) 0) ∧
        (∀ a, ¬inside a → t.mem.read a = s.mem.read a) ∧ t.unsettled = s.unsettled) ∧
    (e.kind = .sectorErase ∨ e.kind = .blockErase →
      ∃ t, exec (.operationEnd .done) s = .next t ∧
        (∀ a, inside a → t.mem.read a = 0xFF) ∧ (∀ a, ¬inside a → t.mem.read a = s.mem.read a) ∧
        (∀ n, n ∈ t.unsettled ↔ n ∈ s.unsettled ∧ ¬inside (n * 256))) ∧
    (∃ t, exec (.operationEnd .failed) s = .next t ∧ t.mem = s.mem ∧
      (∀ n, n ∈ t.unsettled ↔ n ∈ s.unsettled ∨ inside (n * 256)))

/-- R63: the suspend point of an erase, in its four steps; the look comes last. Before the look no bank is active and
the parked target is the erase's target. -/
def Obligations.SuspendPointParksTheErase : Prop :=
  ∀ (s : State) (i : Nat), s.stopping = [] → s.engine = .suspending → s.activeIndex = some i →
    let parked :=
      { s with
        queue := s.queue.modify i (fun e => { e with state := .suspended, suspendCount := e.suspendCount + 1 })
        engine := .parked
        window := if s.noted = none then s.window else s.noted
        noted := none }
    exec .suspendPoint s = .next parked.look ∧ parked.activeBank = none ∧
    (s.engineLaw = true → ∀ e, s.queue[i]? = some e → parked.parkedTarget = e.target)

/-- R66: a step of the open read window lowers its remaining time by one, and the step that brings it to 0 closes the
window and is followed by a look. That the closing has a row of its own, which is that same step, and that both rows
are refused while the window is closed, is the model's reading (logs 12 and 13). -/
def Obligations.ReadWindowCountsDown : Prop :=
  ∀ s : State,
    (∀ w, s.window = some w → 1 < w → exec .readWindowStep s = .next { s with window := some (w - 1) } ∧
      exec .readWindowClose s = .refused .windowNotEnding) ∧
    (s.window = some 1 → exec .readWindowStep s = .next { s with window := none }.look ∧
      exec .readWindowClose s = .next { s with window := none }.look) ∧
    (s.window = none → exec .readWindowStep s = .refused .windowClosed ∧
      exec .readWindowClose s = .refused .windowClosed)

/-! ### Regions and write leases -/

/-- R83, R84, R86: CLAIM REGION is decided by the first case of its table that applies. RENEW LEASE sets remaining back to
the lease limit for the holder, and changes nothing for anyone else. -/
def Obligations.ClaimAndRenewDecided : Prop :=
  (∀ (p : Port) (index : Byte) (s : State), s.portReady p = true →
    (15 < index.toNat ∨ s.region index.toNat = none →
      exec (.claimRegion p index) s = s.answers p .undefinedRegion) ∧
    (∀ r, index.toNat ≤ 15 → s.region index.toNat = some r →
      (r.definition.writeMask.has p = false → exec (.claimRegion p index) s = s.answers p .noPermission) ∧
      (r.definition.writeMask.has p = true →
        (r.lease.state = .frozen → exec (.claimRegion p index) s = s.answers p .mapPending) ∧
        (r.lease.state ≠ .frozen → r.lease.holder = some p ∨ p ∈ r.lease.waiters →
          exec (.claimRegion p index) s = s.answers p .ok) ∧
        (r.lease.holder ≠ some p → p ∉ r.lease.waiters →
          let joins := (s.modifyLease index.toNat (fun l => { l with waiters := l.waiters ++ [p] })).answers p .waiting
          (r.lease.state = .free → exec (.claimRegion p index) s = .next
            ((s.modifyLease index.toNat (fun l =>
              { l with state := .held, holder := some p, remaining := r.definition.limit.toNat })).modifyPort p (fun q =>
              { q with
                latched := { q.latched with leaseGranted := true }
                postedSinceView := { q.postedSinceView with leaseGranted := true }
                lastResponse := .ok }))) ∧
          (r.lease.state = .held → exec (.claimRegion p index) s = joins) ∧
          (r.lease.state = .draining → r.lease.waiters.length < 2 → exec (.claimRegion p index) s = joins) ∧
          (r.lease.state = .draining → 2 ≤ r.lease.waiters.length →
            exec (.claimRegion p index) s = s.answers p .notHolder))))) ∧
  (∀ (p : Port) (index : Byte) (s : State), s.portReady p = true →
    (15 < index.toNat ∨ s.region index.toNat = none →
      exec (.renewLease p index) s = s.answers p .undefinedRegion) ∧
    (∀ r, index.toNat ≤ 15 → s.region index.toNat = some r →
      (r.lease.holder = some p → exec (.renewLease p index) s =
        (s.modifyLease index.toNat (fun l => { l with remaining := r.definition.limit.toNat })).answers p .ok) ∧
      (r.lease.holder ≠ some p → exec (.renewLease p index) s = s.answers p .notHolder)))

/-- R88, R80: RELEASE REGION is decided by the first case of its table that applies. A holder's release leaves the
region DRAINING while started work is in flight; otherwise the grant step hands it to the head waiter, with
LEASE_GRANTED, or leaves it FREE. -/
def Obligations.ReleaseDecidedByFirstCase : Prop :=
  ∀ (p : Port) (index : Byte) (s : State), s.portReady p = true →
    (15 < index.toNat ∨ s.region index.toNat = none →
      exec (.releaseRegion p index) s = s.answers p .undefinedRegion) ∧
    (∀ r, index.toNat ≤ 15 → s.region index.toNat = some r →
      let ended := s.modifyLease index.toNat (fun _ => r.leaseEnded)
      (p ∈ r.lease.waiters → exec (.releaseRegion p index) s =
        (s.modifyLease index.toNat (fun l => { l with waiters := l.waiters.erase p })).answers p .ok) ∧
      (p ∉ r.lease.waiters → r.lease.holder = some p →
        ((∃ e ∈ s.queue, e.state = .queued ∧ e.port = p ∧ e.region = some index.toNat) →
          exec (.releaseRegion p index) s = s.answers p .pendingWork) ∧
        ((∀ e ∈ s.queue, ¬(e.state = .queued ∧ e.port = p ∧ e.region = some index.toNat)) →
          (0 < r.lease.drain ∨ r.lease.waiters = [] → exec (.releaseRegion p index) s = ended.answers p .ok) ∧
          (∀ w ws, r.lease.drain = 0 → r.lease.waiters = w :: ws → exec (.releaseRegion p index) s =
            (ended.modifyPort w (fun q =>
              { q with
                latched := { q.latched with leaseGranted := true }
                postedSinceView := { q.postedSinceView with leaseGranted := true } })).answers p .ok))) ∧
      (p ∉ r.lease.waiters → r.lease.holder ≠ some p →
        exec (.releaseRegion p index) s = s.answers p .notHolder))

/-- R90, R91, R92, R93, R116, R117: a tick counts every HELD region with a nonzero lease limit down by one, warns the
holder at the warning point, and ends the lease whose remaining reaches 0: the holder's QUEUED entries there leave, each
with its buffer FREE and a LEASE_LOST record, region by region and oldest first; LEASE_LOST is posted to the holder and
LEASE_GRANTED to the waiter that the region goes to. Nothing else changes. -/
def Obligations.LeaseTickCountsDown : Prop :=
  ∀ s : State, s.leaseClock = true → s.regions.length = 16 →
    ∃ t, exec .leaseTick s = .next t ∧
      (∀ i, t.region i = (s.region i).map (fun r => { r with lease := r.ticked })) ∧
      t.queue = s.queue.filter (fun e => !s.losesEntry e) ∧
      (∀ b, t.buffers[b]? = (s.buffers[b]?).map (fun u =>
        if ∃ e ∈ s.queue, s.losesEntry e = true ∧ e.buffer = some b then { u with state := .free } else u)) ∧
      (∀ p, (t.port p).completions =
          (s.port p).completions ++ (s.port p).nextRecords (s.lostAtTick p) .leaseLost ∧
        (t.port p).sequence = (s.port p).sequence + BitVec.ofNat 16 (s.lostAtTick p).length ∧
        (s.port p).posted (t.port p) (fun k =>
          k = .leaseLost ∧ s.someLease p Region.expires = true ∨
          k = .leaseWarning ∧ s.someLease p Region.warns = true ∨
          k = .leaseGranted ∧ ∃ i r ws, s.region i = some r ∧ r.expires = true ∧ r.lease.drain = 0 ∧
            r.lease.waiters = p :: ws) ∧
        { t.port p with
          completions := (s.port p).completions
          sequence := (s.port p).sequence
          latched := (s.port p).latched
          postedSinceView := (s.port p).postedSinceView } = s.port p) ∧
      { t with queue := s.queue, regions := s.regions, buffers := s.buffers, ports := s.ports } = s

/-- R38, R91, R93, R116, R117: the expiry of one lease: the holder's QUEUED entries in the region leave, oldest first,
each with a LEASE_LOST record and its buffer FREE; LEASE_LOST is posted to the holder; the region drains, or is granted
to the head waiter with LEASE_GRANTED. Nothing else changes. That LEASE_EXPIRY is the countdown step of one region that
brings its remaining to 0 is the model's reading (log 11). -/
def Obligations.LeaseExpiryRemovesQueuedWork : Prop :=
  ∀ (s : State) (i : Fin 16) (r : Region) (p : Port),
    s.leaseClock = true → s.region i.val = some r → r.lease.holder = some p → r.expires = true →
    let gone := fun e : Entry => decide (e.state = .queued ∧ e.port = p ∧ e.region = some i.val)
    let lost := s.queue.filter gone
    ∃ t, exec (.leaseExpiry i) s = .next t ∧
      t.queue = s.queue.filter (fun e => !gone e) ∧
      (∀ b, t.buffers[b]? = (s.buffers[b]?).map (fun u =>
        if ∃ e ∈ lost, e.buffer = some b then { u with state := .free } else u)) ∧
      (∀ j, t.region j = (s.region j).map (fun x => if j = i.val then { x with lease := r.leaseEnded } else x)) ∧
      (∀ q, (t.port q).completions = (s.port q).completions ++
          (if q = p then (s.port q).nextRecords lost .leaseLost else []) ∧
        (t.port q).sequence = (s.port q).sequence + BitVec.ofNat 16 (if q = p then lost.length else 0) ∧
        (s.port q).posted (t.port q) (fun k =>
          k = .leaseLost ∧ q = p ∨ k = .leaseGranted ∧ r.lease.drain = 0 ∧ r.lease.waiters.head? = some q) ∧
        { t.port q with
          completions := (s.port q).completions
          sequence := (s.port q).sequence
          latched := (s.port q).latched
          postedSinceView := (s.port q).postedSinceView } = s.port q) ∧
      { t with queue := s.queue, regions := s.regions, buffers := s.buffers, ports := s.ports } = s

/-! ### Completion Queues, notices and Peer Mailboxes -/

/-- R119, R120, R132, R188: POP COMPLETION shows the head record or the empty record, READ MAILBOX the sending port's
code and the value or 00h and 00h; each answers OK at its take. The head leaves when the view was a record and all
eight bytes were clocked out; the mailbox is emptied when the view was full and both bytes were clocked out. -/
def Obligations.PopAndMailboxEmptyWhenRead : Prop :=
  ((∀ (p : Port) (s : State), s.portReady p = true →
    exec (.popCompletion p (.fixed ())) s = .next (s.modifyPort p (fun q =>
      { q with frame := .dataOut (.completion q.completions.head?) }))) ∧
  (∀ (p : Port) (n : Nat) (head : Option CompletionRecord) (s : State),
    (s.port p).frame = .dataOut (.completion head) →
    exec (.popCompletion p (.rise n)) s = .next (s.modifyPort p (fun q =>
      { q with
        frame := .deselected
        output := (recordBytes head ++ List.replicate n 0).take n
        lastResponse := .ok
        completions := if head ≠ none ∧ 8 ≤ n then q.completions.drop 1 else q.completions })))) ∧
  ((∀ (p : Port) (s : State), s.portReady p = true →
    exec (.readMailbox p (.fixed ())) s = .next (s.modifyPort p (fun q =>
      { q with frame := .dataOut (.mailbox q.mailbox) }))) ∧
  (∀ (p : Port) (n : Nat) (content : Option Signal) (s : State),
    (s.port p).frame = .dataOut (.mailbox content) →
    exec (.readMailbox p (.rise n)) s = .next (s.modifyPort p (fun q =>
      { q with
        frame := .deselected
        output := ((match content with
          | some x => [byteOf x.sender.code, x.value]
          | none => [0, 0]) ++ List.replicate n 0).take n
        lastResponse := .ok
        mailbox := if content ≠ none ∧ 2 ≤ n then none else q.mailbox }))))

/-- R122, R124, R126, R127: READ NOTICES shows the pending and the enable set and its take answers OK. When the first
byte was clocked out, a latched kind is cleared exactly when the view showed it and it was not posted again since. -/
def Obligations.NoticesClearWhatTheyReported : Prop :=
  (∀ (p : Port) (s : State), s.portReady p = true →
    exec (.readNotices p (.fixed ())) s = .next (s.modifyPort p (fun q =>
      { q with
        frame := .dataOut (.notices { q.latched with completion := decide (q.completions ≠ []) } q.enables)
        postedSinceView := .none }))) ∧
  (∀ (p : Port) (n : Nat) (shown enables : NoticeFlags) (s : State),
    (s.port p).frame = .dataOut (.notices shown enables) →
    ∃ left : NoticeFlags,
      exec (.readNotices p (.rise n)) s = .next (s.modifyPort p (fun q =>
        { q with
          frame := .deselected
          output := ([shown.toByte, enables.toByte] ++ List.replicate n 0).take n
          lastResponse := .ok
          latched := left })) ∧
      ∀ k, left.get k = ((s.port p).latched.get k &&
        !(decide (1 ≤ n) && shown.get k && !(s.port p).postedSinceView.get k)))

/-- R125, R128, R188: SET NOTICE ENABLES replaces the whole enable set, bit by bit, and changes no pending flag; and a
port's ALERT# is low exactly while some kind is both pending and enabled, COMPLETION being pending exactly while the
Completion Queue holds a record. -/
def Obligations.EnablesReplacedAndAlertFollows : Prop :=
  (∀ (p : Port) (b : Byte) (s : State), s.portReady p = true →
    exec (.setNoticeEnables p b) s = .next (s.modifyPort p (fun q =>
      { q with
        enables :=
          { completion := b.getLsbD 0, leaseGranted := b.getLsbD 1, leaseLost := b.getLsbD 2,
            leaseWarning := b.getLsbD 3, readConflict := b.getLsbD 4, mapChanged := b.getLsbD 5,
            peerSignal := b.getLsbD 6, deviceEvent := b.getLsbD 7 }
        lastResponse := .ok }))) ∧
  (∀ (s : State) (p : Port), s.alertLow p = true ↔
    ((s.port p).completions ≠ [] ∧ (s.port p).enables.completion = true) ∨
    ∃ k : NoticeKind, k ≠ .completion ∧ (s.port p).latched.get k = true ∧ (s.port p).enables.get k = true)

/-- R130: SIGNAL PORT is decided by the first case of its table that applies. -/
def Obligations.SignalDecidedByFirstCase : Prop :=
  ∀ (p : Port) (target value : Byte) (s : State), s.portReady p = true →
    (target.toNat = 0 ∨ 3 < target.toNat ∨ target.toNat = p.code →
      exec (.signalPort p target value) s = s.answers p .badParameter) ∧
    (∀ d, target.toNat = d.code → d ≠ p →
      (∀ x, (s.port d).mailbox = some x → exec (.signalPort p target value) s = s.answers p .mailboxFull) ∧
      ((s.port d).mailbox = none → exec (.signalPort p target value) s =
        (s.modifyPort d (fun q =>
          { q with
            mailbox := some ⟨p, value⟩
            latched := { q.latched with peerSignal := true }
            postedSinceView := { q.postedSinceView with peerSignal := true } })).answers p .ok))

/-! ### Region Map and Configuration Store -/

/-- R161, R164: MAP STAGE BEGIN and MAP DISCARD are decided by the first case of their tables that applies; READ STATUS
shows STAGE_PRESENT clear once the staged map is absent. -/
def Obligations.StageBegunAndDiscarded : Prop :=
  ∀ (p : Port) (s : State), s.portReady p = true →
    (s.authority ≠ some p →
      exec (.mapStageBegin p) s = s.answers p .notAuthority ∧ exec (.mapDiscard p) s = s.answers p .notAuthority) ∧
    (s.authority = some p → (∃ e ∈ s.queue, e.kind = .mapCommit) →
      exec (.mapStageBegin p) s = s.answers p .mapPending ∧ exec (.mapDiscard p) s = s.answers p .mapPending) ∧
    (s.authority = some p → (∀ e ∈ s.queue, e.kind ≠ .mapCommit) →
      exec (.mapStageBegin p) s =
        { s with
          staged := some ⟨s.authority, s.regions.map (Option.map (fun r : Region => r.definition)),
            ⟨(s.port .a).profile, (s.port .b).profile, (s.port .c).profile⟩⟩ }.answers p .ok ∧
      exec (.mapDiscard p) s = { s with staged := none }.answers p .ok ∧
      ∀ q : Port, (((({ s with staged := none } : State).statusView q)[7]?).getD 0).toNat / 16 % 2 = 0)

/-- R162, R163, R185: each of the three edits is decided by the first case of its table that applies; an accepted
edit replaces the named part of the staged map. -/
def Obligations.EditsDecidedByFirstCase : Prop :=
  ∀ (p : Port) (s : State), s.portReady p = true →
    (∀ (index defined first last rm wm limit : Byte) (r : Response),
      firstHolds (s.editRefusals p ++
        [(15 < index.toNat ∨ 1 < defined.toNat ∨ 7 < rm.toNat ∨ 7 < wm.toNat, .badParameter)]) r →
      exec (.mapStageRegion p index defined first last rm wm limit) s = s.answers p r) ∧
    (∀ (index defined first last rm wm limit : Byte) (m : MapImage),
      noneHolds (s.editRefusals p) → s.staged = some m → index.toNat ≤ 15 → rm.toNat ≤ 7 → wm.toNat ≤ 7 →
      (defined = 1 → exec (.mapStageRegion p index defined first last rm wm limit) s =
        { s with staged := some { m with regions := m.regions.set index.toNat (some
          ⟨first, last, ⟨rm.getLsbD 0, rm.getLsbD 1, rm.getLsbD 2⟩, ⟨wm.getLsbD 0, wm.getLsbD 1, wm.getLsbD 2⟩,
            limit⟩) } }.answers p .ok) ∧
      (defined = 0 → exec (.mapStageRegion p index defined first last rm wm limit) s =
        { s with staged := some { m with regions := m.regions.set index.toNat none } }.answers p .ok)) ∧
    (∀ (code ceiling window fill : Byte) (r : Response),
      firstHolds (s.editRefusals p ++
        [(code.toNat = 0 ∨ 3 < code.toNat ∨ 3 < ceiling.toNat ∨ 15 < window.toNat, .badParameter)]) r →
      exec (.mapStageProfile p code ceiling window fill) s = s.answers p r) ∧
    (∀ (code ceiling window fill : Byte) (m : MapImage) (d : Port),
      noneHolds (s.editRefusals p) → s.staged = some m → code.toNat = d.code → ceiling.toNat ≤ 3 →
      window.toNat ≤ 15 → exec (.mapStageProfile p code ceiling window fill) s =
        { s with staged := some { m with
          profiles := m.profiles.set d ⟨ceiling.toNat, window.toNat, fill⟩ } }.answers p .ok) ∧
    (∀ (code : Byte) (r : Response),
      firstHolds (s.editRefusals p ++ [(3 < code.toNat, .badParameter)]) r →
      exec (.mapStageAuthority p code) s = s.answers p r) ∧
    (∀ (code : Byte) (m : MapImage) (d : Option Port),
      noneHolds (s.editRefusals p) → s.staged = some m → code.toNat = Port.codeOf d →
      exec (.mapStageAuthority p code) s = { s with staged := some { m with authority := d } }.answers p .ok)

/-- R165, R166, R31, R94: MAP COMMIT answers the code of the first check that fails, and changes nothing else; when
none fails, the commit image is the staged map, each changed region is FROZEN, and the entry is appended with both
classes at the port's ceiling. The look comes last. -/
def Obligations.CommitRefusedOrAppended : Prop :=
  ∀ (p : Port) (tag : Byte) (s : State), s.portReady p = true → s.regions.length = 16 →
    (∀ r, firstHolds (s.commitRefusals p tag) r → exec (.mapCommit p tag) s = s.answers p r) ∧
    (∀ m, s.staged = some m → noneHolds (s.commitRefusals p tag) →
      ∃ u : State,
        exec (.mapCommit p tag) s = .next (u.look.modifyPort p (fun q => { q with lastResponse := .ok })) ∧
        { u with regions := s.regions } =
          { s with
            commitImage := some m
            queue := s.queue ++ [⟨p, tag, .mapCommit, none, none, none, (s.port p).profile.ceiling,
              (s.port p).profile.ceiling, 0, .queued, false, 0, s.arrival⟩]
            arrival := s.arrival + 1 } ∧
        (∀ i r, s.changedBy m i → s.region i = some r →
          u.region i = some { r with lease := { r.lease with state := .frozen } }) ∧
        (∀ i, ¬s.changedBy m i → u.region i = s.region i))

/-- R56, R95, R117, R156, R168, R169: the end of a MAP_COMMIT, before its look. DONE: the slot it wrote is whole, valid
and current with the next generation; the Region Table, the profiles and the authority are those of the commit image;
the staged map is gone; MAP_DEFAULTED is clear; MAP_CHANGED is posted to every port. MAP_WRITE_FAILED: every FROZEN
region is FREE again with its old definition, and the working map, the slots, the staged map and MAP_DEFAULTED are left
as they were. The slot written is the one that is not current, or X where none is. Either way the entry leaves, its record
takes the port's next number unless it is orphaned, the engine moves, and nothing else changes. That the invalid slot of
a failed write keeps its image and generation is the model's choice, which no host can observe (log 24). -/
def Obligations.CommitEndAppliesOrKeepsTheMap : Prop :=
  (∀ (s : State) (i : Nat) (e : Entry) (m : MapImage),
    s.stopping = [] → s.activeIndex = some i → s.queue[i]? = some e → e.kind = .mapCommit → e.target = none →
    e.buffer = none → s.commitImage = some m →
    let written : SlotName := if s.currentSlot = some .x then .y else .x
    ∃ u : State, exec (.operationEnd .done) s = .next u.look ∧
      u.queue = s.queue.eraseIdx i ∧ u.currentSlot = some written ∧
      u.generation = s.generation + 1 ∧
      (∀ n, u.slot n = if n = written then ⟨m, s.generation + 1, true⟩ else s.slot n) ∧
      (∀ j, j < 16 → u.region j = committedRegion (s.region j) (m.regions[j]?).join) ∧
      u.authority = m.authority ∧ (∀ q, (u.port q).profile = m.profiles.get q) ∧
      u.staged = none ∧ u.commitImage = none ∧ u.mapDefaulted = false ∧
      (∀ q, (u.port q).completions = (s.port q).completions ++
          (if q = e.port ∧ e.orphaned = false then [(s.port q).nextRecord e .done] else []) ∧
        (u.port q).sequence = (s.port q).sequence + (if q = e.port ∧ e.orphaned = false then 1 else 0) ∧
        (s.port q).posted (u.port q) (fun k => k = .mapChanged) ∧
        { u.port q with
          profile := (s.port q).profile
          completions := (s.port q).completions
          sequence := (s.port q).sequence
          latched := (s.port q).latched
          postedSinceView := (s.port q).postedSinceView } = s.port q) ∧
      u.engine = (if s.engine = .busyParked then .parked else .idle) ∧
      u.noted = (if s.engine = .suspending then none else s.noted) ∧
      { u with
        queue := s.queue
        currentSlot := s.currentSlot
        generation := s.generation
        slotX := s.slotX
        slotY := s.slotY
        regions := s.regions
        authority := s.authority
        ports := s.ports
        staged := s.staged
        commitImage := s.commitImage
        mapDefaulted := s.mapDefaulted
        engine := s.engine
        noted := s.noted } = s) ∧
  (∀ (s : State) (i : Nat) (e : Entry),
    s.stopping = [] → s.activeIndex = some i → s.queue[i]? = some e → e.kind = .mapCommit → e.target = none →
    e.buffer = none → s.leaseLaw = true → s.regions.length = 16 →
    ∃ u : State, exec (.operationEnd .failed) s = .next u.look ∧
      u.queue = s.queue.eraseIdx i ∧ u.regions = s.regions.map (Option.map Region.thawed) ∧
      u.commitImage = none ∧
      (∀ q, (u.port q).completions = (s.port q).completions ++
          (if q = e.port ∧ e.orphaned = false then [(s.port q).nextRecord e .mapWriteFailed] else []) ∧
        (u.port q).sequence = (s.port q).sequence + (if q = e.port ∧ e.orphaned = false then 1 else 0) ∧
        { u.port q with completions := (s.port q).completions, sequence := (s.port q).sequence } = s.port q) ∧
      u.engine = (if s.engine = .busyParked then .parked else .idle) ∧
      u.noted = (if s.engine = .suspending then none else s.noted) ∧
      { u with
        queue := s.queue
        regions := s.regions
        commitImage := s.commitImage
        ports := s.ports
        engine := s.engine
        noted := s.noted } = s)

/-! ### PORT RESET, supply, RESET# and start-up -/

/-- R39, R40, R96, R112, R133, R147, R151, R152, R171: what PORT RESET makes of its port, of the queue and of the
regions. Of another port only pending flags change: LEASE_GRANTED, where a region of this port's lease goes to it. The
engine and the rest stay. -/
def Obligations.PortResetClearsItsPort : Prop :=
  ∀ (p : Port) (s : State), s.portReady p = true → s.regions.length = 16 → s.leaseLaw = true →
    ∃ t, exec (.portReset p) s = .next t ∧
      t.queue = (s.queue.filter (fun e => decide (¬(e.port = p ∧ e.state = .queued)))).map (fun e =>
        if e.port = p then { e with orphaned := true } else e) ∧
      (t.port p).lastResponse = .ok ∧ (t.port p).conflictSeen = false ∧ (t.port p).deniedSeen = false ∧
      (t.port p).handles = (s.port p).handles.map (fun _ => none) ∧
      (t.port p).completions = [] ∧ (t.port p).sequence = 0 ∧ (t.port p).latched = .none ∧
      (t.port p).enables = .all ∧ (t.port p).mailbox = none ∧
      { t.port p with
        lastResponse := (s.port p).lastResponse
        conflictSeen := (s.port p).conflictSeen
        deniedSeen := (s.port p).deniedSeen
        handles := (s.port p).handles
        completions := (s.port p).completions
        sequence := (s.port p).sequence
        latched := (s.port p).latched
        postedSinceView := (s.port p).postedSinceView
        enables := (s.port p).enables
        mailbox := (s.port p).mailbox } = s.port p ∧
      (∀ b, t.buffers[b]? = (s.buffers[b]?).map (fun u =>
        if some b ∈ (s.port p).handles ∨ ∃ e ∈ s.queue, e.port = p ∧ e.state = .queued ∧ e.buffer = some b
        then { u with state := .free } else u)) ∧
      (∀ i, t.region i = (s.region i).map (fun r =>
        let waiting := { r with lease := { r.lease with waiters := r.lease.waiters.erase p } }
        if r.lease.holder = some p then { r with lease := waiting.leaseEnded }
        else if ∃ e ∈ s.queue, e.port = p ∧ e.state = .queued ∧ e.kind = .mapCommit then waiting.thawed
        else waiting)) ∧
      t.staged = (if s.authority = some p then none else s.staged) ∧
      t.commitImage = (if ∃ e ∈ s.queue, e.port = p ∧ e.state = .queued ∧ e.kind = .mapCommit then none
        else s.commitImage) ∧
      (∀ q, q ≠ p →
        (s.port q).posted (t.port q) (fun k => k = .leaseGranted ∧
          ∃ i r ws, s.region i = some r ∧ r.lease.holder = some p ∧ r.lease.drain = 0 ∧
            r.lease.waiters.erase p = q :: ws) ∧
        { t.port q with
          latched := (s.port q).latched
          postedSinceView := (s.port q).postedSinceView } = s.port q) ∧
      { t with
        queue := s.queue
        ports := s.ports
        buffers := s.buffers
        regions := s.regions
        staged := s.staged
        commitImage := s.commitImage } = s

/-- R70, R172, R173: the changes between NORMAL and MARGINAL, by the thresholds. In READY each posts DEVICE_EVENT to
every port, and the return to NORMAL ends with a look; in STARTING neither posts or looks. That a row whose voltage
makes no such change is refused is the model's choice (logs 13 and 18): R172 says that the state stays. -/
def Obligations.SupplyChangesPostAndLook : Prop :=
  ∀ (s : State) (mv : Nat),
    let events := fun t : State =>
      { t with ports :=
        let f := fun q : PortState =>
          { q with
            latched := { q.latched with deviceEvent := true }
            postedSinceView := { q.postedSinceView with deviceEvent := true } }
        ⟨f t.ports.a, f t.ports.b, f t.ports.c⟩ }
    (s.supply = .normal → 2450 ≤ mv → mv < 2750 →
      exec (.supplyMarginal mv) s =
        .next (if s.device = .ready then events { s with supply := .marginal } else { s with supply := .marginal })) ∧
    (s.supply = .marginal → 2850 < mv →
      exec (.supplyNormal mv) s =
        .next (if s.device = .ready then (events { s with supply := .normal }).look
          else { s with supply := .normal })) ∧
    (s.supply = .normal → 2750 ≤ mv → exec (.supplyMarginal mv) s = .refused .notThisSupplyChange) ∧
    (s.supply = .marginal → mv ≤ 2850 → exec (.supplyNormal mv) s = .refused .notThisSupplyChange)

/-- R4, R73, R174, R175: a supply failure leaves the targets of the cut-off work unsettled and keeps the array and
the slots; every port is INERT. After power-on detection everything else has its power-on value, the supply is
MARGINAL, the device STARTING, and the ports are DESELECTED unless RESET# is low. The model's choices here: that the
volatile state takes its power-on values already at the failure, where no host can see it (log 19); the values that the
map, the profiles, the enables and MAP_DEFAULTED have until start-up (logs 4 and 5); and the refusal of a row whose
voltage makes no such change (logs 13 and 18); chip-select taken high at the failure and at power-on detection, and the
bits of a byte in progress dropped (log 32); the stored bytes of a cut-off target kept under its unsettled content (log
3); the image and generation of a slot whose write was cut off kept (log 24). The bytes that a port has delivered stay
recorded in its output (log 9). -/
def Obligations.PowerFailsAndReturns : Prop :=
  (∀ (s : State) (mv : Nat), s.supply ≠ .failed → mv < 2450 →
    ∃ pages : List Nat, exec (.supplyFailed mv) s = .next
        { State.reset with
          pending := s.pending
          inputs := s.inputs
          mem := s.mem
          unsettled := pages
          freeIndex := s.freeIndex
          slotX := s.slotX
          slotY := s.slotY
          resetLow := s.resetLow
          supply := .failed
          ports :=
            let p := fun q : PortState => { freshPort .inert with output := q.output }
            ⟨p s.ports.a, p s.ports.b, p s.ports.c⟩ } ∧
      ∀ n, n ∈ pages ↔ n ∈ s.unsettled ∨
        ∃ e tg, (s.activeEntry = some e ∨ s.parkedErase = some e) ∧ e.target = some tg ∧ n ∈ tg.pages) ∧
  (∀ (s : State) (mv : Nat), s.supply = .failed → 2600 < mv →
    exec (.powerOnDetection mv) s = .next
      { State.reset with
        pending := s.pending
        inputs := s.inputs
        mem := s.mem
        unsettled := s.unsettled
        freeIndex := s.freeIndex
        slotX := s.slotX
        slotY := s.slotY
        resetLow := s.resetLow
        ports :=
          let p := fun q : PortState =>
            { freshPort (if s.resetLow then .inert else .deselected) with output := q.output }
          ⟨p s.ports.a, p s.ports.b, p s.ports.c⟩ }) ∧
  (∀ (s : State) (mv : Nat), s.supply = .failed → mv ≤ 2600 →
    exec (.powerOnDetection mv) s = .refused .notThisSupplyChange)

/-- R46, R54, R72, R137, R180, R181, R182 and the rules R180 names: the fall of RESET# ends the volatile work while the
supply is not FAILED, and the Engine begins to cut off what it holds. Until the array has stopped, the engine state and
the Interrupted Operation Record are as they were, no operation ends or suspends, and a further fall starts no second
cut-off. At the stop the engine is IDLE and the record is replaced by the items, once. The rise makes every port
DESELECTED, whether the array has stopped or not, and changes nothing else; while the supply is FAILED, a fall or a rise
changes nothing but the level of the input. The model's choices here: the stop is an input of its own (log 16); the two
rows that cannot occur before it are refused (log 13); the stored bytes of a cut-off target stay under its unsettled
content (log 3), and so do the image and generation of a slot whose write was cut off (log 24). -/
def Obligations.ResetFallAndRise : Prop :=
  (∀ s : State, s.resetLow = false → s.supply ≠ .failed →
    ∃ t, exec .resetFall s = .next t ∧
      t.resetLow = true ∧ t.device = .starting ∧ t.queue = [] ∧ t.arrival = 0 ∧
      t.window = none ∧ t.noted = none ∧ t.holders = ⟨0, 0, 0, 0⟩ ∧ t.staged = none ∧ t.commitImage = none ∧
      t.leaseClock = false ∧ (∀ u ∈ t.buffers, u.state = .free) ∧
      (∀ i r, t.region i = some r → r.lease = ⟨.free, none, 0, [], 0⟩) ∧
      (∀ p, (t.port p).frame = .inert ∧ (t.port p).lastResponse = .ok ∧ (t.port p).conflictSeen = false ∧
        (t.port p).deniedSeen = false ∧ (t.port p).handles = [none, none, none, none] ∧
        (t.port p).completions = [] ∧ (t.port p).sequence = 0 ∧ (t.port p).latched = .none ∧
        (t.port p).mailbox = none ∧ t.alertLow p = false) ∧
      t.mem = s.mem ∧ t.slotX = s.slotX ∧ t.slotY = s.slotY ∧ t.supply = s.supply ∧ t.interrupted = s.interrupted ∧
      t.engine = (if t.stopping = [] then .idle else s.engine) ∧
      (s.stopping ≠ [] → t.stopping = s.stopping ∧ t.unsettled = s.unsettled) ∧
      (s.stopping = [] →
        t.stopping = s.activeEntry.toList.map (fun e =>
            (⟨e.kind, e.targetAddr, e.port, e.tag, false⟩ : InterruptedItem)) ++
          s.parkedErase.toList.map (fun e => ⟨e.kind, e.targetAddr, e.port, e.tag, true⟩) ∧
        (∀ n, n ∈ t.unsettled ↔ n ∈ s.unsettled ∨
          ∃ e tg, (s.activeEntry = some e ∨ s.parkedErase = some e) ∧ e.target = some tg ∧ n ∈ tg.pages))) ∧
  (∀ s : State,
    (s.stopping = [] → s.arrayStops = s) ∧
    (s.stopping ≠ [] →
      s.arrayStops = { s with engine := .idle, stopping := [], interrupted := s.stopping } ∧
      (∀ outcome, exec (.operationEnd outcome) s = .refused .noActiveEntry) ∧
      exec .suspendPoint s = .refused .notSuspending)) ∧
  (∀ s : State,
    (s.resetLow = true → s.supply ≠ .failed → exec .resetRise s = .next
      { s with
        resetLow := false
        ports := ⟨{ s.ports.a with frame := .deselected }, { s.ports.b with frame := .deselected },
          { s.ports.c with frame := .deselected }⟩ }) ∧
    (s.resetLow = true → s.supply = .failed → exec .resetRise s = .next { s with resetLow := false }) ∧
    (s.resetLow = false → s.supply = .failed → exec .resetFall s = .next { s with resetLow := true }))

/-- R156, R157, R172, R177, R178, R179, R181: start-up chooses the valid slot with the higher generation, X on a tie, or
the factory map when there is none; it loads the map with every region FREE and idle, sets every enable, assesses the
supply afresh, makes the device READY, posts DEVICE_EVENT to every port and starts the lease clock. Where a cut-off is
unfinished, it waits for the stop of the array first. Its steps may be taken one after another, and it goes on from any
of them: MAP_DEFAULTED changes at the first and the supply state at the fourth, each while the device is STARTING, and a
start-up that RESET# abandons begins again at its first step. The model's readings here: the row carries the step that
it goes on to, startUpSteps counts those made, and a row that names a step already made changes nothing (log 17); the
wait is part of the row (log 16); RESET# leaves MAP_DEFAULTED as it was (log 27). -/
def Obligations.StartUpLoadsTheCurrentSlot : Prop :=
  (∀ (s : State) (mv : Nat), s.device = .starting → s.startUpSteps = 0 → s.stopping = [] → s.resetLow = false →
    s.supply ≠ .failed →
    let better := fun n o : SlotName => (s.slot n).mark = true ∧
      ((s.slot o).mark = true → (s.slot o).generation.toNat < (s.slot n).generation.toNat ∨
        (s.slot o).generation = (s.slot n).generation ∧ n = .x)
    ∃ (t : State) (m : MapImage), exec (.startUp ⟨.ready, mv⟩) s = .next t ∧
      (better .x .y → t.currentSlot = some .x ∧ m = s.slotX.image ∧ t.generation = s.slotX.generation) ∧
      (better .y .x → t.currentSlot = some .y ∧ m = s.slotY.image ∧ t.generation = s.slotY.generation) ∧
      (s.slotX.mark = false → s.slotY.mark = false →
        t.currentSlot = none ∧ m = factoryMap ∧ t.generation = 0) ∧
      (t.mapDefaulted = true ↔ s.slotX.mark = false ∧ s.slotY.mark = false) ∧
      (∀ i, i < 16 → t.region i = ((m.regions[i]?).join).map (fun d => ⟨d, ⟨.free, none, 0, [], 0⟩⟩)) ∧
      t.authority = m.authority ∧
      (∀ p, (t.port p).profile = m.profiles.get p ∧ (t.port p).enables = .all ∧
        (t.port p).latched = { (s.port p).latched with deviceEvent := true } ∧
        { t.port p with
          profile := (s.port p).profile
          enables := (s.port p).enables
          latched := (s.port p).latched
          postedSinceView := (s.port p).postedSinceView } = s.port p) ∧
      t.supply = (if 2850 < mv then .normal else .marginal) ∧ t.device = .ready ∧ t.leaseClock = true ∧
      { t with
        currentSlot := s.currentSlot
        generation := s.generation
        mapDefaulted := s.mapDefaulted
        regions := s.regions
        authority := s.authority
        ports := s.ports
        supply := s.supply
        device := s.device
        leaseClock := s.leaseClock } = s) ∧
  (∀ (s : State) (mv : Nat), s.device = .starting → s.startUpSteps = 0 → s.stopping = [] → s.resetLow = false →
    s.supply ≠ .failed →
    (∃ t, exec (.startUp ⟨.slotChoice, mv⟩) s = .next t ∧
      (t.mapDefaulted = true ↔ s.slotX.mark = false ∧ s.slotY.mark = false) ∧ t.startUpSteps = 1 ∧
      { t with currentSlot := s.currentSlot, mapDefaulted := s.mapDefaulted, startUpSteps := 0 } = s) ∧
    (∀ k mv', k ≠ .ready → ∃ t, exec (.startUp ⟨k, mv'⟩) s = .next t ∧ t.device = .starting ∧
      (∀ p, (t.port p).latched = (s.port p).latched) ∧ t.leaseClock = s.leaseClock ∧
      t.supply = (if k = .assessment then (if 2850 < mv' then .normal else .marginal) else s.supply) ∧
      (k ≠ .assessment → exec (.startUp ⟨.ready, mv⟩) t = exec (.startUp ⟨.ready, mv⟩) s) ∧
      ∃ u, exec .resetFall t = .next u ∧ u.startUpSteps = 0 ∧ u.device = .starting ∧
        u.mapDefaulted = t.mapDefaulted ∧ u.supply = t.supply)) ∧
  (∀ (s : State) (run : StartUpRun), s.stopping ≠ [] →
    exec (.startUp run) s =
      exec (.startUp run) { s with engine := .idle, stopping := [], interrupted := s.stopping }) ∧
  (∀ (s : State) (mv : Nat), s.device = .starting → s.stopping = [] → s.resetLow = false → s.supply ≠ .failed →
    let place := fun k : StartUpStep => [StartUpStep.slotChoice, .mapLoad, .enables, .assessment, .ready].idxOf k
    let one := fun (k : StartUpStep) (t : State) => exec (.startUp ⟨k, mv⟩) s = .next t ∧
      ∀ j, place k < place j → exec (.startUp ⟨j, mv⟩) s = exec (.startUp ⟨j, mv⟩) t
    let ports := fun f : PortState → PortState => (⟨f s.ports.a, f s.ports.b, f s.ports.c⟩ : PerPort PortState)
    (s.startUpSteps = 1 →
      let m := match s.currentSlot with
        | some n => (s.slot n).image
        | none => factoryMap
      ∃ t, one .mapLoad t ∧
        (∀ i, i < 16 → t.region i = ((m.regions[i]?).join).map (fun d => ⟨d, ⟨.free, none, 0, [], 0⟩⟩)) ∧
        { t with regions := s.regions } =
          { s with
            generation := (match s.currentSlot with
              | some n => (s.slot n).generation
              | none => 0)
            authority := m.authority
            ports := ⟨{ s.ports.a with profile := m.profiles.a }, { s.ports.b with profile := m.profiles.b },
              { s.ports.c with profile := m.profiles.c }⟩
            startUpSteps := 2 }) ∧
    (s.startUpSteps = 2 → one .enables { s with
      ports := ports (fun q => { q with enables := .all })
      startUpSteps := 3 }) ∧
    (s.startUpSteps = 3 → one .assessment { s with
      supply := if 2850 < mv then .normal else .marginal
      startUpSteps := 4 }) ∧
    (s.startUpSteps = 4 → one .ready { s with
      device := .ready
      leaseClock := true
      startUpSteps := 0
      ports := ports (fun q =>
        { q with
          latched := { q.latched with deviceEvent := true }
          postedSinceView := { q.postedSinceView with deviceEvent := true } }) }) ∧
    (∀ k, place k < s.startUpSteps → exec (.startUp ⟨k, mv⟩) s = .next s))

/-- R184: CLEAR INTERRUPTED empties the record and answers OK, from any port and whatever the record holds; READ STATUS
then shows INTERRUPTED_PRESENT clear on every port. -/
def Obligations.ClearInterruptedEmptiesTheRecord : Prop :=
  ∀ (p : Port) (s : State), s.portReady p = true →
    exec (.clearInterrupted p) s = { s with interrupted := [] }.answers p .ok ∧
    ∀ q : Port, (((({ s with interrupted := [] } : State).statusView q)[7]?).getD 0).toNat / 8 % 2 = 0

/-! ### Laws that every step keeps -/

/-- The laws hold of the part right after power-on detection. -/
def Obligations.LawsHoldAtReset : Prop :=
  let s := State.reset
  s.mem.wf = true ∧ s.targetLaw = true ∧ s.sizeLaw = true ∧ s.creditLaw = true ∧ s.capacityLaw = true ∧
  s.tagLaw = true ∧ s.engineLaw = true ∧ s.bankLaw = true ∧ s.windowLaw = true ∧ s.overParkedLaw = true ∧
  s.entryLaw = true ∧ s.profileLaw = true ∧ s.holderLaw = true ∧ s.streamLaw = true ∧ s.inertLaw = true ∧
  s.bufferLaw = true ∧ s.ownershipLaw = true ∧ s.leaseLaw = true ∧ s.drainLaw = true ∧ s.queuedLaw = true ∧
  s.commitRegionLaw = true ∧ s.lineLaw = true ∧ s.frozenLaw = true ∧ s.commitLaw = true ∧ s.startingLaw = true ∧
  s.regionLaw = true ∧ s.imageLaw = true ∧ s.clockLaw = true ∧ s.slotLaw = true ∧ s.mailboxLaw = true

/-- R1, R2, R3: every step keeps the array in canonical form, with no byte outside 000000h to FFFFFFh. -/
def Obligations.StepsKeepTheArrayCanonical : Prop :=
  ∀ s t : State, (s.mem.wf && s.targetLaw && s.sizeLaw) = true → step s = .next t →
    (t.mem.wf && t.targetLaw && t.sizeLaw) = true

/-- R118, R20, R22: every step keeps each port's entries and records together at 8 or less, the queue at 12 entries
or less, and the tags of each port's entries apart. -/
def Obligations.StepsKeepTheQueueLimits : Prop :=
  ∀ s t : State, step s = .next t →
    (s.creditLaw = true → t.creditLaw = true) ∧ (s.capacityLaw = true → t.capacityLaw = true) ∧
    (s.tagLaw = true → t.tagLaw = true)

/-- R1, R6, R18, R19, R20, R36, R45, R47, R65, R67, R150: every step keeps the engine state and the entries' states in
agreement, also while a cut-off is unfinished (R72, R182), no RUNNING or SUSPENDING entry in a held bank, the read window and the noted request where R47 allows them,
the ranges of the entries' fields, the suspend count at 16 or less, and what runs over a parked erase outside its
target. -/
def Obligations.StepsKeepTheEngineLaws : Prop :=
  ∀ s t : State,
    (s.engineLaw && s.bankLaw && s.windowLaw && s.overParkedLaw && s.entryLaw && s.profileLaw && s.targetLaw) = true →
    step s = .next t →
    (t.engineLaw && t.bankLaw && t.windowLaw && t.overParkedLaw && t.entryLaw && t.profileLaw && t.targetLaw) = true

/-- R6, R7, R137: every step keeps each read-holder count equal to the number of open streams that hold the bank, and
each stream in the bank of its address unless it is a fill stream, which holds none. -/
def Obligations.StepsKeepTheReadHolders : Prop :=
  ∀ s t : State, (s.holderLaw && s.streamLaw && s.inertLaw) = true → step s = .next t →
    (t.holderLaw && t.streamLaw && t.inertLaw) = true

/-- R100, R101, R102, R103: every step keeps each buffer FREE, FILLING under one handle or BOUND to one PROGRAM entry,
and no port with more than 4 buffers. -/
def Obligations.StepsKeepTheBufferLaw : Prop :=
  ∀ s t : State, (s.bufferLaw && s.ownershipLaw && s.sizeLaw) = true → step s = .next t →
    (t.bufferLaw && t.ownershipLaw && t.sizeLaw) = true

/-- R18, R31, R41, R78, R79, R81, R82, R94, R160: every step keeps the lease states, holders, waiters and drain counts
as the rules fix them, QUEUED work in regions held by its port, FROZEN regions under a pending commit alone, and a
MAP_COMMIT with no region. -/
def Obligations.StepsKeepTheLeaseLaws : Prop :=
  ∀ s t : State,
    (s.leaseLaw && s.drainLaw && s.queuedLaw && s.frozenLaw && s.commitLaw && s.commitRegionLaw && s.startingLaw
      && s.sizeLaw) = true →
    step s = .next t →
    (t.leaseLaw && t.drainLaw && t.queuedLaw && t.frozenLaw && t.commitLaw && t.commitRegionLaw && t.startingLaw
      && t.sizeLaw) = true

/-- R75, R155, R165: every step keeps the defined regions disjoint, and every image that can be loaded or applied
valid. The laws of leases, commits and start-up in the premise are among those that `StepsKeepTheLeaseLaws` and
`StepsKeepTheDeviceLaws` say every step keeps. -/
def Obligations.StepsKeepTheRegionsDisjoint : Prop :=
  ∀ s t : State, (s.regionLaw && s.imageLaw && s.leaseLaw && s.commitLaw && s.startingLaw && s.slotLaw) = true →
    step s = .next t → (t.regionLaw && t.imageLaw) = true

/-- R90, R129, R135, R136, R137, R156, R176, R177, R178: every step keeps the device laws: the lease clock runs exactly
in READY; the ports are INERT exactly while RESET# is low or the supply has failed; in READY RESET# is high, the
supply has not failed and no cut-off is unfinished; in STARTING no work is there, and the engine is IDLE but for an
unfinished cut-off; from slot choice on the current slot is valid and MAP_DEFAULTED set
exactly when there is none, and from the map load on the working generation is its own; a mailbox never holds its own
port's signal; a port that is RECEIVING, in TRAILING or in DATA_IN has its chip-select low and has received what that
frame state says. -/
def Obligations.StepsKeepTheDeviceLaws : Prop :=
  ∀ s t : State, (s.clockLaw && s.inertLaw && s.startingLaw && s.slotLaw && s.mailboxLaw && s.lineLaw) = true →
    step s = .next t →
    (t.clockLaw && t.inertLaw && t.startingLaw && t.slotLaw && t.mailboxLaw && t.lineLaw) = true

/-! ### Rules about the whole part -/

/-- R2, R3, R54, R156, R158: the array's stored bytes change only at the end of an operation; the working map changes
only at start-up and at the end of a MAP_COMMIT DONE, which raises the generation by one, and is lost only with power. A
step that takes no command, which is an event on the lines, the stop of the array or idling, changes neither. A cut-off
at RESET# or at a supply failure makes its target unsettled (R4); that the stored bytes stay there is the model's form of
it (log 3). -/
def Obligations.ArrayAndMapChangeOnlyThere : Prop :=
  let kept := fun s t : State => t.authority = s.authority ∧ t.currentSlot = s.currentSlot ∧
    t.generation = s.generation ∧
    (∀ i, (t.region i).map (fun r => r.definition) = (s.region i).map (fun r => r.definition)) ∧
    ∀ p, (t.port p).profile = (s.port p).profile
  (∀ (c : Instr) (s t : State), exec c s = .next t →
    ((∀ o, c ≠ .operationEnd o) → t.mem = s.mem) ∧
    ((∀ run, c ≠ .startUp run) → (∀ mv, c ≠ .supplyFailed mv) → (∀ mv, c ≠ .powerOnDetection mv) →
      kept s t ∨ (c = .operationEnd .done ∧ t.generation = s.generation + 1 ∧
        ∃ e, s.activeEntry = some e ∧ e.kind = .mapCommit))) ∧
  (∀ (p : Port) (e : PinEvent) (s t : State), pinEvent p e s = .next t → t.mem = s.mem ∧ kept s t) ∧
  (∀ s t : State, s.pending = [] → (∀ c, s.inputs.head? ≠ some (.command c)) → step s = .next t →
    t.mem = s.mem ∧ kept s t)

/-- R117, R122, R128, R136, R143, R147: a frame of one port leaves every other port's frame, Last Response, sticky
flags, Completion Queue, sequence counter, enables, handles, profile and output as they were, and clears none of its
pending flags; a mailbox of another port changes only by SIGNAL PORT, from EMPTY to full. An inquiry that the device
answers in READY leaves every Last Response. -/
def Obligations.FramesLeaveOtherPortsAlone : Prop :=
  (∀ (c : Instr) (p q : Port) (s t : State), c.framePort = some p → q ≠ p → exec c s = .next t →
    { t.port q with
      latched := (s.port q).latched
      postedSinceView := (s.port q).postedSinceView
      mailbox := (s.port q).mailbox } = s.port q ∧
    (∀ k, (s.port q).latched.get k = true → (t.port q).latched.get k = true) ∧
    ((t.port q).mailbox = (s.port q).mailbox ∨
      ∃ target value, c = .signalPort p target value ∧ (s.port q).mailbox = none ∧
        (t.port q).mailbox = some ⟨p, value⟩)) ∧
  (∀ (c : Instr) (p : Port) (s t : State), c.isInquiry = true → s.device = .ready → c.framePort = some p →
    (∀ quad, (s.port p).frame ≠ .dataOut (.notReady quad)) →
    (∀ head, (s.port p).frame ≠ .dataOut (.completion head)) →
    (∀ shown enables, (s.port p).frame ≠ .dataOut (.notices shown enables)) →
    (∀ content, (s.port p).frame ≠ .dataOut (.mailbox content)) → exec c s = .next t →
    ∀ q, (t.port q).lastResponse = (s.port q).lastResponse)
end

