-- ==== Sys2Proof/Laws/State.lean ====
section
/-! SUPPORT. What each named update of State leaves unchanged, field by field, and access to what it changes. -/

namespace Sys2Proof.Machine

/-! ### One port, one bank, one region, one entry, one buffer -/

@[simp] theorem PerPort.get_set_self {α : Type} (v : PerPort α) (p : Port) (x : α) : (v.set p x).get p = x := by
  cases p <;> rfl

theorem PerPort.get_set_ne {α : Type} (v : PerPort α) {p q : Port} (x : α) (h : q ≠ p) :
    (v.set p x).get q = v.get q := by
  cases p <;> cases q <;> first | rfl | exact absurd rfl h

@[simp] theorem PerPort.set_set {α : Type} (v : PerPort α) (p : Port) (x y : α) : (v.set p x).set p y = v.set p y := by
  cases p <;> rfl

@[simp] theorem PerPort.set_get_self {α : Type} (v : PerPort α) (p : Port) : v.set p (v.get p) = v := by
  cases p <;> rfl

theorem PerPort.set_comm {α : Type} (v : PerPort α) {p q : Port} (x y : α) (h : p ≠ q) :
    (v.set p x).set q y = (v.set q y).set p x := by
  cases p <;> cases q <;> first | rfl | exact absurd rfl h

theorem PerPort.ext_get {α : Type} {v w : PerPort α} (h : ∀ p, v.get p = w.get p) : v = w := by
  have ha := h .a
  have hb := h .b
  have hc := h .c
  cases v
  cases w
  simp only [PerPort.get] at ha hb hc
  simp [ha, hb, hc]

@[simp] theorem BankCounts.get_set_self (h : BankCounts) (k : Fin 4) (n : Nat) : (h.set k n).get k = n := by
  match k with
  | 0 => rfl
  | 1 => rfl
  | 2 => rfl
  | 3 => rfl

theorem BankCounts.get_set_ne (h : BankCounts) {k j : Fin 4} (n : Nat) (hj : j ≠ k) :
    (h.set k n).get j = h.get j := by
  match k, j with
  | 0, 0 => exact absurd rfl hj
  | 0, 1 => rfl
  | 0, 2 => rfl
  | 0, 3 => rfl
  | 1, 0 => rfl
  | 1, 1 => exact absurd rfl hj
  | 1, 2 => rfl
  | 1, 3 => rfl
  | 2, 0 => rfl
  | 2, 1 => rfl
  | 2, 2 => exact absurd rfl hj
  | 2, 3 => rfl
  | 3, 0 => rfl
  | 3, 1 => rfl
  | 3, 2 => rfl
  | 3, 3 => exact absurd rfl hj

@[simp] theorem State.port_modifyPort_self (s : State) (p : Port) (f : PortState → PortState) :
    (s.modifyPort p f).port p = f (s.port p) := PerPort.get_set_self _ _ _

theorem State.port_modifyPort_ne (s : State) {p q : Port} (f : PortState → PortState) (h : q ≠ p) :
    (s.modifyPort p f).port q = s.port q := PerPort.get_set_ne _ _ h

theorem State.port_modifyPort (s : State) (p q : Port) (f : PortState → PortState) :
    (s.modifyPort p f).port q = if q = p then f (s.port q) else s.port q := by
  by_cases h : q = p
  · subst h
    simp
  · simp [h, s.port_modifyPort_ne f h]

@[simp] theorem State.modifyPort_modifyPort (s : State) (p : Port) (f g : PortState → PortState) :
    (s.modifyPort p f).modifyPort p g = s.modifyPort p (fun q => g (f q)) := by
  simp [State.modifyPort]

theorem State.modifyPort_comm (s : State) {p q : Port} (f g : PortState → PortState) (h : p ≠ q) :
    (s.modifyPort p f).modifyPort q g = (s.modifyPort q g).modifyPort p f := by
  simp only [State.modifyPort, PerPort.get_set_ne _ _ h, PerPort.get_set_ne _ _ (Ne.symm h)]
  rw [PerPort.set_comm _ _ _ h]

theorem State.region_modifyRegion (s : State) (i j : Nat) (f : Region → Region) :
    (s.modifyRegion i f).region j = if j = i then (s.region j).map f else s.region j := by
  unfold State.region State.modifyRegion
  rw [List.getElem?_modify]
  by_cases h : i = j
  · subst h
    cases s.regions[i]? with
    | none => simp
    | some r => cases r <;> simp
  · have h' : ¬j = i := fun e => h e.symm
    simp [h, h']

@[simp] theorem State.region_modifyRegion_self (s : State) (i : Nat) (f : Region → Region) :
    (s.modifyRegion i f).region i = (s.region i).map f := by
  simp [State.region_modifyRegion]

theorem State.region_modifyRegion_ne (s : State) {i j : Nat} (f : Region → Region) (h : j ≠ i) :
    (s.modifyRegion i f).region j = s.region j := by
  simp [State.region_modifyRegion, h]

theorem State.region_modifyLease (s : State) (i j : Nat) (f : Lease → Lease) :
    (s.modifyLease i f).region j =
      if j = i then (s.region j).map (fun r => { r with lease := f r.lease }) else s.region j :=
  s.region_modifyRegion i j _

@[simp] theorem State.region_modifyLease_self (s : State) (i : Nat) (f : Lease → Lease) :
    (s.modifyLease i f).region i = (s.region i).map (fun r => { r with lease := f r.lease }) :=
  s.region_modifyRegion_self i _

theorem State.region_modifyLease_ne (s : State) {i j : Nat} (f : Lease → Lease) (h : j ≠ i) :
    (s.modifyLease i f).region j = s.region j := s.region_modifyRegion_ne _ h

@[simp] theorem State.modifyRegion_regions_length (s : State) (i : Nat) (f : Region → Region) :
    (s.modifyRegion i f).regions.length = s.regions.length := by
  simp [State.modifyRegion]

@[simp] theorem State.modifyLease_regions_length (s : State) (i : Nat) (f : Lease → Lease) :
    (s.modifyLease i f).regions.length = s.regions.length := by
  simp [State.modifyLease]

/-! ### What each update leaves -/

@[simp] theorem State.modifyPort_pending (s : State) (p : Port) (f : PortState → PortState) :
    (s.modifyPort p f).pending = s.pending := rfl

@[simp] theorem State.modifyPort_inputs (s : State) (p : Port) (f : PortState → PortState) :
    (s.modifyPort p f).inputs = s.inputs := rfl

@[simp] theorem State.modifyPort_mem (s : State) (p : Port) (f : PortState → PortState) :
    (s.modifyPort p f).mem = s.mem := rfl

@[simp] theorem State.modifyPort_unsettled (s : State) (p : Port) (f : PortState → PortState) :
    (s.modifyPort p f).unsettled = s.unsettled := rfl

@[simp] theorem State.modifyPort_freeIndex (s : State) (p : Port) (f : PortState → PortState) :
    (s.modifyPort p f).freeIndex = s.freeIndex := rfl

@[simp] theorem State.modifyPort_holders (s : State) (p : Port) (f : PortState → PortState) :
    (s.modifyPort p f).holders = s.holders := rfl

@[simp] theorem State.modifyPort_queue (s : State) (p : Port) (f : PortState → PortState) :
    (s.modifyPort p f).queue = s.queue := rfl

@[simp] theorem State.modifyPort_arrival (s : State) (p : Port) (f : PortState → PortState) :
    (s.modifyPort p f).arrival = s.arrival := rfl

@[simp] theorem State.modifyPort_engine (s : State) (p : Port) (f : PortState → PortState) :
    (s.modifyPort p f).engine = s.engine := rfl

@[simp] theorem State.modifyPort_window (s : State) (p : Port) (f : PortState → PortState) :
    (s.modifyPort p f).window = s.window := rfl

@[simp] theorem State.modifyPort_noted (s : State) (p : Port) (f : PortState → PortState) :
    (s.modifyPort p f).noted = s.noted := rfl

@[simp] theorem State.modifyPort_regions (s : State) (p : Port) (f : PortState → PortState) :
    (s.modifyPort p f).regions = s.regions := rfl

@[simp] theorem State.modifyPort_leaseClock (s : State) (p : Port) (f : PortState → PortState) :
    (s.modifyPort p f).leaseClock = s.leaseClock := rfl

@[simp] theorem State.modifyPort_buffers (s : State) (p : Port) (f : PortState → PortState) :
    (s.modifyPort p f).buffers = s.buffers := rfl

@[simp] theorem State.modifyPort_authority (s : State) (p : Port) (f : PortState → PortState) :
    (s.modifyPort p f).authority = s.authority := rfl

@[simp] theorem State.modifyPort_generation (s : State) (p : Port) (f : PortState → PortState) :
    (s.modifyPort p f).generation = s.generation := rfl

@[simp] theorem State.modifyPort_currentSlot (s : State) (p : Port) (f : PortState → PortState) :
    (s.modifyPort p f).currentSlot = s.currentSlot := rfl

@[simp] theorem State.modifyPort_slotX (s : State) (p : Port) (f : PortState → PortState) :
    (s.modifyPort p f).slotX = s.slotX := rfl

@[simp] theorem State.modifyPort_slotY (s : State) (p : Port) (f : PortState → PortState) :
    (s.modifyPort p f).slotY = s.slotY := rfl

@[simp] theorem State.modifyPort_staged (s : State) (p : Port) (f : PortState → PortState) :
    (s.modifyPort p f).staged = s.staged := rfl

@[simp] theorem State.modifyPort_commitImage (s : State) (p : Port) (f : PortState → PortState) :
    (s.modifyPort p f).commitImage = s.commitImage := rfl

@[simp] theorem State.modifyPort_supply (s : State) (p : Port) (f : PortState → PortState) :
    (s.modifyPort p f).supply = s.supply := rfl

@[simp] theorem State.modifyPort_device (s : State) (p : Port) (f : PortState → PortState) :
    (s.modifyPort p f).device = s.device := rfl

@[simp] theorem State.modifyPort_startUpSteps (s : State) (p : Port) (f : PortState → PortState) :
    (s.modifyPort p f).startUpSteps = s.startUpSteps := rfl

@[simp] theorem State.modifyPort_resetLow (s : State) (p : Port) (f : PortState → PortState) :
    (s.modifyPort p f).resetLow = s.resetLow := rfl

@[simp] theorem State.modifyPort_interrupted (s : State) (p : Port) (f : PortState → PortState) :
    (s.modifyPort p f).interrupted = s.interrupted := rfl

@[simp] theorem State.modifyPort_stopping (s : State) (p : Port) (f : PortState → PortState) :
    (s.modifyPort p f).stopping = s.stopping := rfl

@[simp] theorem State.modifyPort_mapDefaulted (s : State) (p : Port) (f : PortState → PortState) :
    (s.modifyPort p f).mapDefaulted = s.mapDefaulted := rfl

@[simp] theorem State.modifyPort_region (s : State) (p : Port) (f : PortState → PortState) (j : Nat) :
    (s.modifyPort p f).region j = s.region j := rfl

@[simp] theorem State.respond_pending (s : State) (p : Port) (r : Response) :
    (s.respond p r).pending = s.pending := rfl

@[simp] theorem State.respond_inputs (s : State) (p : Port) (r : Response) :
    (s.respond p r).inputs = s.inputs := rfl

@[simp] theorem State.respond_mem (s : State) (p : Port) (r : Response) : (s.respond p r).mem = s.mem := rfl

@[simp] theorem State.respond_unsettled (s : State) (p : Port) (r : Response) :
    (s.respond p r).unsettled = s.unsettled := rfl

@[simp] theorem State.respond_freeIndex (s : State) (p : Port) (r : Response) :
    (s.respond p r).freeIndex = s.freeIndex := rfl

@[simp] theorem State.respond_holders (s : State) (p : Port) (r : Response) :
    (s.respond p r).holders = s.holders := rfl

@[simp] theorem State.respond_queue (s : State) (p : Port) (r : Response) : (s.respond p r).queue = s.queue := rfl

@[simp] theorem State.respond_arrival (s : State) (p : Port) (r : Response) :
    (s.respond p r).arrival = s.arrival := rfl

@[simp] theorem State.respond_engine (s : State) (p : Port) (r : Response) :
    (s.respond p r).engine = s.engine := rfl

@[simp] theorem State.respond_window (s : State) (p : Port) (r : Response) :
    (s.respond p r).window = s.window := rfl

@[simp] theorem State.respond_noted (s : State) (p : Port) (r : Response) : (s.respond p r).noted = s.noted := rfl

@[simp] theorem State.respond_regions (s : State) (p : Port) (r : Response) :
    (s.respond p r).regions = s.regions := rfl

@[simp] theorem State.respond_leaseClock (s : State) (p : Port) (r : Response) :
    (s.respond p r).leaseClock = s.leaseClock := rfl

@[simp] theorem State.respond_buffers (s : State) (p : Port) (r : Response) :
    (s.respond p r).buffers = s.buffers := rfl

@[simp] theorem State.respond_authority (s : State) (p : Port) (r : Response) :
    (s.respond p r).authority = s.authority := rfl

@[simp] theorem State.respond_generation (s : State) (p : Port) (r : Response) :
    (s.respond p r).generation = s.generation := rfl

@[simp] theorem State.respond_currentSlot (s : State) (p : Port) (r : Response) :
    (s.respond p r).currentSlot = s.currentSlot := rfl

@[simp] theorem State.respond_slotX (s : State) (p : Port) (r : Response) : (s.respond p r).slotX = s.slotX := rfl

@[simp] theorem State.respond_slotY (s : State) (p : Port) (r : Response) : (s.respond p r).slotY = s.slotY := rfl

@[simp] theorem State.respond_staged (s : State) (p : Port) (r : Response) :
    (s.respond p r).staged = s.staged := rfl

@[simp] theorem State.respond_commitImage (s : State) (p : Port) (r : Response) :
    (s.respond p r).commitImage = s.commitImage := rfl

@[simp] theorem State.respond_supply (s : State) (p : Port) (r : Response) :
    (s.respond p r).supply = s.supply := rfl

@[simp] theorem State.respond_device (s : State) (p : Port) (r : Response) :
    (s.respond p r).device = s.device := rfl

@[simp] theorem State.respond_startUpSteps (s : State) (p : Port) (r : Response) :
    (s.respond p r).startUpSteps = s.startUpSteps := rfl

@[simp] theorem State.respond_resetLow (s : State) (p : Port) (r : Response) :
    (s.respond p r).resetLow = s.resetLow := rfl

@[simp] theorem State.respond_interrupted (s : State) (p : Port) (r : Response) :
    (s.respond p r).interrupted = s.interrupted := rfl

@[simp] theorem State.respond_stopping (s : State) (p : Port) (r : Response) :
    (s.respond p r).stopping = s.stopping := rfl

@[simp] theorem State.respond_mapDefaulted (s : State) (p : Port) (r : Response) :
    (s.respond p r).mapDefaulted = s.mapDefaulted := rfl

@[simp] theorem State.respond_region (s : State) (p : Port) (r : Response) (j : Nat) :
    (s.respond p r).region j = s.region j := rfl

@[simp] theorem State.setFrame_pending (s : State) (p : Port) (f : FrameState) :
    (s.setFrame p f).pending = s.pending := rfl

@[simp] theorem State.setFrame_inputs (s : State) (p : Port) (f : FrameState) :
    (s.setFrame p f).inputs = s.inputs := rfl

@[simp] theorem State.setFrame_mem (s : State) (p : Port) (f : FrameState) : (s.setFrame p f).mem = s.mem := rfl

@[simp] theorem State.setFrame_unsettled (s : State) (p : Port) (f : FrameState) :
    (s.setFrame p f).unsettled = s.unsettled := rfl

@[simp] theorem State.setFrame_freeIndex (s : State) (p : Port) (f : FrameState) :
    (s.setFrame p f).freeIndex = s.freeIndex := rfl

@[simp] theorem State.setFrame_holders (s : State) (p : Port) (f : FrameState) :
    (s.setFrame p f).holders = s.holders := rfl

@[simp] theorem State.setFrame_queue (s : State) (p : Port) (f : FrameState) :
    (s.setFrame p f).queue = s.queue := rfl

@[simp] theorem State.setFrame_arrival (s : State) (p : Port) (f : FrameState) :
    (s.setFrame p f).arrival = s.arrival := rfl

@[simp] theorem State.setFrame_engine (s : State) (p : Port) (f : FrameState) :
    (s.setFrame p f).engine = s.engine := rfl

@[simp] theorem State.setFrame_window (s : State) (p : Port) (f : FrameState) :
    (s.setFrame p f).window = s.window := rfl

@[simp] theorem State.setFrame_noted (s : State) (p : Port) (f : FrameState) :
    (s.setFrame p f).noted = s.noted := rfl

@[simp] theorem State.setFrame_regions (s : State) (p : Port) (f : FrameState) :
    (s.setFrame p f).regions = s.regions := rfl

@[simp] theorem State.setFrame_leaseClock (s : State) (p : Port) (f : FrameState) :
    (s.setFrame p f).leaseClock = s.leaseClock := rfl

@[simp] theorem State.setFrame_buffers (s : State) (p : Port) (f : FrameState) :
    (s.setFrame p f).buffers = s.buffers := rfl

@[simp] theorem State.setFrame_authority (s : State) (p : Port) (f : FrameState) :
    (s.setFrame p f).authority = s.authority := rfl

@[simp] theorem State.setFrame_generation (s : State) (p : Port) (f : FrameState) :
    (s.setFrame p f).generation = s.generation := rfl

@[simp] theorem State.setFrame_currentSlot (s : State) (p : Port) (f : FrameState) :
    (s.setFrame p f).currentSlot = s.currentSlot := rfl

@[simp] theorem State.setFrame_slotX (s : State) (p : Port) (f : FrameState) :
    (s.setFrame p f).slotX = s.slotX := rfl

@[simp] theorem State.setFrame_slotY (s : State) (p : Port) (f : FrameState) :
    (s.setFrame p f).slotY = s.slotY := rfl

@[simp] theorem State.setFrame_staged (s : State) (p : Port) (f : FrameState) :
    (s.setFrame p f).staged = s.staged := rfl

@[simp] theorem State.setFrame_commitImage (s : State) (p : Port) (f : FrameState) :
    (s.setFrame p f).commitImage = s.commitImage := rfl

@[simp] theorem State.setFrame_supply (s : State) (p : Port) (f : FrameState) :
    (s.setFrame p f).supply = s.supply := rfl

@[simp] theorem State.setFrame_device (s : State) (p : Port) (f : FrameState) :
    (s.setFrame p f).device = s.device := rfl

@[simp] theorem State.setFrame_startUpSteps (s : State) (p : Port) (f : FrameState) :
    (s.setFrame p f).startUpSteps = s.startUpSteps := rfl

@[simp] theorem State.setFrame_resetLow (s : State) (p : Port) (f : FrameState) :
    (s.setFrame p f).resetLow = s.resetLow := rfl

@[simp] theorem State.setFrame_interrupted (s : State) (p : Port) (f : FrameState) :
    (s.setFrame p f).interrupted = s.interrupted := rfl

@[simp] theorem State.setFrame_stopping (s : State) (p : Port) (f : FrameState) :
    (s.setFrame p f).stopping = s.stopping := rfl

@[simp] theorem State.setFrame_mapDefaulted (s : State) (p : Port) (f : FrameState) :
    (s.setFrame p f).mapDefaulted = s.mapDefaulted := rfl

@[simp] theorem State.setFrame_region (s : State) (p : Port) (f : FrameState) (j : Nat) :
    (s.setFrame p f).region j = s.region j := rfl

@[simp] theorem State.endFrame_pending (s : State) (p : Port) (bs : List Byte) :
    (s.endFrame p bs).pending = s.pending := rfl

@[simp] theorem State.endFrame_inputs (s : State) (p : Port) (bs : List Byte) :
    (s.endFrame p bs).inputs = s.inputs := rfl

@[simp] theorem State.endFrame_mem (s : State) (p : Port) (bs : List Byte) : (s.endFrame p bs).mem = s.mem := rfl

@[simp] theorem State.endFrame_unsettled (s : State) (p : Port) (bs : List Byte) :
    (s.endFrame p bs).unsettled = s.unsettled := rfl

@[simp] theorem State.endFrame_freeIndex (s : State) (p : Port) (bs : List Byte) :
    (s.endFrame p bs).freeIndex = s.freeIndex := rfl

@[simp] theorem State.endFrame_holders (s : State) (p : Port) (bs : List Byte) :
    (s.endFrame p bs).holders = s.holders := rfl

@[simp] theorem State.endFrame_queue (s : State) (p : Port) (bs : List Byte) :
    (s.endFrame p bs).queue = s.queue := rfl

@[simp] theorem State.endFrame_arrival (s : State) (p : Port) (bs : List Byte) :
    (s.endFrame p bs).arrival = s.arrival := rfl

@[simp] theorem State.endFrame_engine (s : State) (p : Port) (bs : List Byte) :
    (s.endFrame p bs).engine = s.engine := rfl

@[simp] theorem State.endFrame_window (s : State) (p : Port) (bs : List Byte) :
    (s.endFrame p bs).window = s.window := rfl

@[simp] theorem State.endFrame_noted (s : State) (p : Port) (bs : List Byte) :
    (s.endFrame p bs).noted = s.noted := rfl

@[simp] theorem State.endFrame_regions (s : State) (p : Port) (bs : List Byte) :
    (s.endFrame p bs).regions = s.regions := rfl

@[simp] theorem State.endFrame_leaseClock (s : State) (p : Port) (bs : List Byte) :
    (s.endFrame p bs).leaseClock = s.leaseClock := rfl

@[simp] theorem State.endFrame_buffers (s : State) (p : Port) (bs : List Byte) :
    (s.endFrame p bs).buffers = s.buffers := rfl

@[simp] theorem State.endFrame_authority (s : State) (p : Port) (bs : List Byte) :
    (s.endFrame p bs).authority = s.authority := rfl

@[simp] theorem State.endFrame_generation (s : State) (p : Port) (bs : List Byte) :
    (s.endFrame p bs).generation = s.generation := rfl

@[simp] theorem State.endFrame_currentSlot (s : State) (p : Port) (bs : List Byte) :
    (s.endFrame p bs).currentSlot = s.currentSlot := rfl

@[simp] theorem State.endFrame_slotX (s : State) (p : Port) (bs : List Byte) :
    (s.endFrame p bs).slotX = s.slotX := rfl

@[simp] theorem State.endFrame_slotY (s : State) (p : Port) (bs : List Byte) :
    (s.endFrame p bs).slotY = s.slotY := rfl

@[simp] theorem State.endFrame_staged (s : State) (p : Port) (bs : List Byte) :
    (s.endFrame p bs).staged = s.staged := rfl

@[simp] theorem State.endFrame_commitImage (s : State) (p : Port) (bs : List Byte) :
    (s.endFrame p bs).commitImage = s.commitImage := rfl

@[simp] theorem State.endFrame_supply (s : State) (p : Port) (bs : List Byte) :
    (s.endFrame p bs).supply = s.supply := rfl

@[simp] theorem State.endFrame_device (s : State) (p : Port) (bs : List Byte) :
    (s.endFrame p bs).device = s.device := rfl

@[simp] theorem State.endFrame_startUpSteps (s : State) (p : Port) (bs : List Byte) :
    (s.endFrame p bs).startUpSteps = s.startUpSteps := rfl

@[simp] theorem State.endFrame_resetLow (s : State) (p : Port) (bs : List Byte) :
    (s.endFrame p bs).resetLow = s.resetLow := rfl

@[simp] theorem State.endFrame_interrupted (s : State) (p : Port) (bs : List Byte) :
    (s.endFrame p bs).interrupted = s.interrupted := rfl

@[simp] theorem State.endFrame_stopping (s : State) (p : Port) (bs : List Byte) :
    (s.endFrame p bs).stopping = s.stopping := rfl

@[simp] theorem State.endFrame_mapDefaulted (s : State) (p : Port) (bs : List Byte) :
    (s.endFrame p bs).mapDefaulted = s.mapDefaulted := rfl

@[simp] theorem State.endFrame_region (s : State) (p : Port) (bs : List Byte) (j : Nat) :
    (s.endFrame p bs).region j = s.region j := rfl

@[simp] theorem State.post_pending (s : State) (p : Port) (k : NoticeKind) : (s.post p k).pending = s.pending := rfl

@[simp] theorem State.post_inputs (s : State) (p : Port) (k : NoticeKind) : (s.post p k).inputs = s.inputs := rfl

@[simp] theorem State.post_mem (s : State) (p : Port) (k : NoticeKind) : (s.post p k).mem = s.mem := rfl

@[simp] theorem State.post_unsettled (s : State) (p : Port) (k : NoticeKind) :
    (s.post p k).unsettled = s.unsettled := rfl

@[simp] theorem State.post_freeIndex (s : State) (p : Port) (k : NoticeKind) :
    (s.post p k).freeIndex = s.freeIndex := rfl

@[simp] theorem State.post_holders (s : State) (p : Port) (k : NoticeKind) : (s.post p k).holders = s.holders := rfl

@[simp] theorem State.post_queue (s : State) (p : Port) (k : NoticeKind) : (s.post p k).queue = s.queue := rfl

@[simp] theorem State.post_arrival (s : State) (p : Port) (k : NoticeKind) : (s.post p k).arrival = s.arrival := rfl

@[simp] theorem State.post_engine (s : State) (p : Port) (k : NoticeKind) : (s.post p k).engine = s.engine := rfl

@[simp] theorem State.post_window (s : State) (p : Port) (k : NoticeKind) : (s.post p k).window = s.window := rfl

@[simp] theorem State.post_noted (s : State) (p : Port) (k : NoticeKind) : (s.post p k).noted = s.noted := rfl

@[simp] theorem State.post_regions (s : State) (p : Port) (k : NoticeKind) : (s.post p k).regions = s.regions := rfl

@[simp] theorem State.post_leaseClock (s : State) (p : Port) (k : NoticeKind) :
    (s.post p k).leaseClock = s.leaseClock := rfl

@[simp] theorem State.post_buffers (s : State) (p : Port) (k : NoticeKind) : (s.post p k).buffers = s.buffers := rfl

@[simp] theorem State.post_authority (s : State) (p : Port) (k : NoticeKind) :
    (s.post p k).authority = s.authority := rfl

@[simp] theorem State.post_generation (s : State) (p : Port) (k : NoticeKind) :
    (s.post p k).generation = s.generation := rfl

@[simp] theorem State.post_currentSlot (s : State) (p : Port) (k : NoticeKind) :
    (s.post p k).currentSlot = s.currentSlot := rfl

@[simp] theorem State.post_slotX (s : State) (p : Port) (k : NoticeKind) : (s.post p k).slotX = s.slotX := rfl

@[simp] theorem State.post_slotY (s : State) (p : Port) (k : NoticeKind) : (s.post p k).slotY = s.slotY := rfl

@[simp] theorem State.post_staged (s : State) (p : Port) (k : NoticeKind) : (s.post p k).staged = s.staged := rfl

@[simp] theorem State.post_commitImage (s : State) (p : Port) (k : NoticeKind) :
    (s.post p k).commitImage = s.commitImage := rfl

@[simp] theorem State.post_supply (s : State) (p : Port) (k : NoticeKind) : (s.post p k).supply = s.supply := rfl

@[simp] theorem State.post_device (s : State) (p : Port) (k : NoticeKind) : (s.post p k).device = s.device := rfl

@[simp] theorem State.post_startUpSteps (s : State) (p : Port) (k : NoticeKind) : (s.post p k).startUpSteps = s.startUpSteps := rfl

@[simp] theorem State.post_resetLow (s : State) (p : Port) (k : NoticeKind) :
    (s.post p k).resetLow = s.resetLow := rfl

@[simp] theorem State.post_interrupted (s : State) (p : Port) (k : NoticeKind) :
    (s.post p k).interrupted = s.interrupted := rfl

@[simp] theorem State.post_stopping (s : State) (p : Port) (k : NoticeKind) :
    (s.post p k).stopping = s.stopping := rfl

@[simp] theorem State.post_mapDefaulted (s : State) (p : Port) (k : NoticeKind) :
    (s.post p k).mapDefaulted = s.mapDefaulted := rfl

@[simp] theorem State.post_region (s : State) (p : Port) (k : NoticeKind) (j : Nat) :
    (s.post p k).region j = s.region j := rfl

@[simp] theorem State.postAll_pending (s : State) (k : NoticeKind) : (s.postAll k).pending = s.pending := rfl

@[simp] theorem State.postAll_inputs (s : State) (k : NoticeKind) : (s.postAll k).inputs = s.inputs := rfl

@[simp] theorem State.postAll_mem (s : State) (k : NoticeKind) : (s.postAll k).mem = s.mem := rfl

@[simp] theorem State.postAll_unsettled (s : State) (k : NoticeKind) : (s.postAll k).unsettled = s.unsettled := rfl

@[simp] theorem State.postAll_freeIndex (s : State) (k : NoticeKind) : (s.postAll k).freeIndex = s.freeIndex := rfl

@[simp] theorem State.postAll_holders (s : State) (k : NoticeKind) : (s.postAll k).holders = s.holders := rfl

@[simp] theorem State.postAll_queue (s : State) (k : NoticeKind) : (s.postAll k).queue = s.queue := rfl

@[simp] theorem State.postAll_arrival (s : State) (k : NoticeKind) : (s.postAll k).arrival = s.arrival := rfl

@[simp] theorem State.postAll_engine (s : State) (k : NoticeKind) : (s.postAll k).engine = s.engine := rfl

@[simp] theorem State.postAll_window (s : State) (k : NoticeKind) : (s.postAll k).window = s.window := rfl

@[simp] theorem State.postAll_noted (s : State) (k : NoticeKind) : (s.postAll k).noted = s.noted := rfl

@[simp] theorem State.postAll_regions (s : State) (k : NoticeKind) : (s.postAll k).regions = s.regions := rfl

@[simp] theorem State.postAll_leaseClock (s : State) (k : NoticeKind) :
    (s.postAll k).leaseClock = s.leaseClock := rfl

@[simp] theorem State.postAll_buffers (s : State) (k : NoticeKind) : (s.postAll k).buffers = s.buffers := rfl

@[simp] theorem State.postAll_authority (s : State) (k : NoticeKind) : (s.postAll k).authority = s.authority := rfl

@[simp] theorem State.postAll_generation (s : State) (k : NoticeKind) :
    (s.postAll k).generation = s.generation := rfl

@[simp] theorem State.postAll_currentSlot (s : State) (k : NoticeKind) :
    (s.postAll k).currentSlot = s.currentSlot := rfl

@[simp] theorem State.postAll_slotX (s : State) (k : NoticeKind) : (s.postAll k).slotX = s.slotX := rfl

@[simp] theorem State.postAll_slotY (s : State) (k : NoticeKind) : (s.postAll k).slotY = s.slotY := rfl

@[simp] theorem State.postAll_staged (s : State) (k : NoticeKind) : (s.postAll k).staged = s.staged := rfl

@[simp] theorem State.postAll_commitImage (s : State) (k : NoticeKind) :
    (s.postAll k).commitImage = s.commitImage := rfl

@[simp] theorem State.postAll_supply (s : State) (k : NoticeKind) : (s.postAll k).supply = s.supply := rfl

@[simp] theorem State.postAll_device (s : State) (k : NoticeKind) : (s.postAll k).device = s.device := rfl

@[simp] theorem State.postAll_startUpSteps (s : State) (k : NoticeKind) : (s.postAll k).startUpSteps = s.startUpSteps := rfl

@[simp] theorem State.postAll_resetLow (s : State) (k : NoticeKind) : (s.postAll k).resetLow = s.resetLow := rfl

@[simp] theorem State.postAll_interrupted (s : State) (k : NoticeKind) :
    (s.postAll k).interrupted = s.interrupted := rfl

@[simp] theorem State.postAll_stopping (s : State) (k : NoticeKind) :
    (s.postAll k).stopping = s.stopping := rfl

@[simp] theorem State.postAll_mapDefaulted (s : State) (k : NoticeKind) :
    (s.postAll k).mapDefaulted = s.mapDefaulted := rfl

@[simp] theorem State.postAll_region (s : State) (k : NoticeKind) (j : Nat) :
    (s.postAll k).region j = s.region j := rfl

@[simp] theorem State.setHandle_pending (s : State) (p : Port) (h : Byte) (v : Option Nat) :
    (s.setHandle p h v).pending = s.pending := rfl

@[simp] theorem State.setHandle_inputs (s : State) (p : Port) (h : Byte) (v : Option Nat) :
    (s.setHandle p h v).inputs = s.inputs := rfl

@[simp] theorem State.setHandle_mem (s : State) (p : Port) (h : Byte) (v : Option Nat) :
    (s.setHandle p h v).mem = s.mem := rfl

@[simp] theorem State.setHandle_unsettled (s : State) (p : Port) (h : Byte) (v : Option Nat) :
    (s.setHandle p h v).unsettled = s.unsettled := rfl

@[simp] theorem State.setHandle_freeIndex (s : State) (p : Port) (h : Byte) (v : Option Nat) :
    (s.setHandle p h v).freeIndex = s.freeIndex := rfl

@[simp] theorem State.setHandle_holders (s : State) (p : Port) (h : Byte) (v : Option Nat) :
    (s.setHandle p h v).holders = s.holders := rfl

@[simp] theorem State.setHandle_queue (s : State) (p : Port) (h : Byte) (v : Option Nat) :
    (s.setHandle p h v).queue = s.queue := rfl

@[simp] theorem State.setHandle_arrival (s : State) (p : Port) (h : Byte) (v : Option Nat) :
    (s.setHandle p h v).arrival = s.arrival := rfl

@[simp] theorem State.setHandle_engine (s : State) (p : Port) (h : Byte) (v : Option Nat) :
    (s.setHandle p h v).engine = s.engine := rfl

@[simp] theorem State.setHandle_window (s : State) (p : Port) (h : Byte) (v : Option Nat) :
    (s.setHandle p h v).window = s.window := rfl

@[simp] theorem State.setHandle_noted (s : State) (p : Port) (h : Byte) (v : Option Nat) :
    (s.setHandle p h v).noted = s.noted := rfl

@[simp] theorem State.setHandle_regions (s : State) (p : Port) (h : Byte) (v : Option Nat) :
    (s.setHandle p h v).regions = s.regions := rfl

@[simp] theorem State.setHandle_leaseClock (s : State) (p : Port) (h : Byte) (v : Option Nat) :
    (s.setHandle p h v).leaseClock = s.leaseClock := rfl

@[simp] theorem State.setHandle_buffers (s : State) (p : Port) (h : Byte) (v : Option Nat) :
    (s.setHandle p h v).buffers = s.buffers := rfl

@[simp] theorem State.setHandle_authority (s : State) (p : Port) (h : Byte) (v : Option Nat) :
    (s.setHandle p h v).authority = s.authority := rfl

@[simp] theorem State.setHandle_generation (s : State) (p : Port) (h : Byte) (v : Option Nat) :
    (s.setHandle p h v).generation = s.generation := rfl

@[simp] theorem State.setHandle_currentSlot (s : State) (p : Port) (h : Byte) (v : Option Nat) :
    (s.setHandle p h v).currentSlot = s.currentSlot := rfl

@[simp] theorem State.setHandle_slotX (s : State) (p : Port) (h : Byte) (v : Option Nat) :
    (s.setHandle p h v).slotX = s.slotX := rfl

@[simp] theorem State.setHandle_slotY (s : State) (p : Port) (h : Byte) (v : Option Nat) :
    (s.setHandle p h v).slotY = s.slotY := rfl

@[simp] theorem State.setHandle_staged (s : State) (p : Port) (h : Byte) (v : Option Nat) :
    (s.setHandle p h v).staged = s.staged := rfl

@[simp] theorem State.setHandle_commitImage (s : State) (p : Port) (h : Byte) (v : Option Nat) :
    (s.setHandle p h v).commitImage = s.commitImage := rfl

@[simp] theorem State.setHandle_supply (s : State) (p : Port) (h : Byte) (v : Option Nat) :
    (s.setHandle p h v).supply = s.supply := rfl

@[simp] theorem State.setHandle_device (s : State) (p : Port) (h : Byte) (v : Option Nat) :
    (s.setHandle p h v).device = s.device := rfl

@[simp] theorem State.setHandle_startUpSteps (s : State) (p : Port) (h : Byte) (v : Option Nat) :
    (s.setHandle p h v).startUpSteps = s.startUpSteps := rfl

@[simp] theorem State.setHandle_resetLow (s : State) (p : Port) (h : Byte) (v : Option Nat) :
    (s.setHandle p h v).resetLow = s.resetLow := rfl

@[simp] theorem State.setHandle_interrupted (s : State) (p : Port) (h : Byte) (v : Option Nat) :
    (s.setHandle p h v).interrupted = s.interrupted := rfl

@[simp] theorem State.setHandle_stopping (s : State) (p : Port) (h : Byte) (v : Option Nat) :
    (s.setHandle p h v).stopping = s.stopping := rfl

@[simp] theorem State.setHandle_mapDefaulted (s : State) (p : Port) (h : Byte) (v : Option Nat) :
    (s.setHandle p h v).mapDefaulted = s.mapDefaulted := rfl

@[simp] theorem State.setHandle_region (s : State) (p : Port) (h : Byte) (v : Option Nat) (j : Nat) :
    (s.setHandle p h v).region j = s.region j := rfl

@[simp] theorem State.postRecord_pending (s : State) (e : Entry) (x : Status) :
    (s.postRecord e x).pending = s.pending := rfl

@[simp] theorem State.postRecord_inputs (s : State) (e : Entry) (x : Status) :
    (s.postRecord e x).inputs = s.inputs := rfl

@[simp] theorem State.postRecord_mem (s : State) (e : Entry) (x : Status) : (s.postRecord e x).mem = s.mem := rfl

@[simp] theorem State.postRecord_unsettled (s : State) (e : Entry) (x : Status) :
    (s.postRecord e x).unsettled = s.unsettled := rfl

@[simp] theorem State.postRecord_freeIndex (s : State) (e : Entry) (x : Status) :
    (s.postRecord e x).freeIndex = s.freeIndex := rfl

@[simp] theorem State.postRecord_holders (s : State) (e : Entry) (x : Status) :
    (s.postRecord e x).holders = s.holders := rfl

@[simp] theorem State.postRecord_queue (s : State) (e : Entry) (x : Status) :
    (s.postRecord e x).queue = s.queue := rfl

@[simp] theorem State.postRecord_arrival (s : State) (e : Entry) (x : Status) :
    (s.postRecord e x).arrival = s.arrival := rfl

@[simp] theorem State.postRecord_engine (s : State) (e : Entry) (x : Status) :
    (s.postRecord e x).engine = s.engine := rfl

@[simp] theorem State.postRecord_window (s : State) (e : Entry) (x : Status) :
    (s.postRecord e x).window = s.window := rfl

@[simp] theorem State.postRecord_noted (s : State) (e : Entry) (x : Status) :
    (s.postRecord e x).noted = s.noted := rfl

@[simp] theorem State.postRecord_regions (s : State) (e : Entry) (x : Status) :
    (s.postRecord e x).regions = s.regions := rfl

@[simp] theorem State.postRecord_leaseClock (s : State) (e : Entry) (x : Status) :
    (s.postRecord e x).leaseClock = s.leaseClock := rfl

@[simp] theorem State.postRecord_buffers (s : State) (e : Entry) (x : Status) :
    (s.postRecord e x).buffers = s.buffers := rfl

@[simp] theorem State.postRecord_authority (s : State) (e : Entry) (x : Status) :
    (s.postRecord e x).authority = s.authority := rfl

@[simp] theorem State.postRecord_generation (s : State) (e : Entry) (x : Status) :
    (s.postRecord e x).generation = s.generation := rfl

@[simp] theorem State.postRecord_currentSlot (s : State) (e : Entry) (x : Status) :
    (s.postRecord e x).currentSlot = s.currentSlot := rfl

@[simp] theorem State.postRecord_slotX (s : State) (e : Entry) (x : Status) :
    (s.postRecord e x).slotX = s.slotX := rfl

@[simp] theorem State.postRecord_slotY (s : State) (e : Entry) (x : Status) :
    (s.postRecord e x).slotY = s.slotY := rfl

@[simp] theorem State.postRecord_staged (s : State) (e : Entry) (x : Status) :
    (s.postRecord e x).staged = s.staged := rfl

@[simp] theorem State.postRecord_commitImage (s : State) (e : Entry) (x : Status) :
    (s.postRecord e x).commitImage = s.commitImage := rfl

@[simp] theorem State.postRecord_supply (s : State) (e : Entry) (x : Status) :
    (s.postRecord e x).supply = s.supply := rfl

@[simp] theorem State.postRecord_device (s : State) (e : Entry) (x : Status) :
    (s.postRecord e x).device = s.device := rfl

@[simp] theorem State.postRecord_startUpSteps (s : State) (e : Entry) (x : Status) :
    (s.postRecord e x).startUpSteps = s.startUpSteps := rfl

@[simp] theorem State.postRecord_resetLow (s : State) (e : Entry) (x : Status) :
    (s.postRecord e x).resetLow = s.resetLow := rfl

@[simp] theorem State.postRecord_interrupted (s : State) (e : Entry) (x : Status) :
    (s.postRecord e x).interrupted = s.interrupted := rfl

@[simp] theorem State.postRecord_stopping (s : State) (e : Entry) (x : Status) :
    (s.postRecord e x).stopping = s.stopping := rfl

@[simp] theorem State.postRecord_mapDefaulted (s : State) (e : Entry) (x : Status) :
    (s.postRecord e x).mapDefaulted = s.mapDefaulted := rfl

@[simp] theorem State.postRecord_region (s : State) (e : Entry) (x : Status) (j : Nat) :
    (s.postRecord e x).region j = s.region j := rfl

@[simp] theorem State.loadProfiles_pending (s : State) (v : PerPort Profile) :
    (s.loadProfiles v).pending = s.pending := rfl

@[simp] theorem State.loadProfiles_inputs (s : State) (v : PerPort Profile) :
    (s.loadProfiles v).inputs = s.inputs := rfl

@[simp] theorem State.loadProfiles_mem (s : State) (v : PerPort Profile) : (s.loadProfiles v).mem = s.mem := rfl

@[simp] theorem State.loadProfiles_unsettled (s : State) (v : PerPort Profile) :
    (s.loadProfiles v).unsettled = s.unsettled := rfl

@[simp] theorem State.loadProfiles_freeIndex (s : State) (v : PerPort Profile) :
    (s.loadProfiles v).freeIndex = s.freeIndex := rfl

@[simp] theorem State.loadProfiles_holders (s : State) (v : PerPort Profile) :
    (s.loadProfiles v).holders = s.holders := rfl

@[simp] theorem State.loadProfiles_queue (s : State) (v : PerPort Profile) :
    (s.loadProfiles v).queue = s.queue := rfl

@[simp] theorem State.loadProfiles_arrival (s : State) (v : PerPort Profile) :
    (s.loadProfiles v).arrival = s.arrival := rfl

@[simp] theorem State.loadProfiles_engine (s : State) (v : PerPort Profile) :
    (s.loadProfiles v).engine = s.engine := rfl

@[simp] theorem State.loadProfiles_window (s : State) (v : PerPort Profile) :
    (s.loadProfiles v).window = s.window := rfl

@[simp] theorem State.loadProfiles_noted (s : State) (v : PerPort Profile) :
    (s.loadProfiles v).noted = s.noted := rfl

@[simp] theorem State.loadProfiles_regions (s : State) (v : PerPort Profile) :
    (s.loadProfiles v).regions = s.regions := rfl

@[simp] theorem State.loadProfiles_leaseClock (s : State) (v : PerPort Profile) :
    (s.loadProfiles v).leaseClock = s.leaseClock := rfl

@[simp] theorem State.loadProfiles_buffers (s : State) (v : PerPort Profile) :
    (s.loadProfiles v).buffers = s.buffers := rfl

@[simp] theorem State.loadProfiles_authority (s : State) (v : PerPort Profile) :
    (s.loadProfiles v).authority = s.authority := rfl

@[simp] theorem State.loadProfiles_generation (s : State) (v : PerPort Profile) :
    (s.loadProfiles v).generation = s.generation := rfl

@[simp] theorem State.loadProfiles_currentSlot (s : State) (v : PerPort Profile) :
    (s.loadProfiles v).currentSlot = s.currentSlot := rfl

@[simp] theorem State.loadProfiles_slotX (s : State) (v : PerPort Profile) :
    (s.loadProfiles v).slotX = s.slotX := rfl

@[simp] theorem State.loadProfiles_slotY (s : State) (v : PerPort Profile) :
    (s.loadProfiles v).slotY = s.slotY := rfl

@[simp] theorem State.loadProfiles_staged (s : State) (v : PerPort Profile) :
    (s.loadProfiles v).staged = s.staged := rfl

@[simp] theorem State.loadProfiles_commitImage (s : State) (v : PerPort Profile) :
    (s.loadProfiles v).commitImage = s.commitImage := rfl

@[simp] theorem State.loadProfiles_supply (s : State) (v : PerPort Profile) :
    (s.loadProfiles v).supply = s.supply := rfl

@[simp] theorem State.loadProfiles_device (s : State) (v : PerPort Profile) :
    (s.loadProfiles v).device = s.device := rfl

@[simp] theorem State.loadProfiles_startUpSteps (s : State) (v : PerPort Profile) :
    (s.loadProfiles v).startUpSteps = s.startUpSteps := rfl

@[simp] theorem State.loadProfiles_resetLow (s : State) (v : PerPort Profile) :
    (s.loadProfiles v).resetLow = s.resetLow := rfl

@[simp] theorem State.loadProfiles_interrupted (s : State) (v : PerPort Profile) :
    (s.loadProfiles v).interrupted = s.interrupted := rfl

@[simp] theorem State.loadProfiles_stopping (s : State) (v : PerPort Profile) :
    (s.loadProfiles v).stopping = s.stopping := rfl

@[simp] theorem State.loadProfiles_mapDefaulted (s : State) (v : PerPort Profile) :
    (s.loadProfiles v).mapDefaulted = s.mapDefaulted := rfl

@[simp] theorem State.loadProfiles_region (s : State) (v : PerPort Profile) (j : Nat) :
    (s.loadProfiles v).region j = s.region j := rfl

@[simp] theorem State.modifyRegion_pending (s : State) (i : Nat) (f : Region → Region) :
    (s.modifyRegion i f).pending = s.pending := rfl

@[simp] theorem State.modifyRegion_inputs (s : State) (i : Nat) (f : Region → Region) :
    (s.modifyRegion i f).inputs = s.inputs := rfl

@[simp] theorem State.modifyRegion_mem (s : State) (i : Nat) (f : Region → Region) :
    (s.modifyRegion i f).mem = s.mem := rfl

@[simp] theorem State.modifyRegion_unsettled (s : State) (i : Nat) (f : Region → Region) :
    (s.modifyRegion i f).unsettled = s.unsettled := rfl

@[simp] theorem State.modifyRegion_freeIndex (s : State) (i : Nat) (f : Region → Region) :
    (s.modifyRegion i f).freeIndex = s.freeIndex := rfl

@[simp] theorem State.modifyRegion_ports (s : State) (i : Nat) (f : Region → Region) :
    (s.modifyRegion i f).ports = s.ports := rfl

@[simp] theorem State.modifyRegion_holders (s : State) (i : Nat) (f : Region → Region) :
    (s.modifyRegion i f).holders = s.holders := rfl

@[simp] theorem State.modifyRegion_queue (s : State) (i : Nat) (f : Region → Region) :
    (s.modifyRegion i f).queue = s.queue := rfl

@[simp] theorem State.modifyRegion_arrival (s : State) (i : Nat) (f : Region → Region) :
    (s.modifyRegion i f).arrival = s.arrival := rfl

@[simp] theorem State.modifyRegion_engine (s : State) (i : Nat) (f : Region → Region) :
    (s.modifyRegion i f).engine = s.engine := rfl

@[simp] theorem State.modifyRegion_window (s : State) (i : Nat) (f : Region → Region) :
    (s.modifyRegion i f).window = s.window := rfl

@[simp] theorem State.modifyRegion_noted (s : State) (i : Nat) (f : Region → Region) :
    (s.modifyRegion i f).noted = s.noted := rfl

@[simp] theorem State.modifyRegion_leaseClock (s : State) (i : Nat) (f : Region → Region) :
    (s.modifyRegion i f).leaseClock = s.leaseClock := rfl

@[simp] theorem State.modifyRegion_buffers (s : State) (i : Nat) (f : Region → Region) :
    (s.modifyRegion i f).buffers = s.buffers := rfl

@[simp] theorem State.modifyRegion_authority (s : State) (i : Nat) (f : Region → Region) :
    (s.modifyRegion i f).authority = s.authority := rfl

@[simp] theorem State.modifyRegion_generation (s : State) (i : Nat) (f : Region → Region) :
    (s.modifyRegion i f).generation = s.generation := rfl

@[simp] theorem State.modifyRegion_currentSlot (s : State) (i : Nat) (f : Region → Region) :
    (s.modifyRegion i f).currentSlot = s.currentSlot := rfl

@[simp] theorem State.modifyRegion_slotX (s : State) (i : Nat) (f : Region → Region) :
    (s.modifyRegion i f).slotX = s.slotX := rfl

@[simp] theorem State.modifyRegion_slotY (s : State) (i : Nat) (f : Region → Region) :
    (s.modifyRegion i f).slotY = s.slotY := rfl

@[simp] theorem State.modifyRegion_staged (s : State) (i : Nat) (f : Region → Region) :
    (s.modifyRegion i f).staged = s.staged := rfl

@[simp] theorem State.modifyRegion_commitImage (s : State) (i : Nat) (f : Region → Region) :
    (s.modifyRegion i f).commitImage = s.commitImage := rfl

@[simp] theorem State.modifyRegion_supply (s : State) (i : Nat) (f : Region → Region) :
    (s.modifyRegion i f).supply = s.supply := rfl

@[simp] theorem State.modifyRegion_device (s : State) (i : Nat) (f : Region → Region) :
    (s.modifyRegion i f).device = s.device := rfl

@[simp] theorem State.modifyRegion_startUpSteps (s : State) (i : Nat) (f : Region → Region) :
    (s.modifyRegion i f).startUpSteps = s.startUpSteps := rfl

@[simp] theorem State.modifyRegion_resetLow (s : State) (i : Nat) (f : Region → Region) :
    (s.modifyRegion i f).resetLow = s.resetLow := rfl

@[simp] theorem State.modifyRegion_interrupted (s : State) (i : Nat) (f : Region → Region) :
    (s.modifyRegion i f).interrupted = s.interrupted := rfl

@[simp] theorem State.modifyRegion_stopping (s : State) (i : Nat) (f : Region → Region) :
    (s.modifyRegion i f).stopping = s.stopping := rfl

@[simp] theorem State.modifyRegion_mapDefaulted (s : State) (i : Nat) (f : Region → Region) :
    (s.modifyRegion i f).mapDefaulted = s.mapDefaulted := rfl

@[simp] theorem State.modifyRegion_port (s : State) (i : Nat) (f : Region → Region) (q : Port) :
    (s.modifyRegion i f).port q = s.port q := rfl

@[simp] theorem State.modifyLease_pending (s : State) (i : Nat) (f : Lease → Lease) :
    (s.modifyLease i f).pending = s.pending := rfl

@[simp] theorem State.modifyLease_inputs (s : State) (i : Nat) (f : Lease → Lease) :
    (s.modifyLease i f).inputs = s.inputs := rfl

@[simp] theorem State.modifyLease_mem (s : State) (i : Nat) (f : Lease → Lease) :
    (s.modifyLease i f).mem = s.mem := rfl

@[simp] theorem State.modifyLease_unsettled (s : State) (i : Nat) (f : Lease → Lease) :
    (s.modifyLease i f).unsettled = s.unsettled := rfl

@[simp] theorem State.modifyLease_freeIndex (s : State) (i : Nat) (f : Lease → Lease) :
    (s.modifyLease i f).freeIndex = s.freeIndex := rfl

@[simp] theorem State.modifyLease_ports (s : State) (i : Nat) (f : Lease → Lease) :
    (s.modifyLease i f).ports = s.ports := rfl

@[simp] theorem State.modifyLease_holders (s : State) (i : Nat) (f : Lease → Lease) :
    (s.modifyLease i f).holders = s.holders := rfl

@[simp] theorem State.modifyLease_queue (s : State) (i : Nat) (f : Lease → Lease) :
    (s.modifyLease i f).queue = s.queue := rfl

@[simp] theorem State.modifyLease_arrival (s : State) (i : Nat) (f : Lease → Lease) :
    (s.modifyLease i f).arrival = s.arrival := rfl

@[simp] theorem State.modifyLease_engine (s : State) (i : Nat) (f : Lease → Lease) :
    (s.modifyLease i f).engine = s.engine := rfl

@[simp] theorem State.modifyLease_window (s : State) (i : Nat) (f : Lease → Lease) :
    (s.modifyLease i f).window = s.window := rfl

@[simp] theorem State.modifyLease_noted (s : State) (i : Nat) (f : Lease → Lease) :
    (s.modifyLease i f).noted = s.noted := rfl

@[simp] theorem State.modifyLease_leaseClock (s : State) (i : Nat) (f : Lease → Lease) :
    (s.modifyLease i f).leaseClock = s.leaseClock := rfl

@[simp] theorem State.modifyLease_buffers (s : State) (i : Nat) (f : Lease → Lease) :
    (s.modifyLease i f).buffers = s.buffers := rfl

@[simp] theorem State.modifyLease_authority (s : State) (i : Nat) (f : Lease → Lease) :
    (s.modifyLease i f).authority = s.authority := rfl

@[simp] theorem State.modifyLease_generation (s : State) (i : Nat) (f : Lease → Lease) :
    (s.modifyLease i f).generation = s.generation := rfl

@[simp] theorem State.modifyLease_currentSlot (s : State) (i : Nat) (f : Lease → Lease) :
    (s.modifyLease i f).currentSlot = s.currentSlot := rfl

@[simp] theorem State.modifyLease_slotX (s : State) (i : Nat) (f : Lease → Lease) :
    (s.modifyLease i f).slotX = s.slotX := rfl

@[simp] theorem State.modifyLease_slotY (s : State) (i : Nat) (f : Lease → Lease) :
    (s.modifyLease i f).slotY = s.slotY := rfl

@[simp] theorem State.modifyLease_staged (s : State) (i : Nat) (f : Lease → Lease) :
    (s.modifyLease i f).staged = s.staged := rfl

@[simp] theorem State.modifyLease_commitImage (s : State) (i : Nat) (f : Lease → Lease) :
    (s.modifyLease i f).commitImage = s.commitImage := rfl

@[simp] theorem State.modifyLease_supply (s : State) (i : Nat) (f : Lease → Lease) :
    (s.modifyLease i f).supply = s.supply := rfl

@[simp] theorem State.modifyLease_device (s : State) (i : Nat) (f : Lease → Lease) :
    (s.modifyLease i f).device = s.device := rfl

@[simp] theorem State.modifyLease_startUpSteps (s : State) (i : Nat) (f : Lease → Lease) :
    (s.modifyLease i f).startUpSteps = s.startUpSteps := rfl

@[simp] theorem State.modifyLease_resetLow (s : State) (i : Nat) (f : Lease → Lease) :
    (s.modifyLease i f).resetLow = s.resetLow := rfl

@[simp] theorem State.modifyLease_interrupted (s : State) (i : Nat) (f : Lease → Lease) :
    (s.modifyLease i f).interrupted = s.interrupted := rfl

@[simp] theorem State.modifyLease_stopping (s : State) (i : Nat) (f : Lease → Lease) :
    (s.modifyLease i f).stopping = s.stopping := rfl

@[simp] theorem State.modifyLease_mapDefaulted (s : State) (i : Nat) (f : Lease → Lease) :
    (s.modifyLease i f).mapDefaulted = s.mapDefaulted := rfl

@[simp] theorem State.modifyLease_port (s : State) (i : Nat) (f : Lease → Lease) (q : Port) :
    (s.modifyLease i f).port q = s.port q := rfl

@[simp] theorem State.modifyEntry_pending (s : State) (i : Nat) (f : Entry → Entry) :
    (s.modifyEntry i f).pending = s.pending := rfl

@[simp] theorem State.modifyEntry_inputs (s : State) (i : Nat) (f : Entry → Entry) :
    (s.modifyEntry i f).inputs = s.inputs := rfl

@[simp] theorem State.modifyEntry_mem (s : State) (i : Nat) (f : Entry → Entry) :
    (s.modifyEntry i f).mem = s.mem := rfl

@[simp] theorem State.modifyEntry_unsettled (s : State) (i : Nat) (f : Entry → Entry) :
    (s.modifyEntry i f).unsettled = s.unsettled := rfl

@[simp] theorem State.modifyEntry_freeIndex (s : State) (i : Nat) (f : Entry → Entry) :
    (s.modifyEntry i f).freeIndex = s.freeIndex := rfl

@[simp] theorem State.modifyEntry_ports (s : State) (i : Nat) (f : Entry → Entry) :
    (s.modifyEntry i f).ports = s.ports := rfl

@[simp] theorem State.modifyEntry_holders (s : State) (i : Nat) (f : Entry → Entry) :
    (s.modifyEntry i f).holders = s.holders := rfl

@[simp] theorem State.modifyEntry_arrival (s : State) (i : Nat) (f : Entry → Entry) :
    (s.modifyEntry i f).arrival = s.arrival := rfl

@[simp] theorem State.modifyEntry_engine (s : State) (i : Nat) (f : Entry → Entry) :
    (s.modifyEntry i f).engine = s.engine := rfl

@[simp] theorem State.modifyEntry_window (s : State) (i : Nat) (f : Entry → Entry) :
    (s.modifyEntry i f).window = s.window := rfl

@[simp] theorem State.modifyEntry_noted (s : State) (i : Nat) (f : Entry → Entry) :
    (s.modifyEntry i f).noted = s.noted := rfl

@[simp] theorem State.modifyEntry_regions (s : State) (i : Nat) (f : Entry → Entry) :
    (s.modifyEntry i f).regions = s.regions := rfl

@[simp] theorem State.modifyEntry_leaseClock (s : State) (i : Nat) (f : Entry → Entry) :
    (s.modifyEntry i f).leaseClock = s.leaseClock := rfl

@[simp] theorem State.modifyEntry_buffers (s : State) (i : Nat) (f : Entry → Entry) :
    (s.modifyEntry i f).buffers = s.buffers := rfl

@[simp] theorem State.modifyEntry_authority (s : State) (i : Nat) (f : Entry → Entry) :
    (s.modifyEntry i f).authority = s.authority := rfl

@[simp] theorem State.modifyEntry_generation (s : State) (i : Nat) (f : Entry → Entry) :
    (s.modifyEntry i f).generation = s.generation := rfl

@[simp] theorem State.modifyEntry_currentSlot (s : State) (i : Nat) (f : Entry → Entry) :
    (s.modifyEntry i f).currentSlot = s.currentSlot := rfl

@[simp] theorem State.modifyEntry_slotX (s : State) (i : Nat) (f : Entry → Entry) :
    (s.modifyEntry i f).slotX = s.slotX := rfl

@[simp] theorem State.modifyEntry_slotY (s : State) (i : Nat) (f : Entry → Entry) :
    (s.modifyEntry i f).slotY = s.slotY := rfl

@[simp] theorem State.modifyEntry_staged (s : State) (i : Nat) (f : Entry → Entry) :
    (s.modifyEntry i f).staged = s.staged := rfl

@[simp] theorem State.modifyEntry_commitImage (s : State) (i : Nat) (f : Entry → Entry) :
    (s.modifyEntry i f).commitImage = s.commitImage := rfl

@[simp] theorem State.modifyEntry_supply (s : State) (i : Nat) (f : Entry → Entry) :
    (s.modifyEntry i f).supply = s.supply := rfl

@[simp] theorem State.modifyEntry_device (s : State) (i : Nat) (f : Entry → Entry) :
    (s.modifyEntry i f).device = s.device := rfl

@[simp] theorem State.modifyEntry_startUpSteps (s : State) (i : Nat) (f : Entry → Entry) :
    (s.modifyEntry i f).startUpSteps = s.startUpSteps := rfl

@[simp] theorem State.modifyEntry_resetLow (s : State) (i : Nat) (f : Entry → Entry) :
    (s.modifyEntry i f).resetLow = s.resetLow := rfl

@[simp] theorem State.modifyEntry_interrupted (s : State) (i : Nat) (f : Entry → Entry) :
    (s.modifyEntry i f).interrupted = s.interrupted := rfl

@[simp] theorem State.modifyEntry_stopping (s : State) (i : Nat) (f : Entry → Entry) :
    (s.modifyEntry i f).stopping = s.stopping := rfl

@[simp] theorem State.modifyEntry_mapDefaulted (s : State) (i : Nat) (f : Entry → Entry) :
    (s.modifyEntry i f).mapDefaulted = s.mapDefaulted := rfl

@[simp] theorem State.modifyEntry_port (s : State) (i : Nat) (f : Entry → Entry) (q : Port) :
    (s.modifyEntry i f).port q = s.port q := rfl

@[simp] theorem State.modifyEntry_region (s : State) (i : Nat) (f : Entry → Entry) (j : Nat) :
    (s.modifyEntry i f).region j = s.region j := rfl

@[simp] theorem State.modifyBuffer_pending (s : State) (b : Nat) (f : Buffer → Buffer) :
    (s.modifyBuffer b f).pending = s.pending := rfl

@[simp] theorem State.modifyBuffer_inputs (s : State) (b : Nat) (f : Buffer → Buffer) :
    (s.modifyBuffer b f).inputs = s.inputs := rfl

@[simp] theorem State.modifyBuffer_mem (s : State) (b : Nat) (f : Buffer → Buffer) :
    (s.modifyBuffer b f).mem = s.mem := rfl

@[simp] theorem State.modifyBuffer_unsettled (s : State) (b : Nat) (f : Buffer → Buffer) :
    (s.modifyBuffer b f).unsettled = s.unsettled := rfl

@[simp] theorem State.modifyBuffer_freeIndex (s : State) (b : Nat) (f : Buffer → Buffer) :
    (s.modifyBuffer b f).freeIndex = s.freeIndex := rfl

@[simp] theorem State.modifyBuffer_ports (s : State) (b : Nat) (f : Buffer → Buffer) :
    (s.modifyBuffer b f).ports = s.ports := rfl

@[simp] theorem State.modifyBuffer_holders (s : State) (b : Nat) (f : Buffer → Buffer) :
    (s.modifyBuffer b f).holders = s.holders := rfl

@[simp] theorem State.modifyBuffer_queue (s : State) (b : Nat) (f : Buffer → Buffer) :
    (s.modifyBuffer b f).queue = s.queue := rfl

@[simp] theorem State.modifyBuffer_arrival (s : State) (b : Nat) (f : Buffer → Buffer) :
    (s.modifyBuffer b f).arrival = s.arrival := rfl

@[simp] theorem State.modifyBuffer_engine (s : State) (b : Nat) (f : Buffer → Buffer) :
    (s.modifyBuffer b f).engine = s.engine := rfl

@[simp] theorem State.modifyBuffer_window (s : State) (b : Nat) (f : Buffer → Buffer) :
    (s.modifyBuffer b f).window = s.window := rfl

@[simp] theorem State.modifyBuffer_noted (s : State) (b : Nat) (f : Buffer → Buffer) :
    (s.modifyBuffer b f).noted = s.noted := rfl

@[simp] theorem State.modifyBuffer_regions (s : State) (b : Nat) (f : Buffer → Buffer) :
    (s.modifyBuffer b f).regions = s.regions := rfl

@[simp] theorem State.modifyBuffer_leaseClock (s : State) (b : Nat) (f : Buffer → Buffer) :
    (s.modifyBuffer b f).leaseClock = s.leaseClock := rfl

@[simp] theorem State.modifyBuffer_authority (s : State) (b : Nat) (f : Buffer → Buffer) :
    (s.modifyBuffer b f).authority = s.authority := rfl

@[simp] theorem State.modifyBuffer_generation (s : State) (b : Nat) (f : Buffer → Buffer) :
    (s.modifyBuffer b f).generation = s.generation := rfl

@[simp] theorem State.modifyBuffer_currentSlot (s : State) (b : Nat) (f : Buffer → Buffer) :
    (s.modifyBuffer b f).currentSlot = s.currentSlot := rfl

@[simp] theorem State.modifyBuffer_slotX (s : State) (b : Nat) (f : Buffer → Buffer) :
    (s.modifyBuffer b f).slotX = s.slotX := rfl

@[simp] theorem State.modifyBuffer_slotY (s : State) (b : Nat) (f : Buffer → Buffer) :
    (s.modifyBuffer b f).slotY = s.slotY := rfl

@[simp] theorem State.modifyBuffer_staged (s : State) (b : Nat) (f : Buffer → Buffer) :
    (s.modifyBuffer b f).staged = s.staged := rfl

@[simp] theorem State.modifyBuffer_commitImage (s : State) (b : Nat) (f : Buffer → Buffer) :
    (s.modifyBuffer b f).commitImage = s.commitImage := rfl

@[simp] theorem State.modifyBuffer_supply (s : State) (b : Nat) (f : Buffer → Buffer) :
    (s.modifyBuffer b f).supply = s.supply := rfl

@[simp] theorem State.modifyBuffer_device (s : State) (b : Nat) (f : Buffer → Buffer) :
    (s.modifyBuffer b f).device = s.device := rfl

@[simp] theorem State.modifyBuffer_startUpSteps (s : State) (b : Nat) (f : Buffer → Buffer) :
    (s.modifyBuffer b f).startUpSteps = s.startUpSteps := rfl

@[simp] theorem State.modifyBuffer_resetLow (s : State) (b : Nat) (f : Buffer → Buffer) :
    (s.modifyBuffer b f).resetLow = s.resetLow := rfl

@[simp] theorem State.modifyBuffer_interrupted (s : State) (b : Nat) (f : Buffer → Buffer) :
    (s.modifyBuffer b f).interrupted = s.interrupted := rfl

@[simp] theorem State.modifyBuffer_stopping (s : State) (b : Nat) (f : Buffer → Buffer) :
    (s.modifyBuffer b f).stopping = s.stopping := rfl

@[simp] theorem State.modifyBuffer_mapDefaulted (s : State) (b : Nat) (f : Buffer → Buffer) :
    (s.modifyBuffer b f).mapDefaulted = s.mapDefaulted := rfl

@[simp] theorem State.modifyBuffer_port (s : State) (b : Nat) (f : Buffer → Buffer) (q : Port) :
    (s.modifyBuffer b f).port q = s.port q := rfl

@[simp] theorem State.modifyBuffer_region (s : State) (b : Nat) (f : Buffer → Buffer) (j : Nat) :
    (s.modifyBuffer b f).region j = s.region j := rfl

@[simp] theorem State.holdBank_pending (s : State) (k : Fin 4) : (s.holdBank k).pending = s.pending := rfl

@[simp] theorem State.holdBank_inputs (s : State) (k : Fin 4) : (s.holdBank k).inputs = s.inputs := rfl

@[simp] theorem State.holdBank_mem (s : State) (k : Fin 4) : (s.holdBank k).mem = s.mem := rfl

@[simp] theorem State.holdBank_unsettled (s : State) (k : Fin 4) : (s.holdBank k).unsettled = s.unsettled := rfl

@[simp] theorem State.holdBank_freeIndex (s : State) (k : Fin 4) : (s.holdBank k).freeIndex = s.freeIndex := rfl

@[simp] theorem State.holdBank_ports (s : State) (k : Fin 4) : (s.holdBank k).ports = s.ports := rfl

@[simp] theorem State.holdBank_queue (s : State) (k : Fin 4) : (s.holdBank k).queue = s.queue := rfl

@[simp] theorem State.holdBank_arrival (s : State) (k : Fin 4) : (s.holdBank k).arrival = s.arrival := rfl

@[simp] theorem State.holdBank_engine (s : State) (k : Fin 4) : (s.holdBank k).engine = s.engine := rfl

@[simp] theorem State.holdBank_window (s : State) (k : Fin 4) : (s.holdBank k).window = s.window := rfl

@[simp] theorem State.holdBank_noted (s : State) (k : Fin 4) : (s.holdBank k).noted = s.noted := rfl

@[simp] theorem State.holdBank_regions (s : State) (k : Fin 4) : (s.holdBank k).regions = s.regions := rfl

@[simp] theorem State.holdBank_leaseClock (s : State) (k : Fin 4) : (s.holdBank k).leaseClock = s.leaseClock := rfl

@[simp] theorem State.holdBank_buffers (s : State) (k : Fin 4) : (s.holdBank k).buffers = s.buffers := rfl

@[simp] theorem State.holdBank_authority (s : State) (k : Fin 4) : (s.holdBank k).authority = s.authority := rfl

@[simp] theorem State.holdBank_generation (s : State) (k : Fin 4) : (s.holdBank k).generation = s.generation := rfl

@[simp] theorem State.holdBank_currentSlot (s : State) (k : Fin 4) :
    (s.holdBank k).currentSlot = s.currentSlot := rfl

@[simp] theorem State.holdBank_slotX (s : State) (k : Fin 4) : (s.holdBank k).slotX = s.slotX := rfl

@[simp] theorem State.holdBank_slotY (s : State) (k : Fin 4) : (s.holdBank k).slotY = s.slotY := rfl

@[simp] theorem State.holdBank_staged (s : State) (k : Fin 4) : (s.holdBank k).staged = s.staged := rfl

@[simp] theorem State.holdBank_commitImage (s : State) (k : Fin 4) :
    (s.holdBank k).commitImage = s.commitImage := rfl

@[simp] theorem State.holdBank_supply (s : State) (k : Fin 4) : (s.holdBank k).supply = s.supply := rfl

@[simp] theorem State.holdBank_device (s : State) (k : Fin 4) : (s.holdBank k).device = s.device := rfl

@[simp] theorem State.holdBank_startUpSteps (s : State) (k : Fin 4) : (s.holdBank k).startUpSteps = s.startUpSteps := rfl

@[simp] theorem State.holdBank_resetLow (s : State) (k : Fin 4) : (s.holdBank k).resetLow = s.resetLow := rfl

@[simp] theorem State.holdBank_interrupted (s : State) (k : Fin 4) :
    (s.holdBank k).interrupted = s.interrupted := rfl

@[simp] theorem State.holdBank_stopping (s : State) (k : Fin 4) :
    (s.holdBank k).stopping = s.stopping := rfl

@[simp] theorem State.holdBank_mapDefaulted (s : State) (k : Fin 4) :
    (s.holdBank k).mapDefaulted = s.mapDefaulted := rfl

@[simp] theorem State.holdBank_port (s : State) (k : Fin 4) (q : Port) :
    (s.holdBank k).port q = s.port q := rfl

@[simp] theorem State.holdBank_region (s : State) (k : Fin 4) (j : Nat) :
    (s.holdBank k).region j = s.region j := rfl

@[simp] theorem State.releaseBank_pending (s : State) (k : Fin 4) : (s.releaseBank k).pending = s.pending := rfl

@[simp] theorem State.releaseBank_inputs (s : State) (k : Fin 4) : (s.releaseBank k).inputs = s.inputs := rfl

@[simp] theorem State.releaseBank_mem (s : State) (k : Fin 4) : (s.releaseBank k).mem = s.mem := rfl

@[simp] theorem State.releaseBank_unsettled (s : State) (k : Fin 4) :
    (s.releaseBank k).unsettled = s.unsettled := rfl

@[simp] theorem State.releaseBank_freeIndex (s : State) (k : Fin 4) :
    (s.releaseBank k).freeIndex = s.freeIndex := rfl

@[simp] theorem State.releaseBank_ports (s : State) (k : Fin 4) : (s.releaseBank k).ports = s.ports := rfl

@[simp] theorem State.releaseBank_queue (s : State) (k : Fin 4) : (s.releaseBank k).queue = s.queue := rfl

@[simp] theorem State.releaseBank_arrival (s : State) (k : Fin 4) : (s.releaseBank k).arrival = s.arrival := rfl

@[simp] theorem State.releaseBank_engine (s : State) (k : Fin 4) : (s.releaseBank k).engine = s.engine := rfl

@[simp] theorem State.releaseBank_window (s : State) (k : Fin 4) : (s.releaseBank k).window = s.window := rfl

@[simp] theorem State.releaseBank_noted (s : State) (k : Fin 4) : (s.releaseBank k).noted = s.noted := rfl

@[simp] theorem State.releaseBank_regions (s : State) (k : Fin 4) : (s.releaseBank k).regions = s.regions := rfl

@[simp] theorem State.releaseBank_leaseClock (s : State) (k : Fin 4) :
    (s.releaseBank k).leaseClock = s.leaseClock := rfl

@[simp] theorem State.releaseBank_buffers (s : State) (k : Fin 4) : (s.releaseBank k).buffers = s.buffers := rfl

@[simp] theorem State.releaseBank_authority (s : State) (k : Fin 4) :
    (s.releaseBank k).authority = s.authority := rfl

@[simp] theorem State.releaseBank_generation (s : State) (k : Fin 4) :
    (s.releaseBank k).generation = s.generation := rfl

@[simp] theorem State.releaseBank_currentSlot (s : State) (k : Fin 4) :
    (s.releaseBank k).currentSlot = s.currentSlot := rfl

@[simp] theorem State.releaseBank_slotX (s : State) (k : Fin 4) : (s.releaseBank k).slotX = s.slotX := rfl

@[simp] theorem State.releaseBank_slotY (s : State) (k : Fin 4) : (s.releaseBank k).slotY = s.slotY := rfl

@[simp] theorem State.releaseBank_staged (s : State) (k : Fin 4) : (s.releaseBank k).staged = s.staged := rfl

@[simp] theorem State.releaseBank_commitImage (s : State) (k : Fin 4) :
    (s.releaseBank k).commitImage = s.commitImage := rfl

@[simp] theorem State.releaseBank_supply (s : State) (k : Fin 4) : (s.releaseBank k).supply = s.supply := rfl

@[simp] theorem State.releaseBank_device (s : State) (k : Fin 4) : (s.releaseBank k).device = s.device := rfl

@[simp] theorem State.releaseBank_startUpSteps (s : State) (k : Fin 4) : (s.releaseBank k).startUpSteps = s.startUpSteps := rfl

@[simp] theorem State.releaseBank_resetLow (s : State) (k : Fin 4) : (s.releaseBank k).resetLow = s.resetLow := rfl

@[simp] theorem State.releaseBank_interrupted (s : State) (k : Fin 4) :
    (s.releaseBank k).interrupted = s.interrupted := rfl

@[simp] theorem State.releaseBank_stopping (s : State) (k : Fin 4) :
    (s.releaseBank k).stopping = s.stopping := rfl

@[simp] theorem State.releaseBank_mapDefaulted (s : State) (k : Fin 4) :
    (s.releaseBank k).mapDefaulted = s.mapDefaulted := rfl

@[simp] theorem State.releaseBank_port (s : State) (k : Fin 4) (q : Port) :
    (s.releaseBank k).port q = s.port q := rfl

@[simp] theorem State.releaseBank_region (s : State) (k : Fin 4) (j : Nat) :
    (s.releaseBank k).region j = s.region j := rfl

@[simp] theorem State.unsettle_pending (s : State) (t : Target) : (s.unsettle t).pending = s.pending := rfl

@[simp] theorem State.unsettle_inputs (s : State) (t : Target) : (s.unsettle t).inputs = s.inputs := rfl

@[simp] theorem State.unsettle_mem (s : State) (t : Target) : (s.unsettle t).mem = s.mem := rfl

@[simp] theorem State.unsettle_freeIndex (s : State) (t : Target) : (s.unsettle t).freeIndex = s.freeIndex := rfl

@[simp] theorem State.unsettle_ports (s : State) (t : Target) : (s.unsettle t).ports = s.ports := rfl

@[simp] theorem State.unsettle_holders (s : State) (t : Target) : (s.unsettle t).holders = s.holders := rfl

@[simp] theorem State.unsettle_queue (s : State) (t : Target) : (s.unsettle t).queue = s.queue := rfl

@[simp] theorem State.unsettle_arrival (s : State) (t : Target) : (s.unsettle t).arrival = s.arrival := rfl

@[simp] theorem State.unsettle_engine (s : State) (t : Target) : (s.unsettle t).engine = s.engine := rfl

@[simp] theorem State.unsettle_window (s : State) (t : Target) : (s.unsettle t).window = s.window := rfl

@[simp] theorem State.unsettle_noted (s : State) (t : Target) : (s.unsettle t).noted = s.noted := rfl

@[simp] theorem State.unsettle_regions (s : State) (t : Target) : (s.unsettle t).regions = s.regions := rfl

@[simp] theorem State.unsettle_leaseClock (s : State) (t : Target) : (s.unsettle t).leaseClock = s.leaseClock := rfl

@[simp] theorem State.unsettle_buffers (s : State) (t : Target) : (s.unsettle t).buffers = s.buffers := rfl

@[simp] theorem State.unsettle_authority (s : State) (t : Target) : (s.unsettle t).authority = s.authority := rfl

@[simp] theorem State.unsettle_generation (s : State) (t : Target) : (s.unsettle t).generation = s.generation := rfl

@[simp] theorem State.unsettle_currentSlot (s : State) (t : Target) :
    (s.unsettle t).currentSlot = s.currentSlot := rfl

@[simp] theorem State.unsettle_slotX (s : State) (t : Target) : (s.unsettle t).slotX = s.slotX := rfl

@[simp] theorem State.unsettle_slotY (s : State) (t : Target) : (s.unsettle t).slotY = s.slotY := rfl

@[simp] theorem State.unsettle_staged (s : State) (t : Target) : (s.unsettle t).staged = s.staged := rfl

@[simp] theorem State.unsettle_commitImage (s : State) (t : Target) :
    (s.unsettle t).commitImage = s.commitImage := rfl

@[simp] theorem State.unsettle_supply (s : State) (t : Target) : (s.unsettle t).supply = s.supply := rfl

@[simp] theorem State.unsettle_device (s : State) (t : Target) : (s.unsettle t).device = s.device := rfl

@[simp] theorem State.unsettle_startUpSteps (s : State) (t : Target) : (s.unsettle t).startUpSteps = s.startUpSteps := rfl

@[simp] theorem State.unsettle_resetLow (s : State) (t : Target) : (s.unsettle t).resetLow = s.resetLow := rfl

@[simp] theorem State.unsettle_interrupted (s : State) (t : Target) :
    (s.unsettle t).interrupted = s.interrupted := rfl

@[simp] theorem State.unsettle_stopping (s : State) (t : Target) :
    (s.unsettle t).stopping = s.stopping := rfl

@[simp] theorem State.unsettle_mapDefaulted (s : State) (t : Target) :
    (s.unsettle t).mapDefaulted = s.mapDefaulted := rfl

@[simp] theorem State.unsettle_port (s : State) (t : Target) (q : Port) :
    (s.unsettle t).port q = s.port q := rfl

@[simp] theorem State.unsettle_region (s : State) (t : Target) (j : Nat) :
    (s.unsettle t).region j = s.region j := rfl

@[simp] theorem State.settle_pending (s : State) (t : Target) : (s.settle t).pending = s.pending := rfl

@[simp] theorem State.settle_inputs (s : State) (t : Target) : (s.settle t).inputs = s.inputs := rfl

@[simp] theorem State.settle_mem (s : State) (t : Target) : (s.settle t).mem = s.mem := rfl

@[simp] theorem State.settle_freeIndex (s : State) (t : Target) : (s.settle t).freeIndex = s.freeIndex := rfl

@[simp] theorem State.settle_ports (s : State) (t : Target) : (s.settle t).ports = s.ports := rfl

@[simp] theorem State.settle_holders (s : State) (t : Target) : (s.settle t).holders = s.holders := rfl

@[simp] theorem State.settle_queue (s : State) (t : Target) : (s.settle t).queue = s.queue := rfl

@[simp] theorem State.settle_arrival (s : State) (t : Target) : (s.settle t).arrival = s.arrival := rfl

@[simp] theorem State.settle_engine (s : State) (t : Target) : (s.settle t).engine = s.engine := rfl

@[simp] theorem State.settle_window (s : State) (t : Target) : (s.settle t).window = s.window := rfl

@[simp] theorem State.settle_noted (s : State) (t : Target) : (s.settle t).noted = s.noted := rfl

@[simp] theorem State.settle_regions (s : State) (t : Target) : (s.settle t).regions = s.regions := rfl

@[simp] theorem State.settle_leaseClock (s : State) (t : Target) : (s.settle t).leaseClock = s.leaseClock := rfl

@[simp] theorem State.settle_buffers (s : State) (t : Target) : (s.settle t).buffers = s.buffers := rfl

@[simp] theorem State.settle_authority (s : State) (t : Target) : (s.settle t).authority = s.authority := rfl

@[simp] theorem State.settle_generation (s : State) (t : Target) : (s.settle t).generation = s.generation := rfl

@[simp] theorem State.settle_currentSlot (s : State) (t : Target) : (s.settle t).currentSlot = s.currentSlot := rfl

@[simp] theorem State.settle_slotX (s : State) (t : Target) : (s.settle t).slotX = s.slotX := rfl

@[simp] theorem State.settle_slotY (s : State) (t : Target) : (s.settle t).slotY = s.slotY := rfl

@[simp] theorem State.settle_staged (s : State) (t : Target) : (s.settle t).staged = s.staged := rfl

@[simp] theorem State.settle_commitImage (s : State) (t : Target) : (s.settle t).commitImage = s.commitImage := rfl

@[simp] theorem State.settle_supply (s : State) (t : Target) : (s.settle t).supply = s.supply := rfl

@[simp] theorem State.settle_device (s : State) (t : Target) : (s.settle t).device = s.device := rfl

@[simp] theorem State.settle_startUpSteps (s : State) (t : Target) : (s.settle t).startUpSteps = s.startUpSteps := rfl

@[simp] theorem State.settle_resetLow (s : State) (t : Target) : (s.settle t).resetLow = s.resetLow := rfl

@[simp] theorem State.settle_interrupted (s : State) (t : Target) : (s.settle t).interrupted = s.interrupted := rfl

@[simp] theorem State.settle_stopping (s : State) (t : Target) : (s.settle t).stopping = s.stopping := rfl

@[simp] theorem State.settle_mapDefaulted (s : State) (t : Target) :
    (s.settle t).mapDefaulted = s.mapDefaulted := rfl

@[simp] theorem State.settle_port (s : State) (t : Target) (q : Port) :
    (s.settle t).port q = s.port q := rfl

@[simp] theorem State.settle_region (s : State) (t : Target) (j : Nat) :
    (s.settle t).region j = s.region j := rfl

end Sys2Proof.Machine
end

