-- ==== Sys2Proof/Laws/Frames.lean ====
section
/-! SUPPORT. The moments of a frame: what each answers in each frame state and device state, and everything it can
answer. -/

namespace Sys2Proof.Machine

/-! ### PortReady -/

theorem State.portReady_iff {s : State} {p : Port} :
    s.portReady p = true ↔ (s.port p).frame = .deselected ∧ s.device = .ready := by
  simp [State.portReady]

theorem State.answers_eq (s : State) (p : Port) (r : Response) : s.answers p r = .next (s.respond p r) := rfl

/-! ### Taken commands with no data out -/

theorem takeCommand_ready {p : Port} {s : State} (owner : State → Response × State) (h : s.portReady p = true) :
    takeCommand p s owner = .next ((owner s).2.respond p (owner s).1) := by
  obtain ⟨hf, hd⟩ := State.portReady_iff.1 h
  simp [takeCommand, hf, hd]

theorem takeCommand_starting {p : Port} {s : State} (owner : State → Response × State)
    (hf : (s.port p).frame = .deselected) (hd : s.device = .starting) :
    takeCommand p s owner = .next (s.respond p .notReady) := by
  simp [takeCommand, hf, hd]

theorem takeCommand_inert {p : Port} {s : State} (owner : State → Response × State)
    (hf : (s.port p).frame = .inert) : takeCommand p s owner = .next s := by
  simp [takeCommand, hf]

/-- Everything a taken command can answer with a next state. -/
theorem takeCommand_next {p : Port} {s t : State} {owner : State → Response × State}
    (h : takeCommand p s owner = .next t) :
    ((s.port p).frame = .inert ∧ t = s) ∨
    ((s.port p).frame = .deselected ∧ s.device = .starting ∧ t = s.respond p .notReady) ∨
    (s.portReady p = true ∧ t = (owner s).2.respond p (owner s).1) := by
  unfold takeCommand at h
  split at h
  · next hf =>
    cases h
    exact .inl ⟨hf, rfl⟩
  · next hf =>
    split at h
    · next hd =>
      cases h
      exact .inr (.inl ⟨hf, hd, rfl⟩)
    · next hd =>
      cases h
      exact .inr (.inr ⟨State.portReady_iff.2 ⟨hf, hd⟩, rfl⟩)
  · cases h

/-! ### Frames with an output phase -/

theorem openFrame_ready {quad : Bool} {p : Port} {s : State} (answer : State → State) (h : s.portReady p = true) :
    openFrame quad p s answer = .next (answer s) := by
  obtain ⟨hf, hd⟩ := State.portReady_iff.1 h
  simp [openFrame, hf, hd]

theorem openFrame_starting {quad : Bool} {p : Port} {s : State} (answer : State → State)
    (hf : (s.port p).frame = .deselected) (hd : s.device = .starting) :
    openFrame quad p s answer = .next (s.setFrame p (.dataOut (.notReady quad))) := by
  simp [openFrame, hf, hd]

theorem openFrame_inert {quad : Bool} {p : Port} {s : State} (answer : State → State) (hf : (s.port p).frame = .inert) :
    openFrame quad p s answer = .next s := by
  simp [openFrame, hf]

/-- Everything the opening of an output frame can answer with a next state. -/
theorem openFrame_next {quad : Bool} {p : Port} {s t : State} {answer : State → State} (h : openFrame quad p s answer = .next t) :
    ((s.port p).frame = .inert ∧ t = s) ∨
    ((s.port p).frame = .deselected ∧ s.device = .starting ∧ t = s.setFrame p (.dataOut (.notReady quad))) ∨
    (s.portReady p = true ∧ t = answer s) := by
  unfold openFrame at h
  split at h
  · next hf =>
    cases h
    exact .inl ⟨hf, rfl⟩
  · next hf =>
    split at h
    · next hd =>
      cases h
      exact .inr (.inl ⟨hf, hd, rfl⟩)
    · next hd =>
      cases h
      exact .inr (.inr ⟨State.portReady_iff.2 ⟨hf, hd⟩, rfl⟩)
  · cases h

/-- Everything the row of a rise can answer with a next state. -/
theorem riseFrame_next {p : Port} {s t : State} {n : Nat} (h : riseFrame p s n = .next t) : t = s.endOutput p n := by
  unfold riseFrame at h
  split at h <;> cases h
  rfl

/-- The rise of a frame that the lines are not in the midst of ends the port's output frame. -/
theorem riseFrame_eq {p : Port} {s : State} {n : Nat} (h1 : ∀ bs, (s.port p).frame ≠ .receiving bs)
    (h2 : ∀ bs, (s.port p).frame ≠ .trailing bs) (h3 : ∀ bs, (s.port p).frame ≠ .dataIn bs) :
    riseFrame p s n = .next (s.endOutput p n) := by
  unfold riseFrame
  split
  · next bs h => exact absurd h (h1 bs)
  · next bs h => exact absurd h (h2 bs)
  · next bs h => exact absurd h (h3 bs)
  · rfl

theorem riseFrame_dataOut {p : Port} {s : State} {n : Nat} {v : View} (h : (s.port p).frame = .dataOut v) :
    riseFrame p s n = .next (s.endView p n v) := by
  simp [riseFrame, State.endOutput, h]

theorem riseFrame_bufferStream {p : Port} {s : State} {n : Nat} {st : BufferStream}
    (h : (s.port p).frame = .bufferStream st) : riseFrame p s n = .next (s.endFrame p (s.bufferBytes st n)) := by
  simp [riseFrame, State.endOutput, h]

theorem riseFrame_readStream {p : Port} {s : State} {n : Nat} {st : ReadStream}
    (h : (s.port p).frame = .readStream st) : riseFrame p s n = .next ((s.clockBytes p n n).closeStream p) := by
  simp [riseFrame, State.endOutput, h]

/-- Bytes that bring no re-check point, or that a fill stream delivers, are one run. -/
theorem State.clockBytes_run {p : Port} {s : State} {st : ReadStream} {fuel n : Nat}
    (h : (s.port p).frame = .readStream st) (hn : st.fill.isSome = true ∨ n < s.bytesToRecheck st.current) :
    s.clockBytes p (fuel + 1) n = s.clockOut p st n := by
  simp only [State.clockBytes, h]
  rw [if_pos hn]

/-- The bytes up to the next re-check point bring its checks. -/
theorem State.clockBytes_recheck {p : Port} {s : State} {st : ReadStream} {fuel : Nat}
    (h : (s.port p).frame = .readStream st) (hf : st.fill = none) :
    s.clockBytes p (fuel + 1) (s.bytesToRecheck st.current) = s.walkStream p st (s.bytesToRecheck st.current) := by
  simp [State.clockBytes, h, hf]

theorem State.clockBytes_zero (s : State) (p : Port) (n : Nat) : s.clockBytes p 0 n = s := rfl

/-- A response and then 00h (R138, R141), as one list cut to the bytes clocked. -/
theorem clockedOut_eq (bytes : List Byte) (n : Nat) :
    clockedOut bytes n = (bytes ++ List.replicate n 0).take n := by
  unfold clockedOut
  rw [List.take_append, List.take_replicate, Nat.min_eq_left (Nat.sub_le ..)]

theorem clockedOut_nil (n : Nat) : clockedOut [] n = List.replicate n 0 := by
  simp [clockedOut]

theorem clockedOut_length (bytes : List Byte) (n : Nat) : (clockedOut bytes n).length = n := by
  simp [clockedOut_eq]

/-! ### Checks in order -/

theorem firstFailing_eq_none {cs : List (Bool × Response)} :
    firstFailing cs = none ↔ ∀ c ∈ cs, c.1 = false := by
  simp [firstFailing]

theorem firstFailing_cons (b : Bool) (r : Response) (cs : List (Bool × Response)) :
    firstFailing ((b, r) :: cs) = if b then some r else firstFailing cs := by
  cases b <;> simp [firstFailing]

end Sys2Proof.Machine
end

