-- ==== Sys2Proof/Laws/Leases.lean ====
section
/-! SUPPORT. The shared lease operations: what the grant step, the end of a lease and the end of an entry make of each
region, and that they touch regions and latched notices alone. -/

namespace Sys2Proof.Machine

/-- Two states that differ in the Region Table and in latched notices alone. -/
structure OnlyLeases (s t : State) : Prop where
  rest : { t with regions := s.regions, ports := s.ports } = s
  ports : ∀ p, { t.port p with
    latched := (s.port p).latched
    postedSinceView := (s.port p).postedSinceView } = s.port p
  rises : ∀ p k, (s.port p).latched.get k = true → (t.port p).latched.get k = true
  length : t.regions.length = s.regions.length

theorem OnlyLeases.refl (s : State) : OnlyLeases s s := ⟨rfl, fun _ => rfl, fun _ _ h => h, rfl⟩

theorem OnlyLeases.trans {s t u : State} (h : OnlyLeases s t) (k : OnlyLeases t u) : OnlyLeases s u where
  rest := by
    have h1 := h.rest
    have h2 := k.rest
    calc { u with regions := s.regions, ports := s.ports }
        = { ({ u with regions := t.regions, ports := t.ports } : State) with
            regions := s.regions, ports := s.ports } := rfl
      _ = { t with regions := s.regions, ports := s.ports } := by rw [h2]
      _ = s := h1
  ports p := by
    have h1 := h.ports p
    have h2 := k.ports p
    calc { u.port p with latched := (s.port p).latched, postedSinceView := (s.port p).postedSinceView }
        = { ({ u.port p with latched := (t.port p).latched, postedSinceView := (t.port p).postedSinceView } :
            PortState) with latched := (s.port p).latched, postedSinceView := (s.port p).postedSinceView } := rfl
      _ = { t.port p with latched := (s.port p).latched, postedSinceView := (s.port p).postedSinceView } := by rw [h2]
      _ = s.port p := h1
  rises p n hn := k.rises p n (h.rises p n hn)
  length := by rw [k.length, h.length]

theorem NoticeFlags.get_mark (f : NoticeFlags) (k n : NoticeKind) :
    (f.mark k).get n = (decide (n = k) || f.get n) := by
  cases k <;> cases n <;> rfl

theorem OnlyLeases.modifyLease (s : State) (i : Nat) (f : Lease → Lease) : OnlyLeases s (s.modifyLease i f) :=
  ⟨rfl, fun _ => rfl, fun _ _ h => h, by simp⟩

theorem OnlyLeases.post (s : State) (p : Port) (k : NoticeKind) : OnlyLeases s (s.post p k) where
  rest := rfl
  ports q := by
    unfold State.post
    rw [State.port_modifyPort]
    split <;> rfl
  rises q n hn := by
    unfold State.post
    rw [State.port_modifyPort]
    split
    · simp [NoticeFlags.get_mark, hn]
    · exact hn
  length := rfl

/-- R80: the grant step. -/
theorem State.region_grantStep (s : State) (i j : Nat) :
    (s.grantStep i).region j = (s.region j).map (fun r =>
      if j = i ∧ r.lease.state = .free then { r with lease := r.granted r.lease } else r) := by
  unfold State.grantStep
  cases hr : s.region i with
  | none =>
    by_cases h : j = i
    · subst h
      simp [hr]
    · simp [h]
  | some r =>
    by_cases h : j = i
    · subst h
      cases hs : r.lease.state <;> cases hw : r.lease.waiters <;>
        simp [hr, hs, hw, Region.granted]
    · cases hs : r.lease.state <;> cases hw : r.lease.waiters <;> simp [h, hs, hw, State.region_modifyLease]

theorem OnlyLeases.grantStep (s : State) (i : Nat) : OnlyLeases s (s.grantStep i) := by
  unfold State.grantStep
  split
  · split
    · exact (OnlyLeases.modifyLease ..).trans (OnlyLeases.post ..)
    · exact OnlyLeases.refl s
  · exact OnlyLeases.refl s

/-- R80: the head waiter of a FREE region is told of its grant. -/
theorem State.grantStep_posts {s : State} {i : Nat} {r : Region} {w : Port} {ws : List Port}
    (hr : s.region i = some r) (hs : r.lease.state = .free) (hw : r.lease.waiters = w :: ws) :
    ((s.grantStep i).port w).latched.leaseGranted = true := by
  simp [State.grantStep, hr, hs, hw, State.post, NoticeFlags.mark]

/-- R88 case 4, R93, R96: the end of a lease. -/
theorem State.region_endLease (s : State) (i j : Nat) :
    (s.endLease i).region j = (s.region j).map (fun r => if j = i then { r with lease := r.leaseEnded } else r) := by
  unfold State.endLease
  cases hr : s.region i with
  | none =>
    by_cases h : j = i
    · subst h
      simp [hr]
    · simp [h]
  | some r =>
    by_cases hd : 0 < r.lease.drain
    · by_cases h : j = i
      · subst h
        simp [hr, hd, Region.leaseEnded]
      · simp [hd, h, State.region_modifyLease]
    · by_cases h : j = i
      · subst h
        simp [hr, hd, Region.leaseEnded, State.region_grantStep, Region.granted]
      · simp [hd, h, State.region_grantStep, State.region_modifyLease]

theorem OnlyLeases.endLease (s : State) (i : Nat) : OnlyLeases s (s.endLease i) := by
  unfold State.endLease
  split
  · split
    · exact OnlyLeases.modifyLease ..
    · exact (OnlyLeases.modifyLease ..).trans (OnlyLeases.grantStep ..)
  · exact OnlyLeases.refl s

/-- R81, R82: the end of an entry of a region. -/
theorem State.region_drainDown (s : State) (i j : Nat) :
    (s.drainDown i).region j = (s.region j).map (fun r => if j = i then { r with lease := r.entryEnded } else r) := by
  unfold State.drainDown
  cases hr : s.region i with
  | none =>
    by_cases h : j = i
    · subst h
      simp [hr]
    · simp [h]
  | some r =>
    by_cases hd : r.lease.state = .draining ∧ r.lease.drain - 1 = 0
    · by_cases h : j = i
      · subst h
        simp only [hd, and_self, if_true, State.region_grantStep, State.region_modifyLease_self, hr, Option.map_some,
          Region.entryEnded, Region.granted]
      · simp [hd, h, State.region_grantStep, State.region_modifyLease]
    · by_cases h : j = i
      · subst h
        simp only [hd, if_false, State.region_modifyLease_self, hr, Option.map_some, Region.entryEnded, if_true]
      · simp only [hd, h, if_false, State.region_modifyLease, Option.map_id']

theorem OnlyLeases.drainDown (s : State) (i : Nat) : OnlyLeases s (s.drainDown i) := by
  unfold State.drainDown
  split
  · dsimp only
    split
    · exact ((OnlyLeases.modifyLease ..).trans (OnlyLeases.modifyLease ..)).trans (OnlyLeases.grantStep ..)
    · exact OnlyLeases.modifyLease ..
  · exact OnlyLeases.refl s

/-- R95: a FROZEN region is FREE again. -/
theorem State.region_unfreeze (s : State) (i j : Nat) :
    (s.unfreeze i).region j = (s.region j).map (fun r =>
      if j = i ∧ r.lease.state = .frozen then
        { r with lease := r.granted { r.lease with state := .free } }
      else r) := by
  unfold State.unfreeze
  cases hr : s.region i with
  | none =>
    by_cases h : j = i
    · subst h
      simp [hr]
    · simp [h]
  | some r =>
    by_cases hf : r.lease.state = .frozen
    · by_cases h : j = i
      · subst h
        simp [hr, hf, State.region_grantStep, Region.granted]
      · simp [hf, h, State.region_grantStep, State.region_modifyLease]
    · by_cases h : j = i
      · subst h
        simp [hr, hf]
      · simp [hf, h]

theorem OnlyLeases.unfreeze (s : State) (i : Nat) : OnlyLeases s (s.unfreeze i) := by
  unfold State.unfreeze
  split
  · split
    · exact (OnlyLeases.modifyLease ..).trans (OnlyLeases.grantStep ..)
    · exact OnlyLeases.refl s
  · exact OnlyLeases.refl s

/-- What a fold of an operation over indices keeps, when each application keeps it. -/
theorem OnlyLeases.foldl {f : State → Nat → State} (hf : ∀ s i, OnlyLeases s (f s i)) (is : List Nat) (s : State) :
    OnlyLeases s (is.foldl f s) := by
  induction is generalizing s with
  | nil => exact OnlyLeases.refl s
  | cons i is ih => exact (hf s i).trans (ih (f s i))

theorem OnlyLeases.unfreezeAll (s : State) : OnlyLeases s s.unfreezeAll :=
  OnlyLeases.foldl OnlyLeases.unfreeze _ s

/-- A fold over the indices 0 to n-1 of an operation that treats each region by itself treats every region once. -/
theorem State.region_foldl_range {f : State → Nat → State} {g : Nat → Region → Region}
    (hf : ∀ s i j, (f s i).region j = (s.region j).map (fun r => if j = i then g j r else r)) (n : Nat) (s : State)
    (j : Nat) :
    ((List.range n).foldl f s).region j = (s.region j).map (fun r => if j < n then g j r else r) := by
  induction n with
  | zero => simp
  | succ n ih =>
    rw [List.range_succ, List.foldl_append, List.foldl_cons, List.foldl_nil, hf, ih, Option.map_map]
    congr 1
    funext r
    by_cases h : j = n
    · subst h
      simp
    · by_cases h2 : j < n
      · simp [h, h2, Nat.lt_succ_of_lt h2]
      · have h3 : ¬j < n + 1 := by omega
        simp [h, h2, h3]

/-- R34, R95, R169: after the thaw of a whole table no region is FROZEN; the others are as they were. -/
theorem State.region_unfreezeAll (s : State) (j : Nat) :
    s.unfreezeAll.region j = (s.region j).map (fun r =>
      if j < 16 ∧ r.lease.state = .frozen then { r with lease := r.granted { r.lease with state := .free } } else r) := by
  have h := State.region_foldl_range (f := State.unfreeze)
    (g := fun _ r => if r.lease.state = .frozen then { r with lease := r.granted { r.lease with state := .free } } else r)
    (fun s i j => by
      rw [State.region_unfreeze]
      congr 1
      funext r
      by_cases h : j = i <;> simp [h]) 16 s j
  unfold State.unfreezeAll regionIndices
  rw [h]
  refine congrArg (fun f => Option.map f (s.region j)) (funext fun r => ?_)
  by_cases hj : j < 16 <;> simp [hj]

end Sys2Proof.Machine
end

