-- ==== Sys2Proof/Laws/Memory.lean ====
section
/-! SUPPORT. The array: its canonical form, which every memory operation keeps, and what a read gives after each. -/

namespace Sys2Proof.Machine

/-! ### The canonical form -/

/-- The canonical form, said as an ordering and a condition on each listed byte. -/
theorem Memory.wf_iff (m : Memory) :
    m.wf = true ↔ m.Pairwise (fun x y => x.1 < y.1) ∧ ∀ c ∈ m, c.1 < Config.arrayBytes ∧ c.2 ≠ Config.erased := by
  induction m with
  | nil => simp [Memory.wf]
  | cons c m ih =>
    obtain ⟨k, v⟩ := c
    cases m with
    | nil => simp [Memory.wf]
    | cons d m =>
      obtain ⟨k', v'⟩ := d
      simp only [Memory.wf, Bool.and_eq_true, decide_eq_true_eq, ih, List.pairwise_cons, List.mem_cons,
        forall_eq_or_imp]
      constructor
      · rintro ⟨⟨⟨hk, ha⟩, hv⟩, ⟨h1, h2⟩, h3, h4⟩
        exact ⟨⟨⟨hk, fun c hc => lt_trans hk (h1 c hc)⟩, h1, h2⟩, ⟨ha, hv⟩, h3, h4⟩
      · rintro ⟨⟨⟨hk, -⟩, h1, h2⟩, ⟨ha, hv⟩, h3, h4⟩
        exact ⟨⟨⟨hk, ha⟩, hv⟩, ⟨h1, h2⟩, h3, h4⟩

theorem Memory.wf_tail {c : Host.Cell} {m : Memory} (h : Memory.wf (c :: m) = true) : m.wf = true := by
  rw [Memory.wf_iff] at h ⊢
  exact ⟨(List.pairwise_cons.1 h.1).2, fun d hd => h.2 d (List.mem_cons_of_mem _ hd)⟩

/-- Every listed address of a canonical tail is above the head's. -/
theorem Memory.wf_head_lt {c : Host.Cell} {m : Memory} (h : Memory.wf (c :: m) = true) :
    ∀ d ∈ m, c.1 < d.1 := by
  rw [Memory.wf_iff] at h
  exact (List.pairwise_cons.1 h.1).1

/-- The addresses a write leaves listed are those that were, and the one written. -/
theorem Memory.mem_write {m : Memory} {a : Nat} {b : Byte} {c : Host.Cell} (h : c ∈ m.write a b) :
    c ∈ m ∨ c = (a, b) ∧ b ≠ Config.erased := by
  induction m with
  | nil =>
    by_cases hb : b = Config.erased <;> simp_all [Memory.write]
  | cons d m ih =>
    obtain ⟨k, v⟩ := d
    unfold Memory.write at h
    split_ifs at h with h1 h2 h3 h4
    · exact .inl h
    · rcases List.mem_cons.1 h with h | h
      · exact .inr ⟨h, h2⟩
      · exact .inl h
    · exact .inl (List.mem_cons_of_mem _ h)
    · rcases List.mem_cons.1 h with h | h
      · exact .inr ⟨h, h4⟩
      · exact .inl (List.mem_cons_of_mem _ h)
    · rcases List.mem_cons.1 h with h | h
      · exact .inl (h ▸ List.mem_cons_self ..)
      · exact (ih h).imp_left (List.mem_cons_of_mem _)

/-- A write inside the array keeps the canonical form. -/
theorem Memory.wf_write {m : Memory} {a : Nat} (b : Byte) (h : m.wf = true) (ha : a < Config.arrayBytes) :
    (m.write a b).wf = true := by
  induction m with
  | nil => by_cases hb : b = Config.erased <;> simp [Memory.write, Memory.wf, hb, ha]
  | cons d m ih =>
    obtain ⟨k, v⟩ := d
    have ht := Memory.wf_tail h
    have hlt := Memory.wf_head_lt h
    have hall := (Memory.wf_iff _).1 h
    unfold Memory.write
    split_ifs with h1 h2 h3 h4
    · exact h
    · rw [Memory.wf_iff]
      refine ⟨List.pairwise_cons.2 ⟨?_, hall.1⟩, ?_⟩
      · intro c hc
        rcases List.mem_cons.1 hc with rfl | hc
        · exact h1
        · exact lt_trans h1 (hlt c hc)
      · intro c hc
        rcases List.mem_cons.1 hc with rfl | hc
        · exact ⟨ha, h2⟩
        · exact hall.2 c hc
    · exact ht
    · subst h3
      rw [Memory.wf_iff]
      refine ⟨List.pairwise_cons.2 ⟨hlt, (List.pairwise_cons.1 hall.1).2⟩, ?_⟩
      intro c hc
      rcases List.mem_cons.1 hc with rfl | hc
      · exact ⟨ha, h4⟩
      · exact hall.2 c (List.mem_cons_of_mem _ hc)
    · have hw := (Memory.wf_iff _).1 (ih ht)
      rw [Memory.wf_iff]
      refine ⟨List.pairwise_cons.2 ⟨?_, hw.1⟩, ?_⟩
      · intro c hc
        rcases Memory.mem_write hc with hc | ⟨rfl, -⟩
        · exact hlt c hc
        · show k < a
          omega
      · intro c hc
        rcases List.mem_cons.1 hc with rfl | hc
        · exact hall.2 _ (List.mem_cons_self ..)
        · exact hw.2 c hc

/-- A program inside the array keeps the canonical form. -/
theorem Memory.wf_program {m : Memory} {a : Nat} (bs : List Byte) (h : m.wf = true)
    (ha : a + bs.length ≤ Config.arrayBytes) : (m.program a bs).wf = true := by
  induction bs generalizing m a with
  | nil => exact h
  | cons b bs ih =>
    simp only [List.length_cons] at ha
    exact ih (Memory.wf_write _ h (by omega)) (by omega)

/-- An erase keeps the canonical form. -/
theorem Memory.wf_erase {m : Memory} (first size : Nat) (h : m.wf = true) : (m.erase first size).wf = true := by
  rw [Memory.wf_iff] at h ⊢
  exact ⟨h.1.sublist List.filter_sublist, fun c hc => h.2 c (List.mem_filter.1 hc).1⟩

/-- The array as shipped is in canonical form. -/
theorem Memory.wf_reset : State.reset.mem.wf = true := rfl

/-! ### Reads -/

/-- An address below every listed one reads FFh. -/
theorem Memory.read_of_lt {m : Memory} {a : Nat} (h : ∀ c ∈ m, a < c.1) : m.read a = Config.erased := by
  induction m with
  | nil => rfl
  | cons c m ih =>
    have h0 := h c (List.mem_cons_self ..)
    simp [Memory.read, Nat.ne_of_lt h0, ih fun d hd => h d (List.mem_cons_of_mem _ hd)]

/-- A read of the address written gives the byte written. -/
theorem Memory.read_write_self {m : Memory} (a : Nat) (b : Byte) (h : m.wf = true) : (m.write a b).read a = b := by
  induction m with
  | nil => by_cases hb : b = Config.erased <;> simp [Memory.write, Memory.read, hb]
  | cons d m ih =>
    obtain ⟨k, v⟩ := d
    have hlt := Memory.wf_head_lt h
    unfold Memory.write
    split_ifs with h1 h2 h3 h4
    · rw [h2]
      refine Memory.read_of_lt fun c hc => ?_
      rcases List.mem_cons.1 hc with rfl | hc
      · exact h1
      · exact lt_trans h1 (hlt c hc)
    · simp [Memory.read]
    · rw [h4]
      exact Memory.read_of_lt fun c hc => h3 ▸ hlt c hc
    · simp [Memory.read]
    · simp [Memory.read, h3, ih (Memory.wf_tail h)]

/-- A read of any other address gives what it gave. -/
theorem Memory.read_write_ne {m : Memory} {a x : Nat} (b : Byte) (hx : x ≠ a) :
    (m.write a b).read x = m.read x := by
  induction m with
  | nil => by_cases hb : b = Config.erased <;> simp [Memory.write, Memory.read, hb, hx]
  | cons d m ih =>
    obtain ⟨k, v⟩ := d
    unfold Memory.write
    split_ifs with h1 h2 h3 h4
    · rfl
    · simp [Memory.read, hx]
    · subst h3
      simp [Memory.read, hx]
    · subst h3
      simp [Memory.read, hx]
    · simp [Memory.read, ih]

/-- R2: what a read gives after a program. -/
theorem Memory.read_program {m : Memory} (a x : Nat) (bs : List Byte) (h : m.wf = true)
    (ha : a + bs.length ≤ Config.arrayBytes) :
    (m.program a bs).read x =
      if a ≤ x ∧ x < a + bs.length then m.read x &&& bs.getD (x - a) 0 else m.read x := by
  induction bs generalizing m a with
  | nil =>
    have : ¬(a ≤ x ∧ x < a + ([] : List Byte).length) := by simp
    simp [Memory.program]
  | cons b bs ih =>
    simp only [List.length_cons] at ha ⊢
    rw [Memory.program, ih (a + 1) (Memory.wf_write _ h (by omega)) (by omega)]
    by_cases hx : x = a
    · subst hx
      rw [if_neg (by omega), if_pos (by omega), Memory.read_write_self _ _ h]
      simp
    · rw [Memory.read_write_ne _ hx]
      by_cases hin : a + 1 ≤ x ∧ x < a + 1 + bs.length
      · rw [if_pos hin, if_pos (by omega)]
        have : x - a = x - (a + 1) + 1 := by omega
        rw [this, List.getD_cons_succ]
      · rw [if_neg hin, if_neg (by omega)]

/-- R3: what a read gives after an erase. -/
theorem Memory.read_erase (m : Memory) (first size x : Nat) :
    (m.erase first size).read x = if first ≤ x ∧ x < first + size then Config.erased else m.read x := by
  induction m with
  | nil => simp [Memory.erase, Memory.read]
  | cons c m ih =>
    obtain ⟨k, v⟩ := c
    have ih' : Memory.read (List.filter (fun c => !(decide (first ≤ c.1) && decide (c.1 < first + size))) m) x =
        if first ≤ x ∧ x < first + size then Config.erased else Memory.read m x := ih
    unfold Memory.erase
    by_cases hk : first ≤ k ∧ k < first + size
    · rw [List.filter_cons_of_neg (by simp [hk.1, hk.2]), ih']
      by_cases hx : first ≤ x ∧ x < first + size
      · rw [if_pos hx, if_pos hx]
      · rw [if_neg hx, if_neg hx]
        have : x ≠ k := fun e => hx (e ▸ hk)
        simp [Memory.read, this]
    · rw [List.filter_cons_of_pos (by simp only [not_and] at hk; simpa using Nat.lt_or_ge k first |>.imp_right fun h => Nat.not_lt.1 (hk h))]
      by_cases hx : x = k
      · subst hx
        rw [if_neg hk]
        simp [Memory.read]
      · simp only [Memory.read, hx, if_false, ih']

/-! ### Unsettled pages (R4) -/

theorem mem_insertPage {l : List Nat} {n x : Nat} : x ∈ insertPage l n ↔ x = n ∨ x ∈ l := by
  induction l with
  | nil => simp [insertPage]
  | cons k l ih =>
    unfold insertPage
    split_ifs with h1 h2
    · simp
    · subst h2
      simp
    · simp [ih, or_left_comm]

/-- R4: the pages that are unsettled after a target becomes unsettled. -/
theorem State.mem_unsettle (s : State) (t : Target) (n : Nat) :
    n ∈ (s.unsettle t).unsettled ↔ n ∈ s.unsettled ∨ n ∈ t.pages := by
  unfold State.unsettle
  generalize t.pages = ps
  show n ∈ ps.foldl insertPage s.unsettled ↔ _
  generalize s.unsettled = us
  induction ps generalizing us with
  | nil => simp
  | cons p ps ih =>
    simp only [List.foldl_cons, ih, mem_insertPage, List.mem_cons]
    tauto

/-- R4: the pages that are unsettled after a target is settled. -/
theorem State.mem_settle (s : State) (t : Target) (n : Nat) :
    n ∈ (s.settle t).unsettled ↔ n ∈ s.unsettled ∧ n ∉ t.pages := by
  simp [State.settle]

end Sys2Proof.Machine
end

