-- ==== Sys2Proof/Laws/Scheduler.lean ====
section
/-! SUPPORT. The Scheduler: the choice among entries, and everything a start, a suspend order, a resume and a look can
do. -/

namespace Sys2Proof.Machine

/-! ### The choice (R50, R51) -/

/-- No admitted entry, no choice. -/
theorem firstHighest_eq_none {ok : Entry → Bool} {q : List Entry} :
    firstHighest ok q = none ↔ ∀ e ∈ q, ok e = false := by
  induction q with
  | nil => simp [firstHighest]
  | cons e es ih =>
    unfold firstHighest
    cases h : firstHighest ok es with
    | none =>
      have hes := ih.1 h
      cases he : ok e
      · simpa [he] using hes
      · simp [he]
    | some c =>
      obtain ⟨i, c⟩ := c
      have hne : ¬∀ x ∈ es, ok x = false := fun hall => by simp [ih.2 hall] at h
      simp only [List.mem_cons, forall_eq_or_imp]
      constructor
      · intro hc
        split at hc <;> cases hc
      · exact fun hc => absurd hc.2 hne

/-- The chosen entry is admitted, no admitted entry has a higher class, and none before it has its class. -/
theorem firstHighest_eq_some {ok : Entry → Bool} {q : List Entry} {i c : Nat} (h : firstHighest ok q = some (i, c)) :
    ∃ e, q[i]? = some e ∧ ok e = true ∧ e.effectiveClass = c ∧
      ∀ j f, q[j]? = some f → ok f = true → f.effectiveClass ≤ c ∧ (j < i → f.effectiveClass < c) := by
  induction q generalizing i c with
  | nil => simp [firstHighest] at h
  | cons e es ih =>
    unfold firstHighest at h
    cases h' : firstHighest ok es with
    | none =>
      simp only [h'] at h
      split at h
      · next he =>
        cases h
        refine ⟨e, rfl, he, rfl, fun j f hj hf => ?_⟩
        cases j with
        | zero =>
          cases hj
          exact ⟨le_refl _, fun hlt => absurd hlt (lt_irrefl _)⟩
        | succ j =>
          have hmem : f ∈ es := List.mem_of_getElem? hj
          simp [firstHighest_eq_none.1 h' f hmem] at hf
      · cases h
    | some x =>
      obtain ⟨k, d⟩ := x
      obtain ⟨f0, hf0, hok0, hc0, hall⟩ := ih h'
      simp only [h'] at h
      split at h
      · next he =>
        cases h
        simp only [Bool.and_eq_true, decide_eq_true_eq] at he
        refine ⟨e, rfl, he.1, rfl, fun j f hj hf => ?_⟩
        cases j with
        | zero =>
          cases hj
          exact ⟨le_refl _, fun hlt => absurd hlt (lt_irrefl _)⟩
        | succ j => exact ⟨le_trans (hall j f hj hf).1 he.2, fun hlt => absurd hlt (Nat.not_lt_zero _)⟩
      · next he =>
        cases h
        refine ⟨f0, hf0, hok0, hc0, fun j f hj hf => ?_⟩
        cases j with
        | zero =>
          cases hj
          simp only [Bool.and_eq_true, decide_eq_true_eq, not_and, Nat.not_le] at he
          exact ⟨le_of_lt (he hf), fun _ => he hf⟩
        | succ j =>
          exact ⟨(hall j f hj hf).1, fun hlt => (hall j f hj hf).2 (Nat.lt_of_succ_lt_succ hlt)⟩

/-- The choice is determined by what it satisfies. -/
theorem firstHighest_of {ok : Entry → Bool} {q : List Entry} {i : Nat} {e : Entry} (hi : q[i]? = some e)
    (hok : ok e = true)
    (hall : ∀ j f, q[j]? = some f → ok f = true →
      f.effectiveClass ≤ e.effectiveClass ∧ (j < i → f.effectiveClass < e.effectiveClass)) :
    firstHighest ok q = some (i, e.effectiveClass) := by
  cases h : firstHighest ok q with
  | none =>
    have := firstHighest_eq_none.1 h e (List.mem_of_getElem? hi)
    simp [this] at hok
  | some x =>
    obtain ⟨k, c⟩ := x
    obtain ⟨f, hf, hfok, hc, hmax⟩ := firstHighest_eq_some h
    have h1 := hall k f hf hfok
    have h2 := hmax i e hi hok
    have hce : c = e.effectiveClass := by omega
    have hik : k = i := by
      rcases Nat.lt_trichotomy k i with hlt | heq | hgt
      · have := h1.2 hlt
        omega
      · exact heq
      · have := h2.2 hgt
        omega
    rw [hik, hce]

/-! ### Slots -/

theorem State.slot_setSlot (s : State) (n m : SlotName) (v : Slot) :
    (s.setSlot n v).slot m = if m = n then v else s.slot m := by
  cases n <;> cases m <;> rfl

theorem State.setSlot_eq (s : State) (n : SlotName) (v : Slot) :
    s.setSlot n v = { s with slotX := (s.setSlot n v).slotX, slotY := (s.setSlot n v).slotY } := by
  cases n <;> rfl

/-! ### A start (R52) -/

/-- A start changes the queue, the engine state, one region's drain count and a slot's mark, and nothing else. -/
theorem State.startEntry_eq {s : State} {i : Nat} {e : Entry} (h : s.queue[i]? = some e) :
    s.startEntry i =
      { s with
        queue := startQueue s.queue i e
        engine := s.engine.started
        regions := (match e.region with
          | some r => s.drainUp r
          | none => s).regions
        slotX := (if e.kind = .mapCommit then s.beginSlotWrite else s).slotX
        slotY := (if e.kind = .mapCommit then s.beginSlotWrite else s).slotY } := by
  have slot : ∀ t : State, t.beginSlotWrite = { t with
      slotX := t.beginSlotWrite.slotX
      slotY := t.beginSlotWrite.slotY } := fun t => State.setSlot_eq _ _ _
  unfold State.startEntry
  rw [h]
  cases hr : e.region with
  | none =>
    by_cases hk : e.kind = .mapCommit
    · simp only [hk, hr, if_true]
      rw [slot]
      rcases hs : s.currentSlot with _ | _ | _ <;>
        simp [State.beginSlotWrite, State.commitSlot, hs, State.setSlot, State.slot]
    · simp [hk, hr]
  | some r =>
    by_cases hk : e.kind = .mapCommit
    · simp only [hk, hr, if_true]
      rw [slot]
      rcases hs : s.currentSlot with _ | _ | _ <;>
        simp [State.beginSlotWrite, State.commitSlot, hs, State.setSlot, State.slot, State.drainUp,
          State.modifyLease, State.modifyRegion]
    · simp [hk, hr, State.drainUp, State.modifyLease, State.modifyRegion]

/-! ### A look (R48) -/

/-- Everything a look can do. -/
theorem State.look_cases (s : State) :
    s.look = s ∨
    (s.engine = .idle ∧ ∃ i, s.selectAny = some i ∧ s.look = s.startEntry i) ∨
    (s.engine = .parked ∧ ∃ i, s.selectOver = some i ∧ s.look = s.startEntry i) ∨
    (s.engine = .busy ∧ s.pressureTest = true ∧ s.look = s.orderSuspend) ∨
    (s.engine = .parked ∧ s.selectOver = none ∧ s.resumeTest = true ∧ s.look = s.resumeErase) := by
  unfold State.look
  split
  · next he =>
    split
    · next i hi => exact .inr (.inl ⟨he, i, hi, rfl⟩)
    · exact .inl rfl
  · next he =>
    split
    · next hp => exact .inr (.inr (.inr (.inl ⟨he, hp, rfl⟩)))
    · exact .inl rfl
  · exact .inl rfl
  · next he =>
    split
    · next i hi => exact .inr (.inr (.inl ⟨he, i, hi, rfl⟩))
    · next hn =>
      split
      · next hr => exact .inr (.inr (.inr (.inr ⟨he, hn, hr, rfl⟩)))
      · exact .inl rfl
  · exact .inl rfl

/-- A look changes the queue, the engine state, drain counts and a slot's mark, and nothing else. -/
theorem State.look_eq (s : State) :
    s.look = { s with
      queue := s.look.queue
      engine := s.look.engine
      regions := s.look.regions
      slotX := s.look.slotX
      slotY := s.look.slotY } := by
  have start : ∀ i, s.startEntry i = { s with
      queue := (s.startEntry i).queue
      engine := (s.startEntry i).engine
      regions := (s.startEntry i).regions
      slotX := (s.startEntry i).slotX
      slotY := (s.startEntry i).slotY } := by
    intro i
    cases h : s.queue[i]? with
    | none => simp [State.startEntry, h]
    | some e => rw [State.startEntry_eq h]
  rcases s.look_cases with h | ⟨-, i, -, h⟩ | ⟨-, i, -, h⟩ | ⟨-, -, h⟩ | ⟨-, -, -, h⟩
  · rw [h]
  · rw [h]
    exact start i
  · rw [h]
    exact start i
  · rw [h]
    unfold State.orderSuspend
    split <;> rfl
  · rw [h]
    unfold State.resumeErase
    split <;> rfl

@[simp] theorem State.look_pending (s : State) : s.look.pending = s.pending := by rw [State.look_eq]

@[simp] theorem State.look_inputs (s : State) : s.look.inputs = s.inputs := by rw [State.look_eq]

@[simp] theorem State.look_mem (s : State) : s.look.mem = s.mem := by rw [State.look_eq]

@[simp] theorem State.look_unsettled (s : State) : s.look.unsettled = s.unsettled := by rw [State.look_eq]

@[simp] theorem State.look_freeIndex (s : State) : s.look.freeIndex = s.freeIndex := by rw [State.look_eq]

@[simp] theorem State.look_ports (s : State) : s.look.ports = s.ports := by rw [State.look_eq]

@[simp] theorem State.look_holders (s : State) : s.look.holders = s.holders := by rw [State.look_eq]

@[simp] theorem State.look_arrival (s : State) : s.look.arrival = s.arrival := by rw [State.look_eq]

@[simp] theorem State.look_window (s : State) : s.look.window = s.window := by rw [State.look_eq]

@[simp] theorem State.look_noted (s : State) : s.look.noted = s.noted := by rw [State.look_eq]

@[simp] theorem State.look_leaseClock (s : State) : s.look.leaseClock = s.leaseClock := by rw [State.look_eq]

@[simp] theorem State.look_buffers (s : State) : s.look.buffers = s.buffers := by rw [State.look_eq]

@[simp] theorem State.look_authority (s : State) : s.look.authority = s.authority := by rw [State.look_eq]

@[simp] theorem State.look_generation (s : State) : s.look.generation = s.generation := by rw [State.look_eq]

@[simp] theorem State.look_currentSlot (s : State) : s.look.currentSlot = s.currentSlot := by rw [State.look_eq]

@[simp] theorem State.look_staged (s : State) : s.look.staged = s.staged := by rw [State.look_eq]

@[simp] theorem State.look_commitImage (s : State) : s.look.commitImage = s.commitImage := by rw [State.look_eq]

@[simp] theorem State.look_supply (s : State) : s.look.supply = s.supply := by rw [State.look_eq]

@[simp] theorem State.look_device (s : State) : s.look.device = s.device := by rw [State.look_eq]

@[simp] theorem State.look_startUpSteps (s : State) : s.look.startUpSteps = s.startUpSteps := by rw [State.look_eq]

@[simp] theorem State.look_resetLow (s : State) : s.look.resetLow = s.resetLow := by rw [State.look_eq]

@[simp] theorem State.look_interrupted (s : State) : s.look.interrupted = s.interrupted := by rw [State.look_eq]

@[simp] theorem State.look_mapDefaulted (s : State) : s.look.mapDefaulted = s.mapDefaulted := by rw [State.look_eq]

@[simp] theorem State.look_port (s : State) (p : Port) : s.look.port p = s.port p := by
  simp [State.port]

end Sys2Proof.Machine
end

