-- ==== Sys2Proof/Laws/Serial.lean ====
section
/-! SUPPORT. The lines of a port: bits and bytes, events one after the other, what an event does in each frame state,
the bytes that a read stream delivers, the fall of RESET# and the stop of the array, and the steps of start-up. -/

namespace Sys2Proof.Machine

/-! ### Bits and bytes -/

@[simp] theorem bitsOf_length (b : Byte) : (bitsOf b).length = 8 := by simp [bitsOf]

/-- The bit of a byte at a place, from the most significant. -/
theorem bitsOf_getElem? (b : Byte) (k : Nat) (h : k < 8) : (bitsOf b)[k]? = some (b.getMsbD k) := by
  simp [bitsOf, h]

/-- Eight bits spell the byte whose bits they are. -/
theorem byteOfBits_bitsOf (b : Byte) : byteOfBits (bitsOf b) = b := by
  revert b
  decide

/-! ### Events one after the other -/

@[simp] theorem runEvents_nil (p : Port) (s : State) : runEvents p [] s = .next s := rfl

theorem runEvents_cons {p : Port} {e : PinEvent} {es : List PinEvent} {s t : State} (h : pinEvent p e s = .next t) :
    runEvents p (e :: es) s = runEvents p es t := by
  simp [runEvents, h]

theorem runEvents_append {p : Port} {es fs : List PinEvent} {s t : State} (h : runEvents p es s = .next t) :
    runEvents p (es ++ fs) s = runEvents p fs t := by
  induction es generalizing s with
  | nil =>
    cases h
    rfl
  | cons e es ih =>
    simp only [List.cons_append, runEvents] at h ⊢
    split at h
    · exact ih h
    · cases h
    · cases h

/-! ### One event -/

@[simp] theorem pinEvent_fall (p : Port) (s : State) : pinEvent p .fall s = .next (pinFall p s) := rfl

@[simp] theorem pinEvent_clock (p : Port) (io : IoLines Bool) (s : State) :
    pinEvent p (.clock io) s = pinClock p io s := rfl

@[simp] theorem pinEvent_rise (p : Port) (s : State) : pinEvent p .rise s = pinRise p s := rfl

/-- While chip-select is high the port ignores the clock (R135). -/
theorem pinClock_high {p : Port} {s : State} (io : IoLines Bool) (h : (s.port p).csLow = false) :
    pinClock p io s = .next s := by
  simp [pinClock, h]

/-- A bit of a frame that is RECEIVING, which completes no byte. -/
theorem pinClock_bit {p : Port} {s : State} {bytes : List Byte} {io : IoLines Bool} (hc : (s.port p).csLow = true)
    (hf : (s.port p).frame = .receiving bytes)
    (hn : ((s.port p).shift ++ sampled (quadIn bytes) io).length < 8) :
    pinClock p io s =
      .next (s.modifyPort p (fun q => { q with shift := (s.port p).shift ++ sampled (quadIn bytes) io })) := by
  simp only [pinClock, hc, hf, if_true]
  rw [if_pos hn]

/-- The last bit of a byte of a frame that is RECEIVING. -/
theorem pinClock_byte {p : Port} {s : State} {bytes : List Byte} {io : IoLines Bool} (hc : (s.port p).csLow = true)
    (hf : (s.port p).frame = .receiving bytes)
    (hn : ¬((s.port p).shift ++ sampled (quadIn bytes) io).length < 8) :
    pinClock p io s =
      s.receiveByte p (bytes ++ [byteOfBits ((s.port p).shift ++ sampled (quadIn bytes) io)]) := by
  simp only [pinClock, hc, hf, if_true]
  rw [if_neg hn]

/-- An update of a port that gives the port as it is changes nothing. -/
theorem State.modifyPort_eq_self {s : State} {p : Port} {f : PortState → PortState} (h : f (s.port p) = s.port p) :
    s.modifyPort p f = s := by
  have h' : f (s.ports.get p) = s.ports.get p := h
  simp [State.modifyPort, h']

/-- Bits on IO0 of a frame that is RECEIVING, too few for a byte. -/
theorem runEvents_bits {p : Port} {bytes : List Byte} (hq : quadIn bytes = false) (clocks : List (IoLines Bool)) :
    ∀ s : State, (s.port p).csLow = true → (s.port p).frame = .receiving bytes →
      (s.port p).shift.length + clocks.length < 8 →
      runEvents p (clocks.map .clock) s =
        .next (s.modifyPort p (fun q => { q with shift := q.shift ++ clocks.map (fun io => io.io0) })) := by
  induction clocks with
  | nil =>
    intro s _ _ _
    rw [State.modifyPort_eq_self (by simp)]
    rfl
  | cons io clocks ih =>
    intro s hc hf hn
    simp only [List.length_cons] at hn
    have h1 : pinEvent p (.clock io) s =
        .next (s.modifyPort p (fun q => { q with shift := (s.port p).shift ++ sampled (quadIn bytes) io })) :=
      pinClock_bit hc hf (by simp [hq, sampled]; omega)
    rw [List.map_cons, runEvents_cons h1, ih _ (by simpa using hc) (by simpa using hf) (by simp [hq, sampled]; omega)]
    simp only [State.modifyPort, PerPort.get_set_self, PerPort.set_set, Host.Outcome.next.injEq, State.port]
    simp [hq, sampled]

/-- The eight bits of a byte on IO0, the most significant first, of a frame that is RECEIVING. -/
theorem runEvents_byte {p : Port} {bytes : List Byte} {b : Byte} {clocks : List (IoLines Bool)} {s : State}
    (hq : quadIn bytes = false) (hc : (s.port p).csLow = true) (hf : (s.port p).frame = .receiving bytes)
    (hs : (s.port p).shift = []) (hb : clocks.map (fun io => io.io0) = bitsOf b) :
    runEvents p (clocks.map .clock) s =
      (s.modifyPort p (fun q => { q with shift := (bitsOf b).take 7 })).receiveByte p (bytes ++ [b]) := by
  have hl : clocks.length = 8 := by rw [← List.length_map, hb, bitsOf_length]
  obtain ⟨first, last, rfl⟩ : ∃ first last, clocks = first ++ [last] :=
    ⟨_, _, (List.dropLast_append_getLast (by rintro rfl; simp at hl)).symm⟩
  simp only [List.length_append, List.length_singleton] at hl
  have h7 : first.map (fun io => io.io0) = (bitsOf b).take 7 := by
    rw [← hb, List.map_append, List.take_append_of_le_length (by simp; omega), List.take_of_length_le (by simp; omega)]
  have hall : (bitsOf b).take 7 ++ sampled (quadIn bytes) last = bitsOf b := by
    rw [← h7, ← hb]
    simp [hq, sampled]
  rw [List.map_append, runEvents_append (runEvents_bits hq first s hc hf (by simp [hs]; omega)), h7]
  have h2 := pinClock_byte (p := p) (bytes := bytes) (io := last)
    (s := s.modifyPort p (fun q => { q with shift := q.shift ++ (bitsOf b).take 7 })) (by simpa using hc) (by simpa using hf)
    (by simp only [State.port_modifyPort_self, hs, List.nil_append, hall, bitsOf_length]; omega)
  simp only [State.port_modifyPort_self, hs, List.nil_append, hall, byteOfBits_bitsOf] at h2
  simp only [List.map_cons, List.map_nil, runEvents, pinEvent_clock, h2]
  have he : s.modifyPort p (fun q => { q with shift := q.shift ++ (bitsOf b).take 7 }) =
      s.modifyPort p (fun q => { q with shift := (bitsOf b).take 7 }) := by
    have hs' : (s.ports.get p).shift = [] := hs
    simp [State.modifyPort, hs']
  rw [he]
  cases State.receiveByte _ p (bytes ++ [b]) <;> rfl

/-- In TRAILING the port ignores the clock (R136). -/
theorem pinClock_trailing {p : Port} {s : State} {bytes : List Byte} (io : IoLines Bool)
    (hf : (s.port p).frame = .trailing bytes) : pinClock p io s = .next s := by
  unfold pinClock
  split
  · simp [hf, State.byteOut]
  · rfl

/-- An INERT port ignores the clock (R137). -/
theorem pinClock_inert {p : Port} {s : State} (io : IoLines Bool) (hf : (s.port p).frame = .inert) :
    pinClock p io s = .next s := by
  unfold pinClock
  split
  · simp [hf, State.byteOut]
  · rfl

/-- What a whole byte makes of a frame that was RECEIVING: it stays so, or its fixed part is complete. -/
theorem afterByte_eq_some {bytes : List Byte} {f : FrameState} (h : afterByte bytes = some f) :
    f = .receiving bytes ∨ f = .trailing bytes ∨ f = .dataIn bytes := by
  unfold afterByte at h
  split at h
  · cases h
    exact .inl rfl
  · split at h
    · cases h
      exact .inr (.inl rfl)
    · split at h
      · cases h
        exact .inl rfl
      · split at h <;> cases h
        · exact .inr (.inl rfl)
        · exact .inr (.inr rfl)

/-- A port that is delivering drives lines, and no other does (R135). -/
theorem State.driven_of_byteOut_none {s : State} {p : Port} (h : s.byteOut p = none) :
    s.driven p = ⟨none, none, none, none⟩ := by
  simp [State.driven, h]

/-! ### The bytes that a read stream delivers -/

/-- What a run of bytes and a walk to a re-check point both keep, the delivery of any number of bytes keeps. -/
theorem State.clockBytes_keeps {P : State → Prop} {p : Port}
    (run : ∀ s st d, (s.port p).frame = .readStream st → P s → P (s.clockOut p st d))
    (walk : ∀ s st d, (s.port p).frame = .readStream st → P s → P (s.walkStream p st d)) (fuel : Nat) :
    ∀ (n : Nat) (s : State), P s → P (s.clockBytes p fuel n) := by
  induction fuel with
  | zero => exact fun n s h => h
  | succ fuel ih =>
    intro n s h
    unfold State.clockBytes
    split
    · next st hf =>
      split
      · exact run s st n hf h
      · split
        · exact walk s st n hf h
        · exact ih _ _ (walk s st _ hf h)
    · exact h

/-! ### The stop of the array -/

/-- Where no cut-off is unfinished, the stop of the array changes nothing. -/
theorem State.arrayStops_of_nil {s : State} (h : s.stopping = []) : s.arrayStops = s := by
  simp [State.arrayStops, h]

/-- R72: the stop of the array hands the items over, and the engine is IDLE. -/
theorem State.arrayStops_of_ne_nil {s : State} (h : s.stopping ≠ []) :
    s.arrayStops = { s with engine := .idle, stopping := [], interrupted := s.stopping } := by
  unfold State.arrayStops
  split
  · next h' => exact absurd h' h
  · rfl

@[simp] theorem State.arrayStops_stopping (s : State) : s.arrayStops.stopping = [] := by
  unfold State.arrayStops
  split
  · next h => exact h
  · rfl

@[simp] theorem State.arrayStops_pending (s : State) : s.arrayStops.pending = s.pending := by
  unfold State.arrayStops
  split <;> rfl

@[simp] theorem State.arrayStops_inputs (s : State) : s.arrayStops.inputs = s.inputs := by
  unfold State.arrayStops
  split <;> rfl

@[simp] theorem State.arrayStops_mem (s : State) : s.arrayStops.mem = s.mem := by
  unfold State.arrayStops
  split <;> rfl

@[simp] theorem State.arrayStops_unsettled (s : State) : s.arrayStops.unsettled = s.unsettled := by
  unfold State.arrayStops
  split <;> rfl

@[simp] theorem State.arrayStops_freeIndex (s : State) : s.arrayStops.freeIndex = s.freeIndex := by
  unfold State.arrayStops
  split <;> rfl

@[simp] theorem State.arrayStops_ports (s : State) : s.arrayStops.ports = s.ports := by
  unfold State.arrayStops
  split <;> rfl

@[simp] theorem State.arrayStops_holders (s : State) : s.arrayStops.holders = s.holders := by
  unfold State.arrayStops
  split <;> rfl

@[simp] theorem State.arrayStops_queue (s : State) : s.arrayStops.queue = s.queue := by
  unfold State.arrayStops
  split <;> rfl

@[simp] theorem State.arrayStops_arrival (s : State) : s.arrayStops.arrival = s.arrival := by
  unfold State.arrayStops
  split <;> rfl

@[simp] theorem State.arrayStops_window (s : State) : s.arrayStops.window = s.window := by
  unfold State.arrayStops
  split <;> rfl

@[simp] theorem State.arrayStops_noted (s : State) : s.arrayStops.noted = s.noted := by
  unfold State.arrayStops
  split <;> rfl

@[simp] theorem State.arrayStops_regions (s : State) : s.arrayStops.regions = s.regions := by
  unfold State.arrayStops
  split <;> rfl

@[simp] theorem State.arrayStops_leaseClock (s : State) : s.arrayStops.leaseClock = s.leaseClock := by
  unfold State.arrayStops
  split <;> rfl

@[simp] theorem State.arrayStops_buffers (s : State) : s.arrayStops.buffers = s.buffers := by
  unfold State.arrayStops
  split <;> rfl

@[simp] theorem State.arrayStops_authority (s : State) : s.arrayStops.authority = s.authority := by
  unfold State.arrayStops
  split <;> rfl

@[simp] theorem State.arrayStops_generation (s : State) : s.arrayStops.generation = s.generation := by
  unfold State.arrayStops
  split <;> rfl

@[simp] theorem State.arrayStops_currentSlot (s : State) : s.arrayStops.currentSlot = s.currentSlot := by
  unfold State.arrayStops
  split <;> rfl

@[simp] theorem State.arrayStops_slotX (s : State) : s.arrayStops.slotX = s.slotX := by
  unfold State.arrayStops
  split <;> rfl

@[simp] theorem State.arrayStops_slotY (s : State) : s.arrayStops.slotY = s.slotY := by
  unfold State.arrayStops
  split <;> rfl

@[simp] theorem State.arrayStops_staged (s : State) : s.arrayStops.staged = s.staged := by
  unfold State.arrayStops
  split <;> rfl

@[simp] theorem State.arrayStops_commitImage (s : State) : s.arrayStops.commitImage = s.commitImage := by
  unfold State.arrayStops
  split <;> rfl

@[simp] theorem State.arrayStops_supply (s : State) : s.arrayStops.supply = s.supply := by
  unfold State.arrayStops
  split <;> rfl

@[simp] theorem State.arrayStops_device (s : State) : s.arrayStops.device = s.device := by
  unfold State.arrayStops
  split <;> rfl

@[simp] theorem State.arrayStops_startUpSteps (s : State) : s.arrayStops.startUpSteps = s.startUpSteps := by
  unfold State.arrayStops
  split <;> rfl

@[simp] theorem State.arrayStops_resetLow (s : State) : s.arrayStops.resetLow = s.resetLow := by
  unfold State.arrayStops
  split <;> rfl

@[simp] theorem State.arrayStops_mapDefaulted (s : State) : s.arrayStops.mapDefaulted = s.mapDefaulted := by
  unfold State.arrayStops
  split <;> rfl

/-- Everything RESET_FALL can answer with a next state. -/
theorem execResetFall_next {s t : State} (h : execResetFall s = .next t) :
    s.resetLow = false ∧
      ((s.supply = .failed ∧ t = { s with resetLow := true }) ∨
        (s.supply ≠ .failed ∧ s.stopping ≠ [] ∧ t = s.atReset s.stopping) ∨
        (s.supply ≠ .failed ∧ s.stopping = [] ∧ t = s.cutOff.atReset s.cutOffItems)) := by
  unfold execResetFall at h
  split at h
  · cases h
  · next hr =>
    refine ⟨by simpa using hr, ?_⟩
    split at h
    · next hf =>
      cases h
      exact .inl ⟨hf, rfl⟩
    · next hf =>
      split at h
      · next hs =>
        cases h
        exact .inr (.inl ⟨hf, hs, rfl⟩)
      · next hs =>
        cases h
        exact .inr (.inr ⟨hf, by simpa using hs, rfl⟩)

/-- What the next of the other inputs is (R72, R135, log 32). -/
@[simp] theorem takeInput_pin (p : Port) (e : PinEvent) (s : State) : takeInput (.pin p e) s = pinEvent p e s := rfl

@[simp] theorem takeInput_command (c : Instr) (s : State) : takeInput (.command c) s = exec c s := rfl

@[simp] theorem takeInput_arrayStops (s : State) : takeInput .arrayStops s = .next s.arrayStops := rfl

/-! ### Start-up -/

/-- Everything START_UP can answer with a next state. -/
theorem execStartUp_next {run : StartUpRun} {s t : State} (h : execStartUp run s = .next t) :
    s.device = .starting ∧ s.resetLow = false ∧ s.supply ≠ .failed ∧
      t = (s.stepsThrough run.through).foldl (State.startUpStep run.mv) s.arrayStops := by
  unfold execStartUp at h
  split at h
  · next hs =>
    cases h
    exact ⟨hs.1, hs.2.1, hs.2.2, rfl⟩
  · cases h

@[simp] theorem State.startUpStep_queue (s : State) (mv : Nat) (k : StartUpStep) :
    (s.startUpStep mv k).queue = s.queue := by
  cases k <;> rfl

@[simp] theorem State.startUpStep_mem (s : State) (mv : Nat) (k : StartUpStep) :
    (s.startUpStep mv k).mem = s.mem := by
  cases k <;> rfl

@[simp] theorem State.startUpStep_pending (s : State) (mv : Nat) (k : StartUpStep) :
    (s.startUpStep mv k).pending = s.pending := by
  cases k <;> rfl

@[simp] theorem State.startUpStep_inputs (s : State) (mv : Nat) (k : StartUpStep) :
    (s.startUpStep mv k).inputs = s.inputs := by
  cases k <;> rfl

@[simp] theorem State.startUpStep_engine (s : State) (mv : Nat) (k : StartUpStep) :
    (s.startUpStep mv k).engine = s.engine := by
  cases k <;> rfl

/-- Only the last step of start-up leaves STARTING (R176, R177). -/
theorem State.startUpStep_device {mv : Nat} {k : StartUpStep} (s : State) (h : k ≠ .ready) :
    (s.startUpStep mv k).device = s.device := by
  cases k <;> first | rfl | exact absurd rfl h

end Sys2Proof.Machine
end

