-- ==== Sys2Proof/Tests/Slice0.lean ====
section
/-! SUPPORT. Tests: ill-formed commands are refused; frames written out byte by byte decode to their commands; one or
two steps of each command, with the results that the spec's examples give; and, for each statement with hypotheses, a
state and operands that meet them. -/

namespace Sys2Proof.Tests

open Sys2Proof Sys2Proof.Machine

/-! ### Well-formedness: each check refuses a term -/

theorem test_wf_load_needs_data : (Instr.loadBuffer .a 0 0 []).wellFormed = false := by decide
theorem test_wf_quad_load_needs_data : (Instr.loadBufferQuad .a 0 0 []).wellFormed = false := by decide
theorem test_wf_short_frame_needs_a_bit : (Instr.frameEndsShort .b 0).wellFormed = false := by decide
theorem test_wf_known_opcode_is_not_unknown : (Instr.unknownOpcode .c 0x71).wellFormed = false := by decide
theorem test_wf_marginal_range :
    (Instr.supplyMarginal 2449).wellFormed = false ∧ (Instr.supplyMarginal 2750).wellFormed = false := by decide
theorem test_wf_normal_range : (Instr.supplyNormal 2850).wellFormed = false := by decide
theorem test_wf_failed_range : (Instr.supplyFailed 2450).wellFormed = false := by decide
theorem test_wf_power_on_range : (Instr.powerOnDetection 2600).wellFormed = false := by decide
theorem test_wf_start_up_range : (Instr.startUp ⟨.ready, 2449⟩).wellFormed = false := by decide

/-! ### Decoding: frames written out from R185 and R187 -/

theorem test_decode_read_array :
    decodeFrame .b ⟨[0x48, 0x3F, 0xFF, 0xF0, 0x00, 0x11, 0x22], 3⟩ =
      [.readArray .b 0x3FFFF0, .readStreamClose .b 2] := by decide
theorem test_decode_quad_read_array :
    decodeFrame .c ⟨[0x4C, 0x45, 0xFF, 0x00, 0x00], 0⟩ =
      [.quadReadArray .c 0x45FF00, .readStreamClose .c 0] := by decide
theorem test_decode_load : decodeFrame .a ⟨[0x56, 0x01, 0xF0, 0xAB, 0xCD], 0⟩ =
    [.loadBuffer .a 1 0xF0 [0xAB, 0xCD]] := by decide
theorem test_decode_submit_program : decodeFrame .b ⟨[0xA2, 0x01, 0x9A, 0x00, 0x00, 0x44, 0x02], 0⟩ =
    [.submitProgram .b 1 0x9A0000 0x44 2] := by decide
theorem test_decode_submit_erase : decodeFrame .c ⟨[0xA4, 0x2A, 0x34, 0x56, 0x24, 0x03], 0⟩ =
    [.submitSectorErase .c 0x2A3456 0x24 3] := by decide
theorem test_decode_claim_overlong : decodeFrame .a ⟨[0xC1, 0x03, 0xFF], 5⟩ = [.claimRegion .a 3] := by decide
theorem test_decode_claim_short : decodeFrame .b ⟨[0xC1], 5⟩ = [.frameEndsShort .b 13] := by decide
theorem test_decode_map_stage_region :
    decodeFrame .a ⟨[0x93, 0x01, 0x01, 0x80, 0xFF, 0x07, 0x06, 0x32], 0⟩ =
      [.mapStageRegion .a 1 1 128 255 7 6 50] := by decide
theorem test_decode_signal : decodeFrame .b ⟨[0xE8, 0x03, 0x5A], 0⟩ = [.signalPort .b 3 0x5A] := by decide
theorem test_decode_pop : decodeFrame .a ⟨[0xE2, 0, 0, 0, 0, 0, 0, 0, 0], 0⟩ =
    [.popCompletion .a (.fixed ()), .popCompletion .a (.rise 8)] := by decide
theorem test_decode_clear_interrupted : decodeFrame .c ⟨[0xF4], 0⟩ = [.clearInterrupted .c] := by decide
theorem test_decode_port_reset : decodeFrame .b ⟨[0xF9], 0⟩ = [.portReset .b] := by decide

/-! ### Helpers: outcomes and small states -/

/-- The command answers a next state that satisfies a condition. -/
def next (r : Result) (f : State → Bool) : Bool :=
  match r with
  | .next t => f t
  | _ => false

/-- The command is refused for a reason. -/
def refuses (r : Result) (why : Refusal) : Bool :=
  match r with
  | .refused x => decide (x = why)
  | _ => false

/-- A port of a part that is READY, with a profile and an otherwise fresh state. -/
def portWith (ceiling window : Nat) (fill : Byte) : PortState :=
  { freshPort .deselected with enables := .all, profile := ⟨ceiling, window, fill⟩ }

/-- READY and NORMAL under the factory map (R157). -/
def ready : State :=
  { State.reset with
    device := .ready
    supply := .normal
    leaseClock := true
    currentSlot := some .x
    authority := some .a
    regions := some ⟨⟨0, 255, .all, .all, 100⟩, freshLease⟩ :: List.replicate 15 none
    ports := ⟨portWith 3 5 0, portWith 3 5 0, portWith 3 5 0⟩ }

/-- An entry in region 0, not orphaned, with no bypass. -/
def entry (p : Port) (tag : Byte) (kind : EntryKind) (target : Option Target) (cls : Nat) (state : EntryState)
    (suspends : Nat) : Entry :=
  ⟨p, tag, kind, target, if kind = .mapCommit then none else some 0, none, cls, cls, 0, state, false, suspends, 0⟩

/-- `ready` with work in its queue. -/
def working (engine : EngineState) (queue : List Entry) : State := { ready with engine := engine, queue := queue }

/-- `ready` with the lease of region 0 given. -/
def leased (l : Lease) : State := { ready with regions := some ⟨⟨0, 255, .all, .all, 100⟩, l⟩ :: List.replicate 15 none }

/-- The state of chapter 1's example: A's erase of sector 1120 is RUNNING, and B's fill byte is AAh. -/
def bankExample : State :=
  { working .busy [entry .a 0x10 .sectorErase (some (.sector 1120)) 1 .running 0] with
    ports := ⟨portWith 3 5 0, portWith 3 5 0xAA, portWith 3 5 0⟩ }

/-! ### The Read Path (chapter 1, example; sequence 2) -/

theorem test_read_array_holds_its_bank : next (exec (.readArray .b 0x3FFFF0) bankExample) (fun t =>
    decide ((t.port .b).frame = .readStream ⟨0x3FFFF0, some 0, none, false⟩) && decide (t.holders = ⟨1, 0, 0, 0⟩)) =
    true := by decide

/-- Sequence 2: C's stream meets A's erase of sector 2064 and asks for a window of 4 ms. -/
theorem test_quad_read_array_requests_a_window :
    next (exec (.quadReadArray .c 0x880000)
      { working .busy [entry .a 0x30 .sectorErase (some (.sector 2064)) 1 .running 0] with
        ports := ⟨portWith 3 5 0, portWith 3 5 0, portWith 2 4 0xFF⟩ }) (fun t =>
      decide (t.noted = some 4) && decide (t.engine = .suspending) && (t.port .c).conflictSeen &&
        decide ((t.port .c).frame = .readStream ⟨0x880000, none, some 0xFF, true⟩)) = true := by decide

/-- B's stream of the example, 16 bytes before bank 1. -/
def streamB : State :=
  { bankExample.setFrame .b (.readStream ⟨0x3FFFF0, some 0, none, false⟩) with holders := ⟨1, 0, 0, 0⟩ }

theorem test_block_crossing_new_bank_conflicts : next (exec (.blockCrossingNewBank .b) streamB) (fun t =>
    decide ((t.port .b).frame = .readStream ⟨0x400000, none, some 0xAA, false⟩) && decide (t.holders = ⟨0, 0, 0, 0⟩) &&
      decide ((t.port .b).output = List.replicate 16 0xFF) && decide (t.noted = some 5) && (t.port .b).conflictSeen) =
    true := by decide

theorem test_block_crossing_keeps_its_bank :
    next (exec (.blockCrossing .a)
      { ready.setFrame .a (.readStream ⟨0x00FFFE, some 0, none, false⟩) with holders := ⟨1, 0, 0, 0⟩ }) (fun t =>
      decide ((t.port .a).frame = .readStream ⟨0x010000, some 0, none, false⟩) && decide (t.holders = ⟨1, 0, 0, 0⟩)) =
    true := by decide

/-- A parked erase of sector 1120, with C's stream two bytes before it. -/
def parkedExample : State :=
  { (working .parked [entry .a 0x10 .sectorErase (some (.sector 1120)) 1 .suspended 1]).setFrame .c
      (.readStream ⟨0x45FFFE, some 1, none, false⟩) with
    holders := ⟨0, 1, 0, 0⟩
    window := some 5 }

theorem test_target_entry_fills : next (exec (.targetEntry .c) parkedExample) (fun t =>
    decide ((t.port .c).frame = .readStream ⟨0x460000, none, some 0x00, false⟩) && decide (t.holders = ⟨0, 0, 0, 0⟩) &&
      decide (t.noted = none) && (t.port .c).latched.readConflict) = true := by decide

theorem test_target_entry_needs_a_target : refuses (exec (.targetEntry .b) streamB) .noTargetAhead = true := by decide

theorem test_close_delivers_the_fill :
    next (exec (.readStreamClose .b 32) (bankExample.setFrame .b (.readStream ⟨0x400000, none, some 0xAA, false⟩)))
      (fun t => decide ((t.port .b).output = List.replicate 32 0xAA) && decide ((t.port .b).frame = .deselected)) =
    true := by decide

/-- Chapter 3, second example: the close lets the parked erase be resumed. -/
theorem test_close_resumes_the_erase :
    next (exec (.readStreamClose .c 0) { parkedExample with window := none })
      (fun t => decide (t.engine = .busy) && decide (t.queue.map (fun e => e.state) = [.running])) = true := by decide

/-! ### Program Buffers (chapter 5, examples) -/

/-- `ready` with buffer 2 mapped to A's handle 1. -/
def loaded : State :=
  (ready.modifyBuffer 2 (fun u => { u with state := .filling })).setHandle .a 1 (some 2)

theorem test_load_writes_in_place : next (exec (.loadBuffer .a 1 0x10 [0x00, 0x7F]) loaded) (fun t =>
    match t.buffers[2]? with
    | some u => decide (u.data.take 19 = List.replicate 16 0xFF ++ [0x00, 0x7F, 0xFF])
    | none => false) = true := by decide

/-- Four PROGRAM entries fill B's ownership: NO_BUFFER. -/
theorem test_load_no_buffer : next (exec (.loadBuffer .b 0 0 [1])
    (working .busy ((List.range 4).map (fun n => entry .b (byteOf n) .program (some (.page n)) 1 .queued 0)))) (fun t =>
    decide ((t.port .b).lastResponse = .noBuffer) && decide ((t.port .b).handle 0 = none)) = true := by decide

theorem test_quad_load_allocates_and_wraps : next (exec (.loadBufferQuad .c 3 0xFF [0x11, 0x22]) loaded) (fun t =>
    decide ((t.port .c).handle 3 = some 0) && (match t.buffers[0]? with
      | some u => decide (u.state = .filling) && decide (u.data.take 2 = [0x22, 0xFF]) &&
          decide (u.data.drop 254 = [0xFF, 0x11])
      | none => false)) = true := by decide

theorem test_discard_frees : next (exec (.discardBuffer .a 1) loaded) (fun t =>
    decide ((t.port .a).handle 1 = none) && decide (t.freeBuffers = 6)) = true := by decide

theorem test_discard_no_handle : next (exec (.discardBuffer .b 2) ready) (fun t =>
    decide ((t.port .b).lastResponse = .noHandle)) = true := by decide

theorem test_read_buffer_opens : next (exec (.readBuffer .a (.fixed (1, 0xFE))) loaded) (fun t =>
    decide ((t.port .a).frame = .bufferStream ⟨some 2, 0xFE⟩)) = true := by decide

theorem test_read_buffer_wraps :
    next (exec (.readBuffer .a (.rise 2))
      ((loaded.modifyBuffer 2 (fun u => { u with data := u.data.set 255 9 })).setFrame .a (.bufferStream ⟨some 2, 0xFF⟩)))
      (fun t => decide ((t.port .a).output = [9, 0xFF])) = true := by decide

/-! ### Host Ports (chapter 7, example) -/

theorem test_short_frame : next (exec (.frameEndsShort .b 13) ready) (fun t =>
    decide ((t.port .b).lastResponse = .frameError)) = true := by decide

theorem test_unknown_opcode : next (exec (.unknownOpcode .b 0x00) ready) (fun t =>
    decide ((t.port .b).lastResponse = .badCommand)) = true := by decide

theorem test_inquiry_dropped : exec (.inquiryDropped .b) ready = .next ready := rfl

theorem test_status_view : (ready.modifyPort .b (fun q => { q with lastResponse := .badCommand, deniedSeen := true })).statusView
    .b = [0x03, 0x01, 0x00, 0x00, 0x00, 0x08, 0x60, 0x02] := by decide

theorem test_status_clears_when_whole :
    let s := (ready.modifyPort .b (fun q => { q with deniedSeen := true })).setFrame .b
      (.dataOut (.status [3, 1, 0, 0, 0, 8, 0x60, 2] false true))
    next (exec (.readStatus .b (.rise 5)) s) (fun t => (t.port .b).deniedSeen) = true ∧
    next (exec (.readStatus .b (.rise 8)) s) (fun t => !(t.port .b).deniedSeen) = true := by decide

theorem test_identity :
    next (exec (.readIdentity .b (.rise 6)) (ready.setFrame .b (.dataOut (.inquiry .identity (identityView .b)))))
      (fun t => decide ((t.port .b).output = [0x5D, 0xA3, 0x0B, 0x01, 0x00, 0x00])) = true := by decide

theorem test_starting_answers_not_ready :
    next (exec (.submitBlockErase .b 0 0 0) State.reset) (fun t =>
      decide ((t.port .b).lastResponse = .notReady) && decide (t.queue = [])) = true ∧
    next (exec (.notReadyAnswer .b (.fixed ())) State.reset) (fun t =>
      decide ((t.port .b).frame = .dataOut (.notReady false))) = true := by decide

/-! ### The Work Queue (chapter 2, examples) -/

/-- C holds region 0 with a ceiling of 2. -/
def heldByC : State :=
  { leased ⟨.held, some .c, 100, [], 0⟩ with
    engine := .busy
    ports := ⟨portWith 3 5 0, portWith 3 5 0, portWith 2 5 0⟩ }

theorem test_submit_sector_erase_caps_its_class :
    next (exec (.submitSectorErase .c 0x2A3456 0x24 3) heldByC) (fun t =>
      decide (t.queue = [⟨.c, 0x24, .sectorErase, some (.sector 675), some 0, none, 3, 2, 0, .queued, false, 0, 0⟩]) &&
        decide ((t.port .c).lastResponse = .ok)) = true := by decide

/-- Chapter 4's example: in IDLE the erase starts at once and counts in its region's drain count. -/
theorem test_submit_block_erase_starts :
    next (exec (.submitBlockErase .a 0x650000 0x01 1) (leased ⟨.held, some .a, 8, [.b], 0⟩)) (fun t =>
      decide (t.engine = .busy) && decide (t.queue.map (fun e => (e.state, e.target)) = [(.running, some (.block 101))]) &&
        decide ((t.region 0).map (fun r => r.lease.drain) = some 1)) = true := by decide

theorem test_submit_program_binds :
    next (exec (.submitProgram .a 1 0x140100 0x21 2)
      (({ leased ⟨.held, some .a, 8, [], 0⟩ with engine := .busy }.modifyBuffer 2
        (fun u => { u with state := .filling })).setHandle .a 1 (some 2))) (fun t =>
      decide (t.queue.map (fun e => (e.target, e.buffer)) = [(some (.page 0x1401), some 2)]) &&
        decide ((t.buffers[2]?).map (fun u => u.state) = some .bound) && decide ((t.port .a).handle 1 = none)) =
    true := by decide

theorem test_submit_program_no_credit :
    next (exec (.submitProgram .c 0 0x2A0000 0x25 1)
      ({ heldByC with
        queue := (List.range 8).map (fun n => entry .c (byteOf n) .sectorErase (some (.sector n)) 1 .queued 0) }.setHandle
        .c 0 (some 0))) (fun t => decide ((t.port .c).lastResponse = .noCredit)) = true := by decide

theorem test_cancel_posts_its_record :
    next (exec (.cancel .c 0x22) { heldByC with queue := [entry .c 0x22 .program (some (.page 0x2A00)) 1 .queued 0] })
      (fun t => decide (t.queue = []) && decide ((t.port .c).completions.map (fun r => (r.tag, r.status, r.sequence)) =
        [(0x22, .cancelled, 0)])) = true := by decide

theorem test_cancel_started :
    next (exec (.cancel .a 0x10) bankExample) (fun t => decide ((t.port .a).lastResponse = .started)) = true := by decide

theorem test_queue_slot : bankExample.queueView.take 16 =
    [0x49, 0x10, 0x46, 0x00, 0x00, 0x50, 0xE0, 0x00, 0, 0, 0, 0, 0, 0, 0, 0] := by decide

/-- Chapter 2's aging example: the start of A 05h. -/
theorem test_start_ages_older_work :
    let s := working .idle
      [{ entry .b 0x10 .program (some (.page 0x8000)) 0 .queued 0 with bypass := 6 },
       { entry .c 0x31 .sectorErase (some (.sector 0xC00)) 1 .queued 0 with bypass := 7 },
       entry .a 0x05 .program (some (.page 1)) 3 .queued 0, entry .a 0x06 .program (some (.page 2)) 3 .queued 0]
    s.look.queue.map (fun e => (e.tag, e.state, e.effectiveClass, e.bypass)) =
      [(0x10, .queued, 0, 7), (0x31, .queued, 2, 0), (0x05, .running, 3, 0), (0x06, .queued, 3, 0)] := by decide

/-! ### The Scheduler and the Engine (chapter 3, examples) -/

/-- The race of chapter 3: A 40h is SUSPENDING, B 12h presses it. -/
def race : State :=
  working .suspending [entry .a 0x40 .blockErase (some (.block 130)) 0 .suspending 3,
    entry .b 0x12 .program (some (.page 0x8C00)) 2 .queued 0]

theorem test_suspend_point_order_one : next (exec .suspendPoint race) (fun t =>
    decide (t.engine = .busyParked) &&
      decide (t.queue.map (fun e => (e.tag, e.state, e.suspendCount)) = [(0x40, .suspended, 4), (0x12, .running, 0)])) =
    true := by decide

theorem test_operation_end_order_two : next (exec (.operationEnd .done) race) (fun t =>
    decide (t.engine = .busy) && decide (t.queue.map (fun e => (e.tag, e.state)) = [(0x12, .running)]) &&
      decide ((t.port .a).completions.map (fun r => (r.tag, r.status, r.suspendCount)) = [(0x40, .done, 3)]) &&
      decide (t.unsettled = [])) = true := by decide

theorem test_failed_program_is_unsettled :
    next (exec (.operationEnd .failed) (working .busy [entry .b 0x05 .program (some (.page 0x4701)) 1 .running 0]))
      (fun t => decide (t.unsettled = [0x4701]) && decide ((t.port .b).completions.map (fun r => r.status) =
        [.programFailed])) = true := by decide

theorem test_window_step : next (exec .readWindowStep { parkedExample with window := some 4 }) (fun t =>
    decide (t.window = some 3)) = true := by decide

theorem test_window_close_resumes :
    next (exec .readWindowClose
      { working .parked [entry .a 0x30 .sectorErase (some (.sector 2064)) 1 .suspended 1] with window := some 1 })
      (fun t => decide (t.engine = .busy) && decide (t.window = none)) = true := by decide

theorem test_program_ands_its_page :
    (Memory.program [(256, 0x0F)] 256 [0xFC, 0x00]).read 256 = 0x0C ∧
    (Memory.program [(256, 0x0F)] 256 [0xFC, 0x00]).read 257 = 0x00 := by decide

/-! ### Leases (chapter 4, example; chapter 6, example) -/

/-- Region 3 of the example: blocks 100 to 103, write mask A and B, lease limit 8. -/
def region3 (l : Lease) : State :=
  { ready with
    regions := List.replicate 3 none ++ [some ⟨⟨100, 103, .all, ⟨true, true, false⟩, 8⟩, l⟩] ++ List.replicate 12 none }

theorem test_claim_grants : next (exec (.claimRegion .a 3) (region3 freshLease)) (fun t =>
    decide ((t.region 3).map (fun r => r.lease) = some ⟨.held, some .a, 8, [], 0⟩) && (t.port .a).latched.leaseGranted) =
    true := by decide

theorem test_claim_mask_first :
    next (exec (.claimRegion .c 3) (region3 ⟨.held, some .a, 8, [.b], 0⟩)) (fun t =>
      decide ((t.port .c).lastResponse = .noPermission)) = true := by decide

theorem test_renew_waiter_is_not_holder :
    next (exec (.renewLease .b 3) (region3 ⟨.held, some .a, 2, [.b], 0⟩)) (fun t =>
      decide ((t.port .b).lastResponse = .notHolder)) = true ∧
    next (exec (.renewLease .a 3) (region3 ⟨.held, some .a, 2, [.b], 0⟩)) (fun t =>
      decide ((t.region 3).map (fun r => r.lease.remaining) = some 8)) = true := by decide

theorem test_release_drains :
    next (exec (.releaseRegion .a 3) (region3 ⟨.held, some .a, 7, [.b], 1⟩)) (fun t =>
      decide ((t.region 3).map (fun r => r.lease) = some ⟨.draining, none, 0, [.b], 1⟩)) = true := by decide

theorem test_end_hands_the_region_over :
    next (exec (.operationEnd .done)
      { region3 ⟨.draining, none, 0, [.b, .a], 1⟩ with
        engine := .busy
        queue := [{ entry .a 0x01 .blockErase (some (.block 101)) 1 .running 0 with region := some 3 }] }) (fun t =>
      decide ((t.region 3).map (fun r => r.lease) = some ⟨.held, some .b, 8, [.a], 0⟩) &&
        (t.port .b).latched.leaseGranted && decide (t.engine = .idle)) = true := by decide

theorem test_tick_warns : next (exec .leaseTick (region3 ⟨.held, some .a, 3, [.b], 0⟩)) (fun t =>
    decide ((t.region 3).map (fun r => r.lease.remaining) = some 2) && (t.port .a).latched.leaseWarning) = true := by decide

/-- Chapter 6's expiry: two QUEUED entries leave with sequence numbers 0042h and 0043h, and the region drains. -/
def expiring : State :=
  { leased ⟨.held, some .a, 1, [], 1⟩ with
    engine := .busy
    queue := [entry .a 0x20 .blockErase (some (.block 20)) 1 .running 0,
      entry .a 0x21 .program (some (.page 1)) 2 .queued 0, entry .a 0x22 .program (some (.page 2)) 2 .queued 0] }.modifyPort
    .a (fun q => { q with sequence := 0x42 })

theorem test_lease_expiry : next (exec (.leaseExpiry 0) expiring) (fun t =>
    decide (t.queue.map (fun e => e.tag) = [0x20]) &&
      decide ((t.port .a).completions.map (fun r => (r.sequence, r.tag, r.status)) =
        [(0x42, 0x21, .leaseLost), (0x43, 0x22, .leaseLost)]) && (t.port .a).latched.leaseLost &&
      decide ((t.region 0).map (fun r => r.lease) = some ⟨.draining, none, 0, [], 1⟩)) = true := by decide

theorem test_regions_slot : ((region3 ⟨.held, some .a, 7, [.b], 1⟩).regionsView.drop 24).take 8 =
    [0x02, 100, 103, 0x37, 8, 7, 0x18, 1] := by decide

/-! ### Completion, notices and mailboxes (chapter 6, examples) -/

/-- A record of the example: LEASE_LOST, tag 21h. -/
def record : CompletionRecord := ⟨0x42, 0x21, .program, 0x140000, .leaseLost, 2, 0⟩

theorem test_record_bytes : recordBytes (some record) = [0x00, 0x42, 0x21, 0x15, 0x14, 0x00, 0x00, 0x80] := by decide

theorem test_pop_needs_all_eight :
    let s := ready.modifyPort .a (fun q => { q with completions := [record], frame := .dataOut (.completion (some record)) })
    next (exec (.popCompletion .a (.rise 5)) s) (fun t => decide ((t.port .a).completions = [record])) = true ∧
    next (exec (.popCompletion .a (.rise 8)) s) (fun t => decide ((t.port .a).completions = [])) = true := by decide

/-- PEER_SIGNAL, posted after the view, stays pending. -/
theorem test_notices_keep_what_came_after :
    let shown := { NoticeFlags.none with leaseLost := true }
    let s := ready.modifyPort .a (fun q =>
      { q with
        frame := .dataOut (.notices shown .all)
        latched := { shown with peerSignal := true }
        postedSinceView := { NoticeFlags.none with peerSignal := true } })
    next (exec (.readNotices .a (.rise 2)) s) (fun t =>
      decide ((t.port .a).latched = { NoticeFlags.none with peerSignal := true }) &&
        decide ((t.port .a).output = [0x04, 0xFF])) = true := by decide

theorem test_enables_by_bit : next (exec (.setNoticeEnables .c 0x81) ready) (fun t =>
    decide ((t.port .c).enables = { NoticeFlags.none with completion := true, deviceEvent := true })) = true := by decide

theorem test_signal : next (exec (.signalPort .b 3 0x5A) ready) (fun t =>
    decide ((t.port .c).mailbox = some ⟨.b, 0x5A⟩) && (t.port .c).latched.peerSignal && t.alertLow .c) = true := by decide

theorem test_signal_full :
    next (exec (.signalPort .a 3 1) (ready.modifyPort .c (fun q => { q with mailbox := some ⟨.b, 0x5A⟩ }))) (fun t =>
      decide ((t.port .a).lastResponse = .mailboxFull)) = true := by decide

theorem test_mailbox_needs_both :
    let s := ready.modifyPort .c (fun q => { q with mailbox := some ⟨.b, 0x5A⟩, frame := .dataOut (.mailbox (some ⟨.b, 0x5A⟩)) })
    next (exec (.readMailbox .c (.rise 1)) s) (fun t => decide ((t.port .c).mailbox = some ⟨.b, 0x5A⟩)) = true ∧
    next (exec (.readMailbox .c (.rise 2)) s) (fun t =>
      decide ((t.port .c).mailbox = none) && decide ((t.port .c).output = [0x02, 0x5A])) = true := by decide

/-! ### Map and Configuration Store (sequence 3) -/

theorem test_stage_begin : next (exec (.mapStageBegin .a) ready) (fun t => decide (t.staged = some factoryMap)) = true := by
  decide

/-- Sequence 3: the split of region 0, before region 0 is cut to blocks 0 to 127. -/
def overlapping : MapImage :=
  { factoryMap with regions := factoryMap.regions.set 1 (some ⟨128, 255, .all, ⟨false, true, true⟩, 50⟩) }

theorem test_stage_region :
    next (exec (.mapStageRegion .a 1 1 128 255 7 6 50) { ready with staged := some factoryMap }) (fun t =>
      decide (t.staged = some overlapping)) = true := by decide

theorem test_stage_profile :
    next (exec (.mapStageProfile .a 2 2 5 0) { ready with staged := some factoryMap }) (fun t =>
      decide (t.staged.map (fun m => m.profiles) = some ⟨⟨3, 5, 0⟩, ⟨2, 5, 0⟩, ⟨3, 5, 0⟩⟩)) = true := by decide

theorem test_stage_authority :
    next (exec (.mapStageAuthority .a 0) { ready with staged := some factoryMap }) (fun t =>
      decide (t.staged.map (fun m => m.authority) = some none)) = true ∧
    next (exec (.mapStageAuthority .b 0) { ready with staged := some factoryMap }) (fun t =>
      decide ((t.port .b).lastResponse = .notAuthority)) = true := by decide

theorem test_commit_bad_map :
    next (exec (.mapCommit .a 0x70) { ready with staged := some overlapping }) (fun t =>
      decide ((t.port .a).lastResponse = .badMap)) = true := by decide

/-- The valid split, and its commit while it runs. -/
def split : MapImage :=
  { overlapping with regions := overlapping.regions.set 0 (some ⟨0, 127, .all, .all, 100⟩) }

theorem test_commit_starts_and_freezes :
    next (exec (.mapCommit .a 0x70) { ready with staged := some split }) (fun t =>
      decide (t.engine = .busy) && decide ((t.region 0).map (fun r => (r.lease.state, r.definition.last)) = some (.frozen, 255)) &&
        decide (t.region 1 = none) && !t.slotY.mark && t.slotX.mark &&
        decide (t.queue.map (fun e => (e.state, e.effectiveClass)) = [(.running, 3)])) = true := by decide

theorem test_commit_done :
    next (exec (.operationEnd .done)
      { working .busy [entry .a 0x70 .mapCommit none 3 .running 0] with
        regions := some ⟨⟨0, 255, .all, .all, 100⟩, ⟨.frozen, none, 0, [], 0⟩⟩ :: List.replicate 15 none
        staged := some split
        commitImage := some split }) (fun t =>
      decide (t.currentSlot = some .y) && decide (t.generation = 1) && decide (t.slotY = ⟨split, 1, true⟩) &&
        decide ((t.region 0).map (fun r => (r.definition.last, r.lease.state)) = some (127, .free)) &&
        decide (t.staged = none) && (t.port .c).latched.mapChanged) = true := by decide

theorem test_discard : next (exec (.mapDiscard .a) { ready with staged := some split }) (fun t =>
    decide (t.staged = none)) = true := by decide

theorem test_map_view : (ready.mapView 0).take 7 = [0x85, 0x00, 0x00, 0, 255, 0xF7, 100] := by decide

/-! ### PORT RESET (sequence 4), supply and RESET# (chapter 9, examples) -/

theorem test_port_reset :
    next (exec (.portReset .b)
      { leased ⟨.held, some .b, 40, [.c], 1⟩ with
        engine := .busy
        queue := [entry .b 0x50 .program (some (.page 0x9000)) 1 .running 0,
          entry .b 0x51 .program (some (.page 0x9001)) 1 .queued 0] }) (fun t =>
      decide (t.queue.map (fun e => (e.tag, e.orphaned)) = [(0x50, true)]) &&
        decide ((t.region 0).map (fun r => r.lease) = some ⟨.draining, none, 0, [.c], 1⟩) &&
        decide ((t.port .b).completions = [])) = true := by decide

theorem test_supply_marginal : next (exec (.supplyMarginal 2700) ready) (fun t =>
    decide (t.supply = .marginal) && (t.port .c).latched.deviceEvent) = true := by decide

theorem test_supply_normal_looks :
    next (exec (.supplyNormal 2900)
      { working .parked [entry .a 0x40 .blockErase (some (.block 130)) 0 .suspended 4,
          entry .b 0x12 .program (some (.page 0x8C00)) 3 .queued 0] with supply := .marginal }) (fun t =>
      decide (t.supply = .normal) && decide (t.engine = .busyParked) && (t.port .b).latched.deviceEvent) = true ∧
    refuses (exec (.supplyNormal 2800) { ready with supply := .marginal }) .notThisSupplyChange = true := by decide

/-- B's PROGRAM over A's parked erase, with C's old item in the record. -/
def resetExample : State :=
  { working .busyParked [entry .a 0x11 .sectorErase (some (.sector 1120)) 1 .suspended 2,
      entry .b 0x05 .program (some (.page 0x4701)) 2 .running 0] with
    interrupted := [⟨.blockErase, 0x200000, .c, 0, false⟩] }

/-- R72, R182: the record is replaced when the array has stopped. -/
theorem test_reset_fall_records : next (exec .resetFall resetExample) (fun t =>
    decide (t.unsettled = (List.range' 0x4600 16) ++ [0x4701]) && decide (t.queue = []) &&
      decide ((t.port .c).frame = .inert) && decide (t.interrupted = resetExample.interrupted) &&
      next (step { t with inputs := [.arrayStops] }) (fun u => decide (u.engine = .idle) && decide (u.stopping = []) &&
        decide (u.interrupted =
          [⟨.program, 0x470100, .b, 0x05, false⟩, ⟨.sectorErase, 0x460000, .a, 0x11, true⟩]))) = true := by decide

/-- R46, R181: RESET# rises before the array has stopped. READ STATUS shows the engine and the record of the fall, a
further fall starts no second cut-off, and START_UP waits for the stop. -/
theorem test_reset_short_pulse :
    next (exec .resetFall resetExample) (fun s => next (exec .resetRise s) (fun t =>
      decide ((t.statusView .a)[2]? = some 4) && decide ((t.statusView .a)[7]? = some 0x08) &&
        next (exec .resetFall t) (fun u => decide (u.stopping = s.stopping) && decide (u.engine = .busyParked)) &&
        next (exec (.startUp ⟨.slotChoice, 3300⟩) t) (fun u => decide (u.engine = .idle) &&
          decide (u.interrupted = s.stopping) && decide (u.startUpSteps = 1)))) = true := by decide

theorem test_supply_failed_loses_the_record : next (exec (.supplyFailed 2400) resetExample) (fun t =>
    decide (t.interrupted = []) && decide (t.unsettled.length = 17) && decide (t.supply = .failed)) = true := by decide

theorem test_power_on :
    next (exec (.powerOnDetection 2650) { ready with supply := .failed }) (fun t =>
      decide (t.supply = .marginal) && decide (t.device = .starting) && decide ((t.port .a).frame = .deselected)) =
    true := by decide

theorem test_reset_rise : next (exec .resetRise { State.reset with resetLow := true }) (fun t =>
    !t.resetLow && decide (t.device = .starting)) = true := by decide

theorem test_start_up_takes_the_higher_generation :
    next (exec (.startUp ⟨.ready, 3300⟩)
      { State.reset with slotX := ⟨factoryMap, 2, true⟩, slotY := ⟨split, 3, true⟩ }) (fun t =>
      decide (t.currentSlot = some .y) && decide (t.generation = 3) && decide (t.supply = .normal) &&
        decide (t.device = .ready) && t.leaseClock && (t.port .a).latched.deviceEvent && decide (t.engine = .idle)) = true := by
  decide

/-- R177, R178, R179: after step 1 a READ STATUS in STARTING shows MAP_DEFAULTED, and RESET# leaves it. -/
theorem test_start_up_cut_at_slot_choice :
    let s := { State.reset with slotX := ⟨factoryMap, 0, false⟩ }
    next (exec (.startUp ⟨.slotChoice, 3300⟩) s) (fun t =>
      decide (t.device = .starting) && decide (((t.statusView .a)[7]?) = some 0x04) &&
        decide (((s.statusView .a)[7]?) = some 0x00) && next (exec .resetFall t) (fun u => u.mapDefaulted)) = true := by
  decide

theorem test_start_up_cut_at_assessment : next (exec (.startUp ⟨.assessment, 3300⟩) State.reset) (fun t =>
    decide (t.supply = .normal) && decide (t.device = .starting) && !(t.port .a).latched.deviceEvent &&
      next (exec .resetFall t) (fun u => decide (u.supply = .normal) && decide (u.startUpSteps = 0))) = true := by decide

theorem test_interrupted_view :
    { ready with interrupted := [⟨.program, 0x470100, .b, 0x05, false⟩, ⟨.sectorErase, 0x460000, .a, 0x11, true⟩] }.interruptedView =
      [2, 1, 0x47, 0x01, 0x00, 2, 0x05, 0, 2, 0x46, 0x00, 0x00, 1, 0x11, 1] := by decide

theorem test_clear_interrupted : next (exec (.clearInterrupted .a) resetExample) (fun t =>
    decide (t.interrupted = []) && decide ((t.port .a).lastResponse = .ok)) = true := by decide

/-! ### The lines of a port (R135 to R142) -/

/-- Clocks that carry bits on IO0, whatever the other lines do. -/
def bits (ns : List Nat) : List PinEvent := ns.map (fun n => .clock ⟨decide (n = 1), true, false, true⟩)

/-- CLAIM REGION 3, bit by bit, is taken at the rise. -/
theorem test_lines_claim :
    let s := region3 freshLease
    next (runEvents .a (.fall :: bits [1,1,0,0,0,0,0,1, 0,0,0,0,0,0,1,1]) s) (fun t =>
      decide ((t.port .a).frame = .trailing [0xC1, 0x03]) && decide ((t.region 3).map (fun r => r.lease.holder) = some none) &&
        next (pinRise .a t) (fun u => decide ((u.region 3).map (fun r => r.lease.holder) = some (some .a)) &&
          decide ((u.port .a).frame = .deselected) && !(u.port .a).csLow)) = true := by decide

/-- Five bits of the second byte are too few. -/
theorem test_lines_short :
    next (runEvents .a (.fall :: bits [1,1,0,0,0,0,0,1, 0,0,0,0,0] ++ [.rise]) ready) (fun t =>
      decide ((t.port .a).lastResponse = .frameError)) = true ∧
    runEvents .a [.fall, .rise] ready = .next ready := ⟨by decide, rfl⟩

/-- LOAD BUFFER QUAD: the nibbles 7 and F, the high one first, on IO3 to IO0. -/
theorem test_lines_quad_load :
    next (runEvents .a
      (.fall :: bits [0,1,0,1,0,1,1,1, 0,0,0,0,0,0,0,1, 0,0,0,0,0,0,1,0] ++
        [.clock ⟨true, true, true, false⟩, .clock ⟨true, true, true, true⟩, .rise]) loaded) (fun t =>
      decide ((t.buffers[2]?).map (fun u => u.data.take 4) = some [0xFF, 0xFF, 0x7F, 0xFF])) = true := by decide

/-- READ IDENTITY of B drives the bits of 5Dh on IO1, and no line before the end of its opcode. -/
theorem test_lines_drive_io1 :
    next (runEvents .b (.fall :: bits [0,1,1,1,1,1,1]) ready) (fun t =>
      decide (t.driven .b = ⟨none, none, none, none⟩)) = true ∧
    next (runEvents .b (.fall :: bits [0,1,1,1,1,1,1,0]) ready) (fun t =>
      decide (t.driven .b = ⟨none, some false, none, none⟩) &&
        next (runEvents .b (bits [1]) t) (fun u => decide (u.driven .b = ⟨none, some true, none, none⟩)) &&
        next (runEvents .b (bits [1,1,1,1,1,1,1,1]) t) (fun u => decide ((u.port .b).output = [0x5D]))) = true := by decide

/-- A quad stream drives the nibbles of its fill byte A5h, IO3 the highest, and delivers it after two clocks. -/
theorem test_lines_drive_quad :
    let s := (ready.modifyPort .c (fun q => { q with csLow := true })).setFrame .c (.readStream ⟨0, none, some 0xA5, true⟩)
    s.driven .c = ⟨some false, some true, some false, some true⟩ ∧
    next (runEvents .c (bits [0]) s) (fun t => decide (t.driven .c = ⟨some true, some false, some true, some false⟩)) = true ∧
    next (runEvents .c (bits [0, 0]) s) (fun t => decide ((t.port .c).output = [0xA5])) = true := by decide

/-- R11, R141: a stream clocked past a re-check point delivers on both sides of it. -/
theorem test_close_past_a_recheck_point : next (exec (.readStreamClose .b 18) streamB) (fun t =>
    decide ((t.port .b).output = List.replicate 16 0xFF ++ [0xAA, 0xAA]) && (t.port .b).conflictSeen &&
      decide (t.holders = ⟨0, 0, 0, 0⟩) && decide (t.noted = some 5)) = true := by decide

/-- R11: what the host has clocked out stays delivered where RESET# ends the stream. -/
theorem test_reset_keeps_what_was_clocked :
    next (runEvents .b (bits [1,1,1,1,1,1,1,1, 1,1]) (streamB.modifyPort .b (fun q => { q with csLow := true }))) (fun t =>
      decide ((t.port .b).frame = .readStream ⟨0x3FFFF1, some 0, none, false⟩) &&
        next (exec .resetFall t) (fun u => decide ((u.port .b).output = [0xFF]) && decide ((u.port .b).frame = .inert))) =
    true := by decide

/-- A port with no read stream has no re-check point. -/
theorem test_crossing_without_a_stream :
    exec (.blockCrossing .a) ready = .next ready ∧ exec (.targetEntry .a) ready = .next ready := ⟨rfl, rfl⟩

/-- An event on the lines is taken when no command waits. -/
theorem test_step_takes_the_next_event :
    next (step { ready with inputs := [.pin .a .fall, .command (.claimRegion .a 0)] }) (fun t =>
      decide ((t.port .a).frame = .receiving []) && (t.port .a).csLow && decide (t.inputs = [.command (.claimRegion .a 0)])) =
    true := by decide

/-! ### For each statement with hypotheses, a state and operands that meet them, clause by clause -/

theorem witness_StepRunsTheFrontCommand :
    ({ ready with pending := [.suspendPoint, .mapDiscard .a] } : State).pending = .suspendPoint :: [.mapDiscard .a] ∧
    (ready.pending = [] ∧ ready.inputs = [] ∧ ready.stopping = []) ∧
    ({ ready with inputs := [.arrayStops, .arrayStops] } : State).inputs = .arrayStops :: [.arrayStops] ∧
    ({ ready with inputs := [.pin .c .rise, .command .leaseTick] } : State).inputs = .pin .c .rise :: [.command .leaseTick] ∧
    ({ ready with inputs := [.command .leaseTick] } : State).inputs = .command .leaseTick :: [] ∧
    exec (.inquiryDropped .b) ready = .next ready := ⟨rfl, ⟨rfl, rfl, rfl⟩, rfl, rfl, rfl, rfl⟩

theorem witness_FrameDecodesToItsCommand :
    ((Instr.readArray .c 0xFFFFFF).wellFormed = true ∧ (Instr.readArray .c 0xFFFFFF).isLoad = false ∧
      encodeFrame (.readArray .c 0xFFFFFF) = some (.c, [0x48, 0xFF, 0xFF, 0xFF, 0x00])) ∧
    (Instr.loadBuffer .a 3 0xFF [0x00]).wellFormed = true ∧
      encodeFrame (.loadBuffer .a 3 0xFF [0x00]) = some (.a, [0x56, 3, 0xFF, 0x00]) := by decide

theorem witness_ShortFramesCarryNoCommand :
    0 < 1 ∧ (frameShape 0xC1 = some (1, .trailing) ∧ ([] : List Byte).length < 1) ∧
    (frameShape 0x48 = some (4, .stream) ∧ ([0xFF, 0xFF, 0xFF] : List Byte).length < 4) ∧
    (frameShape 0x9A = some (2, .dataOut) ∧ ([0] : List Byte).length < 2) ∧ frameShape 0x00 = none ∧
    frameShape 0xFF = none := by decide

theorem witness_StartingAnswersNotReady :
    let s := State.reset
    ((Instr.cancel .a 0).takenBy = some .a ∧ (Instr.cancel .a 0).wellFormed = true ∧
      (s.port .a).frame = .deselected ∧ s.device = .starting) ∧
    (Instr.readMap .b (.fixed 1)).outputOpens = some .b ∧
    (Instr.readStreamClose .c 0).outputRises = some (.c, 0) ∧
      ((s.setFrame .c (.dataOut (.notReady true))).port .c).frame = .dataOut (.notReady true) := by decide

theorem witness_FramesWithNoCommand :
    ((Instr.portReset .a).framePort = some .a ∧ (Instr.portReset .a).wellFormed = true ∧
      ((ready.setFrame .a .inert).port .a).frame = .inert) ∧
    (ready.portReady .b = true ∧ 0 < 1 ∧ 0x00 ∉ commandOpcodes ∧ 0xFF ∉ commandOpcodes) ∧
    (ready.port .b).frame = .deselected ∧ (State.reset.port .b).frame = .deselected ∧
    (Instr.readStreamClose .b 0).outputRises = some (.b, 0) := by decide

theorem witness_ReadStatusShowsAndClears :
    (State.reset.port .a).frame = .deselected ∧
    ((ready.setFrame .a (.dataOut (.status [3, 1, 0, 0, 0, 8, 0x60, 2] false true))).port .a).frame =
      .dataOut (.status [3, 1, 0, 0, 0, 8, 0x60, 2] false true) := by decide

theorem witness_ViewInquiriesChangeNothing :
    ((Instr.readMap .a (.fixed 2)).inquiryView ready = some (.a, .map, List.replicate 73 0) ∧ ready.portReady .a = true) ∧
    (Instr.readQueue .c (.rise 96)).inquiryRise = some (.c, .queue, 96) ∧
    ((ready.setFrame .c (.dataOut (.inquiry .queue []))).port .c).frame = .dataOut (.inquiry .queue []) := by decide

/-- An entry with every field at the end of its range. -/
def fullEntry : Entry := ⟨.c, 0xFF, .blockErase, some (.block 255), some 15, none, 3, 3, 7, .suspended, true, 16, 0xFFFF⟩

/-- A PROGRAM entry on the last buffer. -/
def lastBuffer : Entry := ⟨.a, 0, .program, some (.page 65535), some 0, some 5, 0, 0, 0, .queued, false, 0, 0⟩

theorem witness_QueueAndRegionViewFields :
    let s := working .parked [fullEntry, lastBuffer]
    (0 < 12 ∧ s.queue[0]? = some fullEntry ∧ fullEntry.rangeLaw = true ∧ fullEntry.buffer = none) ∧
    (s.queue[1]? = some lastBuffer ∧ lastBuffer.rangeLaw = true ∧ lastBuffer.buffer = some 5 ∧ 5 ≤ 5) ∧
    (11 < 12 ∧ s.queue[11]? = none) ∧ (15 < 16 ∧ s.region 15 = none) ∧ s.region 0 ≠ none := by decide

theorem witness_MapAndRecordViewFields :
    let s := { ready with staged := some split, interrupted := [⟨.program, 0x470100, .b, 5, false⟩, ⟨.blockErase, 0, .c, 0, true⟩] }
    (2 ≤ (2 : Byte).toNat ∧ ready.staged = none) ∧
    (s.workingImage.profileLaw = true ∧ s.staged = some split ∧ split.profileLaw = true ∧ 15 < 16) ∧
    ((⟨0, 0, .blockErase, 0, .done, 3, 16⟩ : CompletionRecord).effectiveClass ≤ 3 ∧ 16 ≤ 16) ∧
    s.interrupted.length ≤ 2 ∧ s.interrupted[1]? ≠ none ∧ ready.interrupted[0]? = none := by decide

/-- A clock with a bit on IO0, whatever the other lines do. -/
def one (b : Bool) : IoLines Bool := ⟨b, false, true, true⟩

/-- Clocks for a CLAIM REGION, for the data of a LOAD BUFFER QUAD nibble by nibble, for READ STATUS, for a LOAD BUFFER
QUAD and a READ MAP that end in their last fixed byte, and for an unknown opcode. -/
theorem witness_LinesCarryFrames :
    ((Instr.claimRegion .a 255).wellFormed = true ∧ (Instr.claimRegion .a 255).takenBy = some .a ∧
      encodeFrame (.claimRegion .a 255) = some (.a, [0xC1, 0xFF]) ∧
      List.Forall₂ carries (([0xC1, 0xFF] : List Byte).flatMap (fun b => (bitsOf b).map one)) (bitGroups [0xC1, 0xFF]) ∧
      (ready.port .a).frame = .deselected ∧ (ready.port .a).csLow = false ∧ (ready.port .a).shift = []) ∧
    (encodeFrame (.loadBufferQuad .a 3 0 [0xA5]) = some (.a, [0x57, 3, 0, 0xA5]) ∧
      List.Forall₂ carries
        (([0x57, 3, 0] : List Byte).flatMap (fun b => (bitsOf b).map one) ++
          [⟨false, true, false, true⟩, ⟨true, false, true, false⟩]) (bitGroups [0x57, 3, 0, 0xA5]) ∧
      ([one true]).length < 2) ∧
    ((Instr.readStatus .a (.fixed ())).wellFormed = true ∧ encodeFrame (.readStatus .a (.fixed ())) = some (.a, [0x71]) ∧
      List.Forall₂ carries (([0x71] : List Byte).flatMap (fun b => (bitsOf b).map one)) (bitGroups [0x71])) ∧
    (0 < ([one true]).length ∧ (List.replicate 7 (one true)).length < 8) ∧
    (frameShape 0x57 = some (3, .dataIn) ∧ ([3, 0] : List Byte).length < 3 ∧ ([one true]).length * 4 < 8 ∧
      List.Forall₂ carries (([0x57, 3, 0] : List Byte).flatMap (fun b => (bitsOf b).map one)) (bitGroups [0x57, 3, 0])) ∧
    (frameShape 0x9A = some (2, .dataOut) ∧ ([0] : List Byte).length < 2 ∧
      List.Forall₂ carries (([0x9A, 0] : List Byte).flatMap (fun b => (bitsOf b).map one)) (bitGroups [0x9A, 0])) ∧
    (frameShape 0xFF = none ∧
      List.Forall₂ carries (([0xFF] : List Byte).flatMap (fun b => (bitsOf b).map one)) (bitGroups [0xFF])) := by
  refine ⟨⟨by decide, by decide, by decide, ?_, by decide, by decide, by decide⟩, ⟨by decide, ?_, by decide⟩,
    ⟨by decide, by decide, ?_⟩, by decide, ⟨by decide, by decide, by decide, ?_⟩, ⟨by decide, by decide, ?_⟩,
    by decide, ?_⟩ <;>
  simp [bitsOf, bitGroups, carries, List.range, List.range.loop, one]

set_option maxRecDepth 4000 in
/-- The output phases of a view, at its first and at its last bit, of a READ BUFFER stream whose offset wraps, of a quad
fill stream at its first bits and at its second nibble, and of a stream one byte and two bytes before a re-check point. -/
theorem witness_LinesCarryOutput :
    (let s := ready.modifyPort .b (fun q =>
        { q with csLow := true, frame := .dataOut (.inquiry .identity (identityView .b)) });
      s.byteOut .b = some 0x5D ∧ (s.port .b).output = [] ∧ (s.port .b).shift = [] ∧ (s.port .b).csLow = true ∧
      (s.port .b).frame.quadOut = false ∧ (Instr.readIdentity .b (.rise 1)).outputRises = some (.b, 1) ∧
      (List.replicate 8 (one true)).length = 1 * 8 ∧ (List.replicate 7 (one true)).length < 8 ∧
      ((s.modifyPort .b (fun q => { q with shift := List.replicate 7 true })).port .b).shift.length = 7) ∧
    (let s := loaded.modifyPort .a (fun q => { q with frame := .bufferStream ⟨some 2, 0xFF⟩, output := [0xFF] });
      (s.port .a).frame = .bufferStream ⟨some 2, 0xFF⟩ ∧ (s.buffers[2]?).map (fun u => u.data.length) = some 256 ∧
      (loaded.setFrame .a (.bufferStream ⟨none, 0⟩)).byteOut .a = some 0) ∧
    (let s := ready.modifyPort .c (fun q =>
        { q with csLow := true, frame := .readStream ⟨0, none, some 0xA5, true⟩ });
      s.byteOut .c = some 0xA5 ∧ (s.port .c).shift = [] ∧ (s.port .c).frame.quadOut = true ∧
      ([one true, one true]).length = 2 ∧ (Instr.readStreamClose .c 1).outputRises = some (.c, 1) ∧
      ((s.modifyPort .c (fun q => { q with shift := [true, false, true, false] })).port .c).shift.length = 4) ∧
    (let s := fun a : Addr => ready.setFrame .a (.readStream ⟨a, some 3, none, false⟩);
      (s 0xFFFFFF).bytesToRecheck 0xFFFFFF = 1 ∧ (s 0xFFFFFE).bytesToRecheck 0xFFFFFE = 2 ∧
      ((s 0xFFFFFF).byteOut .a).isSome = true) ∧
    ready.byteOut .a = none :=
  ⟨by decide, ⟨rfl, rfl, by decide⟩, by decide, ⟨by decide, by decide, by decide⟩, by decide⟩

theorem witness_ReadChecksMeanTheirTables : bankExample.regionLaw = true ∧ bankExample.engineLaw = true := by decide

/-- Chapter 7's example: block 5 is in a region that A alone may read. -/
def deniedToB : State :=
  { ready with regions := some ⟨⟨5, 5, ⟨true, false, false⟩, .all, 0⟩, freshLease⟩ :: List.replicate 15 none }

theorem witness_ReadOpensByItsChecks :
    (ready.portReady .b = true ∧ ready.readDenied .b 0xFFFFFF = false ∧ ready.readConflict 0xFFFFFF = false) ∧
    deniedToB.portReady .b = true ∧ deniedToB.readDenied .b 0x05FFFF = true := by decide

theorem witness_ReadConflictFillsAndMayRequest :
    let x := entry .a 0x10 .sectorErase (some (.sector 1120)) 1 .running 0
    (bankExample.portReady .b = true ∧ bankExample.readDenied .b 0x461000 = false ∧
      bankExample.readConflict 0x461000 = true) ∧
    (bankExample.activeIndex = some 0 ∧ bankExample.queue[0]? = some x ∧ bankExample.engine = .busy ∧
      x.kind = .sectorErase ∧ x.bank = some (bankOf 0x461000) ∧ x.targetContains 0x461000 = false ∧
      (bankExample.port .b).profile.window ≠ 0 ∧ x.effectiveClass ≤ (bankExample.port .b).profile.ceiling ∧
      x.suspendCount < 16) ∧
    parkedExample.portReady .b = true ∧ parkedExample.readDenied .b 0x460FFF = false ∧
      parkedExample.readConflict 0x460FFF = true ∧ parkedExample.activeEntry = none := by decide

theorem witness_StreamCloseDeliversAndReleases :
    (streamB.port .b).frame = .readStream ⟨0x3FFFF0, some 0, none, false⟩ ∧ 15 < streamB.bytesToRecheck 0x3FFFF0 ∧
    (streamB.bytesToRecheck 0x3FFFF0 ≤ 16 ∧ streamB.bytesToTarget 0x3FFFF0 = none ∧
      next (exec (.blockCrossingNewBank .b) streamB) (fun _ => true) = true) ∧
    (parkedExample.bytesToTarget 0x45FFFE = some (parkedExample.bytesToRecheck 0x45FFFE) ∧
      next (exec (.targetEntry .c) parkedExample) (fun _ => true) = true) ∧
    (0xFFFFFF : Addr).toNat / 256 ∉ streamB.unsettled := by decide

theorem witness_CrossingsThatPass :
    let s := fun (a : Addr) (k : Fin 4) => ready.setFrame .a (.readStream ⟨a, some k, none, false⟩)
    (ready.port .a).frame = .deselected ∧
    (((s 0x00FFFE 0).port .a).frame = .readStream ⟨0x00FFFE, some 0, none, false⟩ ∧ 0 = bankOf 0x00FFFE ∧
      (s 0x00FFFE 0).bytesToRecheck 0x00FFFE = bytesToBlockEnd 0x00FFFE ∧ (s 0x00FFFE 0).readDenied .a 0x010000 = false ∧
      (s 0x00FFFE 0).readConflict 0x010000 = false ∧ bankOf 0x010000 = 0) ∧
    (3 = bankOf 0xFFFFFF ∧ (s 0xFFFFFF 3).bytesToRecheck 0xFFFFFF = bytesToBlockEnd 0xFFFFFF ∧
      (s 0xFFFFFF 3).readDenied .a 0 = false ∧ (s 0xFFFFFF 3).readConflict 0 = false ∧ bankOf 0 ≠ 3) := by decide

theorem witness_CrossingsThatFill :
    let s := deniedToB.setFrame .b (.readStream ⟨0x04FFFF, some 0, none, false⟩)
    ((s.port .b).frame = .readStream ⟨0x04FFFF, some 0, none, false⟩ ∧ bytesToBlockEnd 0x04FFFF = 1 ∧
      s.bytesToRecheck 0x04FFFF = 1 ∧ bankOf 0x050000 = bankOf 0x04FFFF ∧ s.readDenied .b 0x050000 = true) ∧
    (parkedExample.bytesToTarget 0x45FFFE = some 2 ∧ 2 ≤ bytesToBlockEnd 0x45FFFE ∧
      parkedExample.readDenied .c 0x460000 = false ∧ parkedExample.readConflict 0x460000 = true ∧
      parkedExample.activeEntry = none) ∧
    (bytesToBlockEnd 0x3FFFF0 = 16 ∧ streamB.bytesToRecheck 0x3FFFF0 = 16 ∧ bankOf 0x400000 ≠ bankOf 0x3FFFF0 ∧
      streamB.readDenied .b 0x400000 = false ∧ streamB.readConflict 0x400000 = true ∧ streamB.activeIndex = some 0 ∧
      streamB.engine = .busy ∧ (streamB.port .b).profile.window ≠ 0 ∧ (streamB.port .b).profile.ceiling = 3) := by decide

theorem witness_FillStreamsOnlyFill :
    let s := parkedExample.setFrame .c (.readStream ⟨0x45FFFF, none, some 0xAA, true⟩)
    (s.port .c).frame = .readStream ⟨0x45FFFF, none, some 0xAA, true⟩ ∧ bytesToBlockEnd 0x45FFFF = 1 ∧
    s.bytesToTarget 0x45FFFF = some 1 ∧ 1 ≤ bytesToBlockEnd 0x45FFFF := by decide

/-- Every buffer in use by others. -/
def noneFree : State := { ready with buffers := List.replicate 6 ⟨.bound, []⟩ }

/-- Four and three PROGRAM entries of B. -/
def owning (n : Nat) : State :=
  working .busy ((List.range n).map (fun i => entry .b (byteOf i) .program (some (.page i)) 1 .queued 0))

theorem witness_LoadDecidedByFirstCase :
    (loaded.portReady .a = true ∧ ([0] : List Byte) ≠ [] ∧ 3 < (4 : Byte).toNat ∧ (3 : Byte).toNat ≤ 3) ∧
    (loaded.port .a).handle 1 = some 2 ∧ (loaded.port .a).handle 3 = none ∧ (∀ u ∈ noneFree.buffers, u.state ≠ .free) ∧
    (noneFree.port .a).handle 3 = none ∧
    4 ≤ (owning 4).mappedHandles .b + (owning 4).queue.countP (fun e => decide (e.port = .b ∧ e.kind = .program)) ∧
    (owning 3).mappedHandles .b + (owning 3).queue.countP (fun e => decide (e.port = .b ∧ e.kind = .program)) < 4 ∧
    ((owning 3).buffers[0]?).map (fun u => u.state) = some .free := by decide

set_option maxRecDepth 4000 in
theorem witness_LoadedBytesByOffset :
    (List.replicate 256 (0 : Byte)).length = 256 ∧ 255 < 256 ∧ (0 < ([7] : List Byte).length ∧ (255 + 0) % 256 = 255) ∧
    ∀ i, i < ([7] : List Byte).length → (0 + i) % 256 ≠ 255 := ⟨rfl, by decide, by decide, by decide⟩

theorem witness_DiscardDecidedByFirstCase :
    loaded.portReady .a = true ∧ 3 < (4 : Byte).toNat ∧ (3 : Byte).toNat ≤ 3 ∧ (loaded.port .a).handle 3 = none ∧
    (loaded.port .a).handle 1 = some 2 := by decide

set_option maxRecDepth 4000 in
theorem witness_ReadBufferDeliversItsBuffer :
    loaded.portReady .a = true ∧
    ((loaded.setFrame .a (.bufferStream ⟨some 2, 0xFF⟩)).port .a).frame = .bufferStream ⟨some 2, 0xFF⟩ ∧
    (loaded.buffers[2]?).map (fun u => u.data.length) = some 256 ∧
    ((loaded.setFrame .a (.bufferStream ⟨none, 0⟩)).port .a).frame = .bufferStream ⟨none, 0⟩ :=
  ⟨by decide, by decide, rfl, by decide⟩

/-- C holds region 0 and the queue is full of the other ports' work. -/
def fullQueue : State :=
  { heldByC with
    queue := (List.range 12).map (fun i =>
      entry (if i < 6 then .a else .b) (byteOf i) .sectorErase (some (.sector i)) 1 .queued 0) }

theorem witness_SubmissionRefusedByFirstCheck :
    (heldByC.portReady .c = true ∧ heldByC.regionLaw = true ∧
      firstHolds (heldByC.programRefusals .c 0 0 0 4) .badParameter ∧
      firstHolds (heldByC.programRefusals .c 0 0 0 3) .noHandle ∧
      firstHolds (heldByC.eraseRefusals .c 0 0 4) .badParameter) ∧
    fullQueue.portReady .c = true ∧ fullQueue.regionLaw = true ∧
    firstHolds (fullQueue.eraseRefusals .c 0xFFFFFF 0xFF 3) .queueFull :=
  ⟨⟨by decide, by decide, .inl ⟨.inl (by decide), rfl⟩, .inr ⟨by decide, .inl ⟨by decide, rfl⟩⟩,
      .inl ⟨by decide, rfl⟩⟩,
    by decide, by decide,
    .inr ⟨by decide, .inr ⟨(by decide : ¬∃ e ∈ fullQueue.queue, e.port = .c ∧ e.tag = 0xFF),
      .inr ⟨not_not_intro ⟨0, ⟨⟨0, 255, .all, .all, 100⟩, ⟨.held, some .c, 100, [], 0⟩⟩, ⟨rfl, by decide, by decide⟩, rfl⟩,
      .inr ⟨not_not_intro ⟨0, ⟨⟨0, 255, .all, .all, 100⟩, ⟨.held, some .c, 100, [], 0⟩⟩, ⟨rfl, by decide, by decide⟩, rfl, rfl⟩,
      .inr ⟨by decide, .inl ⟨by decide, rfl⟩⟩⟩⟩⟩⟩⟩

theorem witness_SubmissionAcceptedAppendsItsEntry :
    let r : Region := ⟨⟨0, 255, .all, .all, 100⟩, ⟨.held, some .c, 100, [], 0⟩⟩
    let s := heldByC.setHandle .c 3 (some 5)
    s.portReady .c = true ∧ s.regionLaw = true ∧ s.blockInRegion ((0xFFFF00 : Addr).toNat / 65536) 0 r ∧
    (s.port .c).handle 3 = some 5 ∧ noneHolds (s.programRefusals .c 3 0xFFFF00 0xFF 3) ∧
    noneHolds (s.eraseRefusals .c 0xFFFF00 0xFF 0) := by
  intro r s
  have shared : noneHolds (s.sharedRefusals .c ((0xFFFF00 : Addr).toNat / 65536) 0xFF) :=
    ⟨(by decide : ¬∃ e ∈ s.queue, e.port = .c ∧ e.tag = 0xFF),
      not_not_intro ⟨0, r, ⟨rfl, by decide, by decide⟩, rfl⟩,
      not_not_intro ⟨0, r, ⟨rfl, by decide, by decide⟩, rfl, rfl⟩, by decide, by decide, trivial⟩
  exact ⟨by decide, by decide, ⟨rfl, by decide, by decide⟩, by decide,
    ⟨by decide, by decide, by decide, shared⟩, ⟨by decide, shared⟩⟩

theorem witness_CancelDecidedByItsEntry :
    let e := entry .c 0x22 .program (some (.page 0x2A00)) 1 .queued 0
    let m := entry .c 0x23 .mapCommit none 3 .queued 0
    let s := { heldByC with queue := [entry .c 0x21 .program (some (.page 1)) 1 .running 0, e, m] }
    (s.portReady .c = true ∧ ∀ x ∈ s.queue, ¬(x.port = .c ∧ x.tag = 0x20)) ∧
    (s.queue[0]?.map (fun x => (x.port, x.tag, decide (x.state = .queued))) = some (.c, 0x21, false) ∧
      s.tagLaw = true) ∧
    (s.queue[1]? = some e ∧ e.port = .c ∧ e.tag = 0x22 ∧ e.state = .queued ∧ e.kind ≠ .mapCommit) ∧
    (s.queue[2]? = some m ∧ m.state = .queued ∧ m.kind = .mapCommit ∧ m.buffer = none ∧ s.leaseLaw = true ∧
      s.regions.length = 16) := by decide

theorem witness_StartAgesAndRuns :
    let e := entry .b 0x12 .program (some (.page 0x8C00)) 2 .queued 0
    ((working .idle [e]).queue[0]? = some e ∧ (working .idle [e]).engine = .idle) ∧ (working .parked [e]).engine = .parked := by
  decide

/-- The clauses of the statement on looks, in its order: IDLE with and without eligible work; PARKED with a candidate,
with a resume, with neither; SUSPENDING; BUSY with and without pressure. -/
theorem witness_LookStartsResumesOrSuspends :
    let e := entry .b 0x12 .program (some (.page 0x8C00)) 2 .queued 0
    let x := fun st => entry .a 0x40 .blockErase (some (.block 130)) 0 st 3
    ((working .idle [e]).engine = .idle ∧ (working .idle [e]).supply = .normal ∧ e.state = .queued ∧
      (working .idle [e]).holders = ⟨0, 0, 0, 0⟩ ∧ (working .idle [e]).parkedErase = none ∧ ready.engine = .idle ∧
      ready.queue = []) ∧
    ((working .parked [x .suspended, e]).parkedErase = some (x .suspended) ∧ (x .suspended).kind = .blockErase ∧
      e.kind = .program ∧ e.targetInside (x .suspended) = false ∧ (x .suspended).effectiveClass < e.effectiveClass) ∧
    ((working .parked [x .suspended]).window = none ∧ (working .parked [x .suspended]).parkedIndex = some 0 ∧
      (working .parked [x .suspended]).parkedErase = some (x .suspended) ∧
      ({ working .parked [x .suspended] with window := some 1 }).window ≠ none) ∧
    race.engine = .suspending ∧
    ((working .busy [x .running, e]).activeIndex = some 0 ∧ (working .busy [x .running, e]).queue[0]? = some (x .running) ∧
      (x .running).suspendCount < 16 ∧ e.targetInside (x .running) = false) ∧
    bankExample.activeIndex = some 0 := by decide

theorem witness_OperationEndLeavesAndReports :
    let e := { entry .a 0x01 .blockErase (some (.block 101)) 1 .running 0 with region := some 3 }
    let s := { region3 ⟨.draining, none, 0, [.b, .a], 1⟩ with engine := .busy, queue := [e] }
    s.stopping = [] ∧ s.activeIndex = some 0 ∧ s.queue[0]? = some e ∧ e.kind ≠ .mapCommit ∧ e.region = some 3 ∧
    (s.region 3).map (fun r => (r.lease.state, r.lease.drain, r.lease.waiters)) = some (.draining, 1, [.b, .a]) := by decide

set_option maxRecDepth 4000 in
theorem witness_ArrayAfterAnEnd :
    let p := { entry .b 0x05 .program (some (.page 65535)) 1 .running 0 with buffer := some 5 }
    let x := entry .a 0x11 .sectorErase (some (.sector 4095)) 1 .running 0
    ((working .busy [p]).stopping = [] ∧ (working .busy [p]).activeIndex = some 0 ∧ p.kind = .program ∧ p.target = some (.page 65535) ∧ p.targetLaw = true ∧
      (working .busy [p]).mem.wf = true ∧ p.buffer = some 5 ∧
      ((working .busy [p]).buffers[5]?).map (fun u => u.data.length) = some 256) ∧
    ((working .busy [x]).activeIndex = some 0 ∧ x.kind = .sectorErase ∧ x.targetLaw = true) :=
  ⟨⟨rfl, by decide, by decide, by decide, by decide, by decide, by decide, rfl⟩, by decide⟩

theorem witness_SuspendPointParksTheErase :
    race.stopping = [] ∧ race.engine = .suspending ∧ race.activeIndex = some 0 ∧ race.engineLaw = true ∧ race.queue[0]? ≠ none := by decide

theorem witness_ReadWindowCountsDown :
    ({ ready with window := some 2 }).window = some 2 ∧ 1 < 2 ∧ ({ ready with window := some 1 }).window = some 1 ∧
    ready.window = none := by decide

theorem witness_ClaimAndRenewDecided :
    (ready.portReady .a = true ∧ 15 < (16 : Byte).toNat ∧ ready.region (15 : Byte).toNat = none) ∧
    ((region3 freshLease).region (3 : Byte).toNat).map (fun r =>
        (r.definition.writeMask.has .c, r.definition.writeMask.has .a, r.lease)) = some (false, true, freshLease) ∧
    ((region3 ⟨.frozen, none, 0, [], 0⟩).region 3).map (fun r => r.lease.state) = some .frozen ∧
    ((region3 ⟨.held, some .a, 8, [], 0⟩).region 3).map (fun r => (r.lease.state, r.lease.holder)) =
      some (.held, some .a) ∧
    ((region3 ⟨.draining, none, 0, [.b], 1⟩).region 3).map (fun r => (r.lease.state, r.lease.waiters.length)) =
      some (.draining, 1) ∧
    ((leased ⟨.draining, none, 0, [.b, .c], 1⟩).region 0).map (fun r => (r.lease.state, r.lease.waiters.length)) =
      some (.draining, 2) ∧
    ((leased ⟨.held, some .a, 1, [], 0⟩).region (0 : Byte).toNat).map (fun r => r.lease.holder) = some (some .a) ∧
    ((leased freshLease).region (0 : Byte).toNat).map (fun r => r.lease.holder) = some none := by decide

theorem witness_ReleaseDecidedByFirstCase :
    let s := fun (l : Lease) (q : List Entry) => { leased l with queue := q }
    let e := entry .a 1 .program (some (.page 0)) 1 .queued 0
    ((s freshLease []).portReady .a = true ∧ 15 < (16 : Byte).toNat ∧ (s freshLease []).region 15 = none) ∧
    ((s ⟨.held, some .b, 1, [.a], 0⟩ []).region 0).map (fun r => r.lease.waiters) = some [.a] ∧
    (((s ⟨.held, some .a, 1, [.b], 0⟩ [e]).region 0).map (fun r => r.lease.holder) = some (some .a) ∧ e.state = .queued ∧
      e.port = .a ∧ e.region = some (0 : Byte).toNat) ∧
    ((s ⟨.held, some .a, 1, [.b], 1⟩ []).region 0).map (fun r => r.lease.drain) = some 1 ∧
    ((s ⟨.held, some .a, 1, [.b], 0⟩ []).region 0).map (fun r => (r.lease.drain, r.lease.waiters)) = some (0, [.b]) ∧
    ((s freshLease []).region 0).map (fun r => (r.lease.waiters, r.lease.holder)) = some ([], none) := by decide

theorem witness_LeaseTickCountsDown :
    (expiring.leaseClock = true ∧ expiring.regions.length = 16) ∧ (expiring.region 0).map Region.expires = some true ∧
    (expiring.lostAtTick .a).map (fun e => e.tag) = [0x21, 0x22] ∧
    next (exec .leaseTick expiring) (fun t => decide ((t.port .a).completions.map (fun r => (r.sequence, r.tag, r.status)) =
      [(0x42, 0x21, .leaseLost), (0x43, 0x22, .leaseLost)]) && decide ((t.port .a).sequence = 0x44)) = true := by decide

theorem witness_LeaseExpiryRemovesQueuedWork :
    (expiring.leaseClock = true ∧ (expiring.region 0).map (fun r => (r.lease.holder, r.expires)) = some (some .a, true)) ∧
    ((leased ⟨.held, some .a, 1, [.b], 0⟩).region 0).map (fun r => (r.lease.drain, r.lease.waiters, r.expires)) =
      some (0, [.b], true) := by decide

theorem witness_PopAndMailboxEmptyWhenRead :
    ready.portReady .a = true ∧
    ((ready.setFrame .a (.dataOut (.completion (some record)))).port .a).frame = .dataOut (.completion (some record)) ∧
    ((ready.setFrame .a (.dataOut (.completion none))).port .a).frame = .dataOut (.completion none) ∧
    ((ready.setFrame .a (.dataOut (.mailbox (some ⟨.b, 0xFF⟩)))).port .a).frame = .dataOut (.mailbox (some ⟨.b, 0xFF⟩)) := by
  decide

theorem witness_NoticesClearWhatTheyReported :
    ready.portReady .a = true ∧
    ((ready.setFrame .a (.dataOut (.notices .all .all))).port .a).frame = .dataOut (.notices .all .all) := by decide

theorem witness_EnablesReplacedAndAlertFollows : ready.portReady .c = true := by decide

theorem witness_SignalDecidedByFirstCase :
    (ready.portReady .a = true ∧ (0 : Byte).toNat = 0 ∧ 3 < (4 : Byte).toNat ∧ (1 : Byte).toNat = Port.code .a) ∧
    ((3 : Byte).toNat = Port.code .c ∧ Port.c ≠ .a ∧ (ready.port .c).mailbox = none) ∧
    ((ready.modifyPort .c (fun q => { q with mailbox := some ⟨.b, 0x5A⟩ })).port .c).mailbox = some ⟨.b, 0x5A⟩ := by decide

/-- `ready` with a MAP_COMMIT of A in the queue and a staged map. -/
def committing : State := { working .busy [entry .a 0x70 .mapCommit none 3 .running 0] with staged := some split }

theorem witness_StageBegunAndDiscarded :
    ready.portReady .b = true ∧ ready.authority ≠ some .b ∧ ready.authority = some .a ∧
    (∃ e ∈ committing.queue, e.kind = .mapCommit) ∧ committing.authority = some .a ∧
    ∀ e ∈ ready.queue, e.kind ≠ .mapCommit := by decide

/-- `ready` with a staged map. -/
def staged : State := { ready with staged := some factoryMap }

theorem witness_EditsDecidedByFirstCase :
    ready.portReady .b = true ∧ firstHolds (ready.editRefusals .b ++ [(True, .badParameter)]) .notAuthority ∧
    firstHolds (ready.editRefusals .a ++ [(True, .badParameter)]) .noStage ∧
    firstHolds (committing.editRefusals .a ++ [(True, .badParameter)]) .mapPending ∧
    firstHolds (staged.editRefusals .a ++ [(3 < (4 : Byte).toNat, .badParameter)]) .badParameter ∧
    noneHolds (staged.editRefusals .a) ∧ staged.staged = some factoryMap ∧ (15 : Byte).toNat ≤ 15 ∧ (7 : Byte).toNat ≤ 7 ∧
    (3 : Byte).toNat = Port.code .c ∧ (3 : Byte).toNat ≤ 3 ∧ (0 : Byte).toNat = Port.codeOf none :=
  ⟨by decide, .inl ⟨by decide, rfl⟩, .inr ⟨by decide, .inl ⟨by decide, rfl⟩⟩,
    .inr ⟨by decide, .inr ⟨by decide, .inl ⟨by decide, rfl⟩⟩⟩,
    .inr ⟨by decide, .inr ⟨by decide, .inr ⟨by decide, .inl ⟨by decide, rfl⟩⟩⟩⟩,
    ⟨by decide, by decide, by decide, trivial⟩, rfl, by decide, by decide, by decide, by decide, by decide⟩

theorem witness_CommitRefusedOrAppended :
    (ready.portReady .b = true ∧ ready.regions.length = 16 ∧ firstHolds (ready.commitRefusals .b 0x70) .notAuthority ∧
      firstHolds (ready.commitRefusals .a 0x70) .noStage ∧ firstHolds (committing.commitRefusals .a 0x70) .mapPending) ∧
    staged.staged = some factoryMap ∧ noneHolds (staged.commitRefusals .a 0x70) ∧ ¬staged.changedBy factoryMap 0 ∧
    ({ ready with staged := some split }).changedBy split 0 := by
  refine ⟨⟨by decide, by decide, .inl ⟨by decide, rfl⟩, .inr ⟨by decide, .inl ⟨by decide, rfl⟩⟩,
    .inr ⟨by decide, .inr ⟨by decide, .inl ⟨by decide, rfl⟩⟩⟩⟩, rfl, ?_, ?_, ?_⟩
  · have sound : factoryMap.sound := by
      simp [MapImage.sound, factoryMap]
    have same : ∀ i r, staged.region i = some r → (factoryMap.regions[i]?).join = some r.definition ∧ r.lease.state = .free := by
      intro i r h
      match i with
      | 0 =>
        cases h
        exact ⟨rfl, rfl⟩
      | n + 1 =>
        have empty : ((List.replicate 15 (none : Option Region))[n]?).join = none := by
          rw [List.getElem?_replicate]
          split <;> rfl
        exact absurd (empty.symm.trans h) (by simp)
    refine ⟨by decide, by decide, by decide, ?_, by decide, (by decide : ¬∃ e ∈ staged.queue, e.port = .a ∧ e.tag = 0x70),
      ?_, by decide, by decide, trivial⟩
    · rintro ⟨m, hm, hs⟩
      cases hm
      exact hs sound
    · rintro ⟨m, i, r, hm, -, hr, hl⟩
      exact hl (same i r hr).2
  · rintro ⟨-, r, hr, hne⟩
    cases hr
    exact hne rfl
  · exact ⟨by decide, ⟨⟨0, 255, .all, .all, 100⟩, freshLease⟩, rfl, by decide⟩

theorem witness_CommitEndAppliesOrKeepsTheMap :
    let e := entry .a 0x70 .mapCommit none 3 .running 0
    let s := { committing with commitImage := some split }
    (s.stopping = [] ∧ s.activeIndex = some 0 ∧ s.queue[0]? = some e ∧ e.kind = .mapCommit ∧ e.target = none ∧ e.buffer = none ∧
      s.commitImage = some split ∧ 15 < 16) ∧ s.leaseLaw = true ∧ s.regions.length = 16 := by decide

theorem witness_PortResetClearsItsPort :
    (expiring.portReady .a = true ∧ expiring.regions.length = 16 ∧ expiring.leaseLaw = true) ∧
    (let s := leased ⟨.held, some .a, 1, [.b], 0⟩;
      s.portReady .a = true ∧ s.leaseLaw = true ∧ s.region 0 ≠ none) := by decide

theorem witness_SupplyChangesPostAndLook :
    (ready.supply = .normal ∧ 2450 ≤ 2450 ∧ 2450 < 2750 ∧ 2749 < 2750 ∧ 2750 ≤ 2750) ∧ State.reset.supply = .marginal ∧
    2850 < 2851 ∧ 2850 ≤ 2850 := by decide

theorem witness_PowerFailsAndReturns :
    (ready.supply ≠ .failed ∧ 2449 < 2450) ∧ ({ ready with supply := .failed }).supply = .failed ∧ 2600 < 2601 ∧
    2600 ≤ 2600 := by decide

theorem witness_ResetFallAndRise :
    (ready.resetLow = false ∧ ready.supply ≠ .failed) ∧
    (({ ready with resetLow := true }).resetLow = true ∧ ({ ready with resetLow := true }).supply ≠ .failed) ∧
    ({ ready with supply := .failed }).supply = .failed ∧ ready.stopping = [] ∧
    next (exec .resetFall resetExample) (fun t => next (exec .resetRise t) (fun u =>
      decide (u.resetLow = false) && decide (u.supply ≠ .failed) && decide (u.stopping.length = 2) &&
        decide (u.engine = .busyParked))) = true := by decide

theorem witness_StartUpLoadsTheCurrentSlot :
    let s := State.reset
    let tie := { s with slotY := ⟨split, 0, true⟩ }
    let later := { s with slotX := ⟨factoryMap, 2, true⟩, slotY := ⟨split, 3, true⟩ }
    (s.device = .starting ∧ s.startUpSteps = 0 ∧ s.stopping = [] ∧ s.resetLow = false ∧ s.supply ≠ .failed) ∧
    (({ s with startUpSteps := 4 }).startUpSteps = 4 ∧ [StartUpStep.slotChoice, .mapLoad, .enables, .assessment, .ready].idxOf .assessment < 4) ∧
    ({ s with stopping := [⟨.program, 0, .a, 0, false⟩] }).stopping ≠ [] ∧
    ((tie.slot .x).mark = true ∧ (tie.slot .y).mark = true ∧ (tie.slot .y).generation = (tie.slot .x).generation) ∧
    ((later.slot .y).mark = true ∧ (later.slot .x).generation.toNat < (later.slot .y).generation.toNat) ∧
    ({ s with slotX := ⟨factoryMap, 0, false⟩ }).slotX.mark = false ∧ s.slotY.mark = false := by decide

theorem witness_ClearInterruptedEmptiesTheRecord : resetExample.portReady .a = true := by decide

/-- Every law that a step keeps holds of `ready`, with a command in front that answers a next state. -/
def lawful : State := { ready with pending := [.claimRegion .a 0] }

set_option maxRecDepth 4000 in
theorem witness_StepsKeepTheArrayCanonical :
    (lawful.mem.wf && lawful.targetLaw && lawful.sizeLaw) = true ∧ ∃ t, step lawful = .next t :=
  ⟨by decide, _, rfl⟩

theorem witness_StepsKeepTheQueueLimits :
    lawful.creditLaw = true ∧ lawful.capacityLaw = true ∧ lawful.tagLaw = true ∧ ∃ t, step lawful = .next t :=
  ⟨by decide, by decide, by decide, _, rfl⟩

theorem witness_StepsKeepTheEngineLaws :
    (lawful.engineLaw && lawful.bankLaw && lawful.windowLaw && lawful.overParkedLaw && lawful.entryLaw &&
      lawful.profileLaw && lawful.targetLaw) = true ∧ ∃ t, step lawful = .next t :=
  ⟨by decide, _, rfl⟩

theorem witness_StepsKeepTheReadHolders :
    (lawful.holderLaw && lawful.streamLaw && lawful.inertLaw) = true ∧ ∃ t, step lawful = .next t :=
  ⟨by decide, _, rfl⟩

set_option maxRecDepth 4000 in
theorem witness_StepsKeepTheBufferLaw :
    (lawful.bufferLaw && lawful.ownershipLaw && lawful.sizeLaw) = true ∧ ∃ t, step lawful = .next t :=
  ⟨by decide, _, rfl⟩

set_option maxRecDepth 4000 in
theorem witness_StepsKeepTheLeaseLaws :
    (lawful.leaseLaw && lawful.drainLaw && lawful.queuedLaw && lawful.frozenLaw && lawful.commitLaw &&
      lawful.commitRegionLaw && lawful.startingLaw && lawful.sizeLaw) = true ∧ ∃ t, step lawful = .next t :=
  ⟨by decide, _, rfl⟩

theorem witness_StepsKeepTheRegionsDisjoint :
    (lawful.regionLaw && lawful.imageLaw && lawful.leaseLaw && lawful.commitLaw && lawful.startingLaw &&
      lawful.slotLaw) = true ∧ ∃ t, step lawful = .next t :=
  ⟨by decide, _, rfl⟩

theorem witness_StepsKeepTheDeviceLaws :
    (lawful.clockLaw && lawful.inertLaw && lawful.startingLaw && lawful.slotLaw && lawful.mailboxLaw &&
      lawful.lineLaw) = true ∧
    ∃ t, step lawful = .next t :=
  ⟨by decide, _, rfl⟩

theorem witness_ArrayAndMapChangeOnlyThere :
    (∃ t, pinEvent .a .fall ready = .next t) ∧
    (let s := { ready with inputs := [.arrayStops] };
      s.pending = [] ∧ (∀ c, s.inputs.head? ≠ some (.command c)) ∧ ∃ t, step s = .next t) ∧
    ∃ t, exec (.claimRegion .a 0) ready = .next t ∧ (∀ o, Instr.claimRegion .a 0 ≠ .operationEnd o) ∧
      (∀ run, Instr.claimRegion .a 0 ≠ .startUp run) ∧ (∀ mv, Instr.claimRegion .a 0 ≠ .supplyFailed mv) ∧
      ∀ mv, Instr.claimRegion .a 0 ≠ .powerOnDetection mv :=
  ⟨⟨_, rfl⟩, ⟨rfl, by simp, _, rfl⟩, _, rfl, by simp, by simp, by simp, by simp⟩

theorem witness_FramesLeaveOtherPortsAlone :
    (∃ t, exec (.signalPort .b 3 0xFF) ready = .next t ∧ (Instr.signalPort .b 3 0xFF).framePort = some .b ∧ Port.c ≠ .b) ∧
    ∃ t, exec (.readMap .a (.fixed 0)) ready = .next t ∧ (Instr.readMap .a (.fixed 0)).isInquiry = true ∧
      ready.device = .ready ∧ (ready.port .a).frame = .deselected :=
  ⟨⟨_, rfl, rfl, by decide⟩, _, rfl, rfl, rfl, by decide⟩

end Sys2Proof.Tests
end

section
/-! The suspend point (R63): what the engine law fixes of the entries' states (R45), where the parked erase stands, and
the statement of the suspend point. -/

namespace Sys2Proof.Machine

/-! ### What the engine law says of the queue (R45) -/

theorem State.engineLaw_counts {s : State} (h : s.engineLaw = true) (hstop : s.stopping = []) :
    (s.countIn .running, s.countIn .suspending, s.countIn .suspended) = s.engine.counts := by
  simp only [State.engineLaw, hstop, if_true, Bool.and_eq_true, decide_eq_true_eq] at h
  exact h.1

theorem State.countIn_eq_zero {s : State} {x : EntryState} : s.countIn x = 0 ↔ ∀ e ∈ s.queue, e.state ≠ x := by
  simp [State.countIn, List.countP_eq_zero]

/-- While an erase is SUSPENDING, none is SUSPENDED. -/
theorem State.not_isParked_of_suspending {s : State} (h : s.engineLaw = true) (hstop : s.stopping = [])
    (heng : s.engine = .suspending) : ∀ e ∈ s.queue, e.isParked = false := by
  have hcount := s.engineLaw_counts h hstop
  simp only [heng, EngineState.counts, Prod.mk.injEq] at hcount
  obtain ⟨-, -, hsusp⟩ := hcount
  simpa [Entry.isParked] using State.countIn_eq_zero.1 hsusp

/-! ### The parked erase (R5, R45) -/

/-- In a list where nothing passes a test, the one element changed to pass it is the first that does. -/
theorem findIdx?_modify_of_forall_false {α : Type} {p : α → Bool} {f : α → α} {l : List α} {i : Nat} {x : α}
    (hl : ∀ y ∈ l, p y = false) (hi : l[i]? = some x) (hx : p (f x) = true) :
    (l.modify i f).findIdx? p = some i := by
  obtain ⟨hlt, rfl⟩ := List.getElem?_eq_some_iff.1 hi
  refine List.findIdx?_eq_some_iff_getElem.2 ⟨by simpa using hlt, by simpa using hx, fun j hj => ?_⟩
  simp [Nat.ne_of_gt hj, hl]

theorem State.activeBank_of_parked {s : State} (h : s.engine = .parked) : s.activeBank = none := by
  simp [State.activeBank, State.activeEntry, State.activeIndex, State.entryAt, h]

theorem State.parkedTarget_of_parkedIndex {s : State} {i : Nat} {e : Entry} (h : s.parkedIndex = some i)
    (he : s.queue[i]? = some e) : s.parkedTarget = e.target := by
  simp [State.parkedTarget, State.parkedErase, State.entryAt, h, he]

/-! ### The suspend point (R63) -/

/-- The steps before the look, field by field. -/
theorem State.parkErase_eq (s : State) (i : Nat) :
    s.parkErase i =
      { s with
        queue := s.queue.modify i (fun e => { e with state := .suspended, suspendCount := e.suspendCount + 1 })
        engine := .parked
        window := if s.noted = none then s.window else s.noted
        noted := none } := by
  cases h : s.noted <;> simp [State.parkErase, State.modifyEntry, h]

theorem State.parkErase_engine (s : State) (i : Nat) : (s.parkErase i).engine = .parked := rfl

/-- The erase that is parked is the one that was SUSPENDING, at its place in the queue. -/
theorem State.parkErase_parkedTarget {s : State} {i : Nat} {e : Entry} (hnone : ∀ x ∈ s.queue, x.isParked = false)
    (he : s.queue[i]? = some e) : (s.parkErase i).parkedTarget = e.target := by
  have hindex : (s.parkErase i).parkedIndex = some i := findIdx?_modify_of_forall_false hnone he rfl
  have hentry : (s.parkErase i).queue[i]? = some { e with state := .suspended, suspendCount := e.suspendCount + 1 } := by
    simp [State.parkErase, State.modifyEntry, he]
  rw [State.parkedTarget_of_parkedIndex hindex hentry]

theorem exec_suspendPoint (s : State) : exec .suspendPoint s = execSuspendPoint s := rfl

theorem exec_suspendPoint_of_suspending {s : State} {i : Nat} (hstop : s.stopping = []) (heng : s.engine = .suspending)
    (hi : s.activeIndex = some i) : exec .suspendPoint s = .next (s.parkErase i).look := by
  simp [exec_suspendPoint, execSuspendPoint, hstop, heng, hi]

/-- Settles O30: the steps before the look are `parkErase`, and the engine law leaves no other SUSPENDED entry that
could be taken for the parked erase. -/
theorem suspendPointParksTheErase : Obligations.SuspendPointParksTheErase := by
  intro s i hstop heng hi parked
  have hparked : parked = s.parkErase i := (s.parkErase_eq i).symm
  rw [hparked]
  refine ⟨exec_suspendPoint_of_suspending hstop heng hi, State.activeBank_of_parked (s.parkErase_engine i), ?_⟩
  intro hlaw e he
  exact State.parkErase_parkedTarget (State.not_isParked_of_suspending hlaw hstop heng) he

end Sys2Proof.Machine
end

section
/-! The three lease commands (R83, R84, R86, R88): how a command finds its region, one equation for each case of the
tables, and what the end of a lease makes of the state. -/

namespace Sys2Proof.Machine

/-! ### The region that a lease command names -/

/-- The first case of the lease commands' tables (R83, R86, R88), with the decision for a DEFINED region left open. -/
def State.decideFor (index : Byte) (decision : Region → State → Response × State) (s : State) : Response × State :=
  if 15 < index.toNat then (.undefinedRegion, s)
  else
    match s.region index.toNat with
    | none => (.undefinedRegion, s)
    | some r => decision r s

/-- R86 for a DEFINED region. -/
def State.renewCase (p : Port) (i : Nat) (r : Region) (s : State) : Response × State :=
  if r.lease.holder = some p then
    (.ok, s.modifyLease i (fun l => { l with remaining := r.definition.limit.toNat }))
  else (.notHolder, s)

theorem exec_claimRegion (p : Port) (index : Byte) (s : State) :
    exec (.claimRegion p index) s = takeCommand p s (State.decideFor index (State.claimCase p index.toNat)) := rfl

theorem exec_renewLease (p : Port) (index : Byte) (s : State) :
    exec (.renewLease p index) s = takeCommand p s (State.decideFor index (State.renewCase p index.toNat)) := rfl

theorem exec_releaseRegion (p : Port) (index : Byte) (s : State) :
    exec (.releaseRegion p index) s = takeCommand p s (State.decideFor index (State.releaseCase p index.toNat)) := rfl

theorem State.decideFor_undefined {index : Byte} {s : State} (decision : Region → State → Response × State)
    (h : 15 < index.toNat ∨ s.region index.toNat = none) : s.decideFor index decision = (.undefinedRegion, s) := by
  by_cases hi : 15 < index.toNat
  · simp [State.decideFor, hi]
  · simp [State.decideFor, h.resolve_left hi]

theorem State.decideFor_defined {index : Byte} {s : State} {r : Region}
    (decision : Region → State → Response × State) (hi : index.toNat ≤ 15) (hr : s.region index.toNat = some r) :
    s.decideFor index decision = decision r s := by
  simp [State.decideFor, Nat.not_lt.2 hi, hr]

theorem takeCommand_undefined {p : Port} {index : Byte} {s : State}
    (decision : Region → State → Response × State) (hp : s.portReady p = true)
    (h : 15 < index.toNat ∨ s.region index.toNat = none) :
    takeCommand p s (State.decideFor index decision) = s.answers p .undefinedRegion := by
  rw [takeCommand_ready _ hp, State.decideFor_undefined _ h, State.answers_eq]

/-- A lease command on a DEFINED region makes the state of its decision and answers with the decision's code. -/
theorem takeCommand_decided {p : Port} {index : Byte} {s t : State} {r : Region} {c : Response}
    {decision : Region → State → Response × State} (hp : s.portReady p = true) (hi : index.toNat ≤ 15)
    (hr : s.region index.toNat = some r) (hd : decision r s = (c, t)) :
    takeCommand p s (State.decideFor index decision) = t.answers p c := by
  rw [takeCommand_ready _ hp, State.decideFor_defined _ hi hr, hd, State.answers_eq]

/-! ### CLAIM REGION, case by case (R83) -/

section
variable {p : Port} {i : Nat} {r : Region} {s : State}

theorem State.claimCase_noPermission (hm : r.definition.writeMask.has p = false) :
    s.claimCase p i r = (.noPermission, s) := by
  simp [State.claimCase, hm]

theorem State.claimCase_frozen (hm : r.definition.writeMask.has p = true) (hs : r.lease.state = .frozen) :
    s.claimCase p i r = (.mapPending, s) := by
  simp [State.claimCase, hm, hs]

theorem State.claimCase_holder_or_waiter (hm : r.definition.writeMask.has p = true) (hs : r.lease.state ≠ .frozen)
    (h : r.lease.holder = some p ∨ p ∈ r.lease.waiters) : s.claimCase p i r = (.ok, s) := by
  simp [State.claimCase, hm, hs, h]

variable (hm : r.definition.writeMask.has p = true) (hh : r.lease.holder ≠ some p) (hw : p ∉ r.lease.waiters)
include hm hh hw

theorem State.claimCase_free (hs : r.lease.state = .free) :
    s.claimCase p i r = (.ok, (s.modifyLease i (fun l =>
      { l with state := .held, holder := some p, remaining := r.definition.limit.toNat })).post p .leaseGranted) := by
  simp [State.claimCase, hm, hh, hw, hs]

theorem State.claimCase_held (hs : r.lease.state = .held) :
    s.claimCase p i r = (.waiting, s.modifyLease i (fun l => { l with waiters := l.waiters ++ [p] })) := by
  simp [State.claimCase, hm, hh, hw, hs]

theorem State.claimCase_draining (hs : r.lease.state = .draining) (hl : r.lease.waiters.length < 2) :
    s.claimCase p i r = (.waiting, s.modifyLease i (fun l => { l with waiters := l.waiters ++ [p] })) := by
  simp [State.claimCase, hm, hh, hw, hs, hl]

theorem State.claimCase_draining_full (hs : r.lease.state = .draining) (hl : 2 ≤ r.lease.waiters.length) :
    s.claimCase p i r = (.notHolder, s) := by
  simp [State.claimCase, hm, hh, hw, hs, Nat.not_lt.2 hl]

end

/-! ### RENEW LEASE (R86) -/

theorem State.renewCase_holder {p : Port} {i : Nat} {r : Region} {s : State} (h : r.lease.holder = some p) :
    s.renewCase p i r = (.ok, s.modifyLease i (fun l => { l with remaining := r.definition.limit.toNat })) := if_pos h

theorem State.renewCase_other {p : Port} {i : Nat} {r : Region} {s : State} (h : r.lease.holder ≠ some p) :
    s.renewCase p i r = (.notHolder, s) := if_neg h

/-- A posted notice and the code of the same answer are one change of the port. -/
theorem State.post_answers (s : State) (p : Port) (k : NoticeKind) (c : Response) :
    (s.post p k).answers p c = .next (s.modifyPort p (fun q =>
      { q with latched := q.latched.mark k, postedSinceView := q.postedSinceView.mark k, lastResponse := c })) := by
  simp [State.answers, State.post]

/-- Settles O32: each case of the two tables is one equation of `claimCase` or `renewCase`. -/
theorem claimAndRenewDecided : Obligations.ClaimAndRenewDecided := by
  refine ⟨fun p index s hp => ?_, fun p index s hp => ?_⟩
  · rw [exec_claimRegion]
    refine ⟨takeCommand_undefined _ hp, fun r hi hr => ?_⟩
    have decided := fun {c t} =>
      takeCommand_decided (c := c) (t := t) (decision := State.claimCase p index.toNat) hp hi hr
    refine ⟨fun hm => decided (State.claimCase_noPermission hm), fun hm => ?_⟩
    refine ⟨fun hs => decided (State.claimCase_frozen hm hs),
      fun hs h => decided (State.claimCase_holder_or_waiter hm hs h), fun hh hw => ⟨fun hs => ?_, ?_, ?_, ?_⟩⟩
    · exact (decided (State.claimCase_free hm hh hw hs)).trans (State.post_answers _ p .leaseGranted .ok)
    · exact fun hs => decided (State.claimCase_held hm hh hw hs)
    · exact fun hs hl => decided (State.claimCase_draining hm hh hw hs hl)
    · exact fun hs hl => decided (State.claimCase_draining_full hm hh hw hs hl)
  · rw [exec_renewLease]
    refine ⟨takeCommand_undefined _ hp, fun r hi hr => ⟨fun h => ?_, fun h => ?_⟩⟩
    · exact takeCommand_decided hp hi hr (State.renewCase_holder h)
    · exact takeCommand_decided hp hi hr (State.renewCase_other h)

/-! ### The end of a lease as one change of its region (R80, R88) -/

theorem State.modifyLease_modifyLease (s : State) (i : Nat) (f g : Lease → Lease) :
    (s.modifyLease i f).modifyLease i g = s.modifyLease i (fun l => g (f l)) := by
  simp [State.modifyLease, State.modifyRegion, List.modify_modify_eq, Function.comp_def]

theorem State.region_modifyLease_some {s : State} {i : Nat} {r : Region} (hr : s.region i = some r)
    (f : Lease → Lease) : (s.modifyLease i f).region i = some { r with lease := f r.lease } := by
  rw [State.region_modifyLease_self, hr, Option.map_some]

/-- Changes that agree on the lease that stands at the index are one change of the state. -/
theorem State.modifyLease_congr {s : State} {i : Nat} {r : Region} {f g : Lease → Lease} (hr : s.region i = some r)
    (h : f r.lease = g r.lease) : s.modifyLease i f = s.modifyLease i g := by
  have hslot : s.regions[i]? = some (some r) := Option.join_eq_some_iff.1 hr
  have hregions : s.regions.modify i (Option.map fun x => { x with lease := f x.lease }) =
      s.regions.modify i (Option.map fun x => { x with lease := g x.lease }) := by
    refine List.ext_getElem? fun j => ?_
    by_cases hj : i = j
    · subst hj
      simp [hslot, h]
    · simp [hj]
  simp only [State.modifyLease, State.modifyRegion, hregions]

theorem State.grantStep_no_waiters {s : State} {i : Nat} {r : Region} (hr : s.region i = some r)
    (hw : r.lease.waiters = []) : s.grantStep i = s := by
  cases hs : r.lease.state <;> simp [State.grantStep, hr, hw, hs]

theorem State.grantStep_head {s : State} {i : Nat} {r : Region} {w : Port} {ws : List Port}
    (hr : s.region i = some r) (hs : r.lease.state = .free) (hw : r.lease.waiters = w :: ws) :
    s.grantStep i = (s.modifyLease i (fun l =>
      { l with state := .held, holder := some w, remaining := r.definition.limit.toNat, waiters := ws })).post w
        .leaseGranted := by
  simp [State.grantStep, hr, hs, hw]

section
variable {s : State} {i : Nat} {r : Region} (hr : s.region i = some r)
include hr

/-- With work in flight the region drains; with none and no waiter it is FREE. Nobody is told. -/
theorem State.endLease_no_grant (h : 0 < r.lease.drain ∨ r.lease.waiters = []) :
    s.endLease i = s.modifyLease i (fun _ => r.leaseEnded) := by
  by_cases hd : 0 < r.lease.drain
  · simp only [State.endLease, hr, if_pos hd]
    exact State.modifyLease_congr hr (by simp [Region.leaseEnded, hd])
  · have hw := h.resolve_left hd
    simp only [State.endLease, hr, if_neg hd]
    rw [State.grantStep_no_waiters (State.region_modifyLease_some hr _) hw]
    exact State.modifyLease_congr hr (by simp [Region.leaseEnded, Region.granted, hd, hw])

/-- With no work in flight the head waiter takes the region over and is told. -/
theorem State.endLease_grant {w : Port} {ws : List Port} (hd : r.lease.drain = 0) (hw : r.lease.waiters = w :: ws) :
    s.endLease i = (s.modifyLease i (fun _ => r.leaseEnded)).post w .leaseGranted := by
  have hnd : ¬0 < r.lease.drain := by omega
  simp only [State.endLease, hr, if_neg hnd]
  rw [State.grantStep_head (State.region_modifyLease_some hr _) rfl hw,
    State.modifyLease_modifyLease]
  congr 1
  exact State.modifyLease_congr hr (by simp [Region.leaseEnded, Region.granted, hd, hw])

end

/-! ### RELEASE REGION, case by case (R88) -/

theorem Entry.queuedIn_iff {e : Entry} {p : Port} {i : Nat} :
    e.queuedIn p i = true ↔ e.state = .queued ∧ e.port = p ∧ e.region = some i := by
  simp [Entry.queuedIn, Entry.isQueued, and_assoc]

section
variable {p : Port} {i : Nat} {r : Region} {s : State}

theorem State.releaseCase_waiter (h : p ∈ r.lease.waiters) :
    s.releaseCase p i r = (.ok, s.modifyLease i (fun l => { l with waiters := l.waiters.erase p })) := if_pos h

variable (hw : p ∉ r.lease.waiters)
include hw

theorem State.releaseCase_pendingWork (hh : r.lease.holder = some p)
    (h : ∃ e ∈ s.queue, e.state = .queued ∧ e.port = p ∧ e.region = some i) :
    s.releaseCase p i r = (.pendingWork, s) := by
  have hany : s.queue.any (Entry.queuedIn p i) = true := by
    simpa only [List.any_eq_true, Entry.queuedIn_iff] using h
  simp only [State.releaseCase, if_neg hw, if_pos hh, if_pos hany]

theorem State.releaseCase_holder (hh : r.lease.holder = some p)
    (h : ∀ e ∈ s.queue, ¬(e.state = .queued ∧ e.port = p ∧ e.region = some i)) :
    s.releaseCase p i r = (.ok, s.endLease i) := by
  have hany : ¬s.queue.any (Entry.queuedIn p i) = true := by
    simpa only [List.any_eq_true, Entry.queuedIn_iff, not_exists, not_and] using h
  simp only [State.releaseCase, if_neg hw, if_pos hh, if_neg hany]

theorem State.releaseCase_other (hh : r.lease.holder ≠ some p) : s.releaseCase p i r = (.notHolder, s) := by
  simp only [State.releaseCase, if_neg hw, if_neg hh]

end

/-- Settles O33: each case of the table is one equation of `releaseCase`, and the holder's release is the end of its
lease, with or without a grant. -/
theorem releaseDecidedByFirstCase : Obligations.ReleaseDecidedByFirstCase := by
  intro p index s hp
  rw [exec_releaseRegion]
  refine ⟨takeCommand_undefined _ hp, fun r hi hr => ?_⟩
  have decided := fun {c t} =>
    takeCommand_decided (c := c) (t := t) (decision := State.releaseCase p index.toNat) hp hi hr
  refine ⟨fun h => decided (State.releaseCase_waiter h), fun hw hh => ⟨fun h => ?_, fun h => ⟨fun hn => ?_, ?_⟩⟩,
    fun hw hh => decided (State.releaseCase_other hw hh)⟩
  · exact decided (State.releaseCase_pendingWork hw hh h)
  · rw [decided (State.releaseCase_holder hw hh h), State.endLease_no_grant hr hn]
  · intro w ws hd hws
    rw [decided (State.releaseCase_holder hw hh h), State.endLease_grant hr hd hws]
    rfl

end Sys2Proof.Machine
end

section
/-! LOAD BUFFER, LOAD BUFFER QUAD and DISCARD BUFFER (R103 to R109): the lowest-numbered FREE buffer, the ownership
count, and one equation for each case of the two tables. -/

namespace Sys2Proof.Machine

/-! ### The rows and their decisions -/

/-- R109: the decision of a DISCARD, case by case. -/
def State.discardCase (p : Port) (handle : Byte) (s : State) : Response × State :=
  if 3 < handle.toNat then (.badParameter, s)
  else
    match (s.port p).handle handle with
    | none => (.noHandle, s)
    | some b => (.ok, (s.modifyBuffer b (fun u => { u with state := .free })).setHandle p handle none)

theorem exec_loadBuffer (p : Port) (handle offset : Byte) (data : List Byte) (s : State) :
    exec (.loadBuffer p handle offset data) s = loadFrame p handle offset data s := rfl

theorem exec_loadBufferQuad (p : Port) (handle offset : Byte) (data : List Byte) (s : State) :
    exec (.loadBufferQuad p handle offset data) s = loadFrame p handle offset data s := rfl

theorem exec_discardBuffer (p : Port) (handle : Byte) (s : State) :
    exec (.discardBuffer p handle) s = takeCommand p s (State.discardCase p handle) := rfl

/-- R107: the two LOAD rows are the same frame. -/
theorem exec_load {row : Port → Byte → Byte → List Byte → Instr} (hrow : row = .loadBuffer ∨ row = .loadBufferQuad)
    (p : Port) (handle offset : Byte) (data : List Byte) (s : State) :
    exec (row p handle offset data) s = loadFrame p handle offset data s := by
  rcases hrow with rfl | rfl
  · exact exec_loadBuffer p handle offset data s
  · exact exec_loadBufferQuad p handle offset data s

/-- A taken LOAD with data makes the state of its decision and answers with the decision's code. -/
theorem loadFrame_decided {p : Port} {handle offset : Byte} {data : List Byte} {s t : State} {c : Response}
    (hp : s.portReady p = true) (hdata : data ≠ []) (hc : s.loadCase p handle offset data = (c, t)) :
    loadFrame p handle offset data s = t.answers p c := by
  rw [loadFrame, takeCommand_ready _ hp, if_neg hdata, hc, State.answers_eq]

/-- A taken DISCARD makes the state of its decision and answers with the decision's code. -/
theorem discardBuffer_decided {p : Port} {handle : Byte} {s t : State} {c : Response}
    (hp : s.portReady p = true) (hc : s.discardCase p handle = (c, t)) :
    exec (.discardBuffer p handle) s = t.answers p c := by
  rw [exec_discardBuffer, takeCommand_ready _ hp, hc, State.answers_eq]

/-- A handle's new mapping and the code of the same answer are one change of the port. -/
theorem State.setHandle_answers (s : State) (p : Port) (handle : Byte) (v : Option Nat) (c : Response) :
    (s.setHandle p handle v).answers p c =
      .next (s.modifyPort p (fun q => { q with handles := q.handles.set handle.toNat v, lastResponse := c })) := by
  simp [State.answers, State.setHandle]

/-! ### FREE buffers and the ownership count (R103, R105) -/

theorem State.lowestFree_eq_none {s : State} : s.lowestFree = none ↔ ∀ u ∈ s.buffers, u.state ≠ .free := by
  simp [State.lowestFree, List.findIdx?_eq_none_iff]

theorem State.lowestFree_eq_some {s : State} {b : Nat}
    (hb : (s.buffers[b]?).map (fun u => u.state) = some .free)
    (hlow : ∀ c, c < b → (s.buffers[c]?).map (fun u => u.state) ≠ some .free) : s.lowestFree = some b := by
  obtain ⟨u, hu, hfree⟩ := Option.map_eq_some_iff.1 hb
  obtain ⟨hlt, rfl⟩ := List.getElem?_eq_some_iff.1 hu
  refine List.findIdx?_eq_some_iff_getElem.2 ⟨hlt, by simpa using hfree, fun c hc => ?_⟩
  have hclt : c < s.buffers.length := Nat.lt_trans hc hlt
  simpa [hclt] using hlow c hc

theorem State.ownedBuffers_eq (s : State) (p : Port) :
    s.ownedBuffers p =
      s.mappedHandles p + s.queue.countP (fun e => decide (e.port = p ∧ e.kind = .program)) := by
  simp only [State.ownedBuffers, Bool.decide_and]

/-! ### LOAD, case by case (R104) -/

section
variable {p : Port} {handle offset : Byte} {data : List Byte} {s : State}

theorem State.loadCase_badParameter (h : 3 < handle.toNat) :
    s.loadCase p handle offset data = (.badParameter, s) := if_pos h

variable (hle : handle.toNat ≤ 3)
include hle

theorem State.loadCase_mapped {b : Nat} (hb : (s.port p).handle handle = some b) :
    s.loadCase p handle offset data =
      (.ok, s.modifyBuffer b (fun u => { u with data := loadBytes u.data offset.toNat data })) := by
  simp only [State.loadCase, if_neg (Nat.not_lt.2 hle), hb]

variable (hnone : (s.port p).handle handle = none)
include hnone

theorem State.loadCase_noneFree (hfree : s.lowestFree = none) :
    s.loadCase p handle offset data = (.noBuffer, s) := by
  simp only [State.loadCase, if_neg (Nat.not_lt.2 hle), hnone, hfree]

/-- At the ownership limit it does not matter whether a buffer is FREE. -/
theorem State.loadCase_ownershipFull (hown : 4 ≤ s.ownedBuffers p) :
    s.loadCase p handle offset data = (.noBuffer, s) := by
  cases hfree : s.lowestFree with
  | none => exact State.loadCase_noneFree hle hnone hfree
  | some b => simp [State.loadCase, Nat.not_lt.2 hle, hnone, hfree, Config.bufferOwnership, hown]

theorem State.loadCase_allocates {b : Nat} (hown : s.ownedBuffers p < 4) (hfree : s.lowestFree = some b) :
    s.loadCase p handle offset data =
      (.ok, (s.modifyBuffer b (fun _ =>
        ⟨.filling, loadBytes (List.replicate 256 Config.erased) offset.toNat data⟩)).setHandle p handle (some b)) := by
  simp only [State.loadCase, Nat.not_lt.2 hle, hnone, hfree, Config.bufferOwnership, Nat.not_le.2 hown, if_false]

end

/-- Settles O19: each case of the table is one equation of `loadCase`, and both rows are that decision. -/
theorem loadDecidedByFirstCase : Obligations.LoadDecidedByFirstCase := by
  intro row p h o data s hrow hp hdata owned
  have hcount : s.ownedBuffers p = owned := s.ownedBuffers_eq p
  have decided := fun {c t} => loadFrame_decided (handle := h) (offset := o) (c := c) (t := t) hp hdata
  rw [exec_load hrow]
  refine ⟨fun hbad => decided (State.loadCase_badParameter hbad), fun hle => ⟨fun b hb => ?_, fun hnone => ?_⟩⟩
  · exact decided (State.loadCase_mapped hle hb)
  · refine ⟨fun hfree => ?_, fun hown => ?_, fun hown b hb hlow => ?_⟩
    · exact decided (State.loadCase_noneFree hle hnone (State.lowestFree_eq_none.2 hfree))
    · exact decided (State.loadCase_ownershipFull hle hnone (hcount ▸ hown))
    · have hlowest := State.lowestFree_eq_some hb hlow
      exact (decided (State.loadCase_allocates hle hnone (hcount ▸ hown) hlowest)).trans (State.setHandle_answers ..)

/-! ### DISCARD, case by case (R109) -/

section
variable {p : Port} {handle : Byte} {s : State}

theorem State.discardCase_badParameter (h : 3 < handle.toNat) :
    s.discardCase p handle = (.badParameter, s) := if_pos h

theorem State.discardCase_unmapped (hle : handle.toNat ≤ 3) (hnone : (s.port p).handle handle = none) :
    s.discardCase p handle = (.noHandle, s) := by
  simp only [State.discardCase, if_neg (Nat.not_lt.2 hle), hnone]

theorem State.discardCase_mapped {b : Nat} (hle : handle.toNat ≤ 3) (hb : (s.port p).handle handle = some b) :
    s.discardCase p handle =
      (.ok, (s.modifyBuffer b (fun u => { u with state := .free })).setHandle p handle none) := by
  simp only [State.discardCase, if_neg (Nat.not_lt.2 hle), hb]

end

/-- Settles O21: each case of the table is one equation of `discardCase`. -/
theorem discardDecidedByFirstCase : Obligations.DiscardDecidedByFirstCase := by
  intro p h s hp
  refine ⟨fun hbad => ?_, fun hle hnone => ?_, fun hle b hb => ?_⟩
  · exact discardBuffer_decided hp (State.discardCase_badParameter hbad)
  · exact discardBuffer_decided hp (State.discardCase_unmapped hle hnone)
  · exact (discardBuffer_decided hp (State.discardCase_mapped hle hb)).trans (State.setHandle_answers ..)

end Sys2Proof.Machine
end

section
/-! SIGNAL PORT (R130): which codes name a port (R185), and one equation for each case of the table. -/

namespace Sys2Proof

/-! ### Port codes (R185) -/

theorem Port.ofCode_eq_some_some {b : Byte} {d : Port} : Port.ofCode b = some (some d) ↔ b.toNat = d.code := by
  constructor
  · intro h
    unfold Port.ofCode at h
    split at h <;> cases h <;> assumption
  · intro h
    cases d <;> simp only [Port.ofCode, h, Port.code]

theorem Port.code_pos (d : Port) : 0 < d.code := by cases d <;> decide

theorem Port.code_le_three (d : Port) : d.code ≤ 3 := by cases d <;> decide

/-- No code is that of two ports. -/
theorem Port.eq_of_code {b : Byte} {d e : Port} (hd : b.toNat = d.code) (he : b.toNat = e.code) : d = e :=
  Option.some.inj (Option.some.inj ((Port.ofCode_eq_some_some.2 hd).symm.trans (Port.ofCode_eq_some_some.2 he)))

namespace Machine

/-! ### The row and its decision -/

/-- R130: the decision of a SIGNAL PORT, case by case. -/
def State.signalCase (p : Port) (target value : Byte) (s : State) : Response × State :=
  match Port.ofCode target with
  | some (some d) =>
    if d = p then (.badParameter, s)
    else if (s.port d).mailbox.isSome then (.mailboxFull, s)
    else (.ok, (s.modifyPort d (fun q => { q with mailbox := some ⟨p, value⟩ })).post d .peerSignal)
  | _ => (.badParameter, s)

theorem exec_signalPort (p : Port) (target value : Byte) (s : State) :
    exec (.signalPort p target value) s = takeCommand p s (State.signalCase p target value) := rfl

/-- A taken SIGNAL PORT makes the state of its decision and answers with the decision's code. -/
theorem signalPort_decided {p : Port} {target value : Byte} {s t : State} {c : Response}
    (hp : s.portReady p = true) (hc : s.signalCase p target value = (c, t)) :
    exec (.signalPort p target value) s = t.answers p c := by
  rw [exec_signalPort, takeCommand_ready _ hp, hc, State.answers_eq]

/-! ### SIGNAL PORT, case by case (R130) -/

section
variable {p d : Port} {target value : Byte} {s : State}

/-- A code that names no port but the sender is a bad parameter. -/
theorem State.signalCase_badParameter (h : ∀ d, target.toNat = d.code → d = p) :
    s.signalCase p target value = (.badParameter, s) := by
  unfold State.signalCase
  split
  next d hd => rw [if_pos (h d (Port.ofCode_eq_some_some.1 hd))]
  next => rfl

variable (hd : target.toNat = d.code) (hne : d ≠ p)
include hd hne

theorem State.signalCase_mailboxFull {x : Signal} (hx : (s.port d).mailbox = some x) :
    s.signalCase p target value = (.mailboxFull, s) := by
  simp [State.signalCase, Port.ofCode_eq_some_some.2 hd, hne, hx]

theorem State.signalCase_delivers (hempty : (s.port d).mailbox = none) :
    s.signalCase p target value =
      (.ok, (s.modifyPort d (fun q => { q with mailbox := some ⟨p, value⟩ })).post d .peerSignal) := by
  simp [State.signalCase, Port.ofCode_eq_some_some.2 hd, hne, hempty]

end

/-- The codes of the table's first case are those that name no port but the sender. -/
theorem eq_sender_of_badTarget {p d : Port} {target : Byte}
    (hbad : target.toNat = 0 ∨ 3 < target.toNat ∨ target.toNat = p.code) (hd : target.toNat = d.code) : d = p := by
  have hpos := d.code_pos
  have hle := d.code_le_three
  rcases hbad with h | h | h
  · omega
  · omega
  · exact Port.eq_of_code hd h

/-- A change of a port and a notice posted to it are one change of the port. -/
theorem State.modifyPort_post (s : State) (d : Port) (f : PortState → PortState) (k : NoticeKind) :
    (s.modifyPort d f).post d k = s.modifyPort d (fun q =>
      { f q with latched := (f q).latched.mark k, postedSinceView := (f q).postedSinceView.mark k }) :=
  State.modifyPort_modifyPort s d f _

/-- Settles O39: each case of the table is one equation of `signalCase`. -/
theorem signalDecidedByFirstCase : Obligations.SignalDecidedByFirstCase := by
  intro p target value s hp
  refine ⟨fun hbad => ?_, fun d hd hne => ⟨fun x hx => ?_, fun hempty => ?_⟩⟩
  · exact signalPort_decided hp (State.signalCase_badParameter fun d => eq_sender_of_badTarget hbad)
  · exact signalPort_decided hp (State.signalCase_mailboxFull hd hne hx)
  · rw [signalPort_decided hp (State.signalCase_delivers hd hne hempty), State.modifyPort_post]
    rfl

end Machine
end Sys2Proof
end

section
/-! The map staging commands (R161 to R164): a command decided by a table of checks answers the first refusal that
holds, each command's checks are the spec's table, and the two commands on the whole staged map and the three edits. -/

namespace Sys2Proof

/-! ### Codes and sets of ports (R185) -/

theorem Port.ofCode_eq_none {b : Byte} : Port.ofCode b = none ↔ 3 < b.toNat := by
  unfold Port.ofCode
  split
  case h_5 h0 h1 h2 h3 =>
    have hne : b.toNat ≠ 0 ∧ b.toNat ≠ 1 ∧ b.toNat ≠ 2 ∧ b.toNat ≠ 3 := ⟨h0, h1, h2, h3⟩
    exact iff_of_true rfl (by omega)
  all_goals simp [*]

theorem Port.ofCode_eq_some {b : Byte} {d : Option Port} : Port.ofCode b = some d ↔ b.toNat = Port.codeOf d := by
  cases d with
  | some d => exact Port.ofCode_eq_some_some
  | none =>
    unfold Port.ofCode
    split <;> simp_all [Port.codeOf]

namespace Machine

theorem PortSet.ofByte_eq_none {b : Byte} : PortSet.ofByte b = none ↔ 7 < b.toNat := by
  rw [PortSet.ofByte, ite_eq_right_iff]
  simp only [reduceCtorEq, imp_false, Nat.not_lt, Nat.succ_le_iff]

theorem PortSet.ofByte_of_le {b : Byte} (h : b.toNat ≤ 7) :
    PortSet.ofByte b = some ⟨b.getLsbD 0, b.getLsbD 1, b.getLsbD 2⟩ := if_pos (Nat.lt_succ_of_le h)

/-! ### Checks and the spec's tables of refusals (R24, R165) -/

/-- A list of checks is a table of refusals: the same codes in the same order, each check failing exactly when its
condition holds. -/
def ChecksMean (checks : List (Bool × Response)) (table : List (Prop × Response)) : Prop :=
  List.Forall₂ (fun c d => (c.1 = true ↔ d.1) ∧ c.2 = d.2) checks table

theorem ChecksMean.nil : ChecksMean [] [] := List.Forall₂.nil

theorem ChecksMean.cons {b : Bool} {P : Prop} {r : Response} {checks : List (Bool × Response)}
    {table : List (Prop × Response)} (h : b = true ↔ P) (hs : ChecksMean checks table) :
    ChecksMean ((b, r) :: checks) ((P, r) :: table) := List.Forall₂.cons ⟨h, rfl⟩ hs

theorem ChecksMean.append {cs ds : List (Bool × Response)} {ps qs : List (Prop × Response)} (h : ChecksMean cs ps)
    (k : ChecksMean ds qs) : ChecksMean (cs ++ ds) (ps ++ qs) := List.rel_append h k

theorem ChecksMean.firstFailing_eq_some {cs : List (Bool × Response)} {ps : List (Prop × Response)} {r : Response}
    (h : ChecksMean cs ps) (hr : firstHolds ps r) : firstFailing cs = some r := by
  induction h with
  | nil => exact hr.elim
  | @cons c d cs ps hcd _ ih =>
    obtain ⟨hmean, hcode⟩ := hcd
    rw [firstFailing_cons]
    rcases hr with ⟨hd, rfl⟩ | ⟨hd, hrest⟩
    · rw [if_pos (hmean.2 hd), hcode]
    · rw [if_neg (mt hmean.1 hd), ih hrest]

theorem ChecksMean.firstFailing_eq_none {cs : List (Bool × Response)} {ps : List (Prop × Response)}
    (h : ChecksMean cs ps) (hn : noneHolds ps) : firstFailing cs = none := by
  induction h with
  | nil => rfl
  | @cons c d cs ps hcd _ ih =>
    obtain ⟨hmean, -⟩ := hcd
    obtain ⟨hd, hrest⟩ := hn
    rw [firstFailing_cons, if_neg (mt hmean.1 hd), ih hrest]

theorem noneHolds_append {ps qs : List (Prop × Response)} (hp : noneHolds ps) (hq : noneHolds qs) :
    noneHolds (ps ++ qs) := by
  induction ps with
  | nil => exact hq
  | cons _ _ ih =>
    obtain ⟨hhead, htail⟩ := hp
    exact ⟨hhead, ih htail⟩

/-! ### Commands decided by checks -/

/-- The answer of a taken command that is decided by checks. -/
def State.answersChecked (s : State) (p : Port) (checks : List (Bool × Response)) (effect : State) : Result :=
  (s.checked checks effect).2.answers p (s.checked checks effect).1

theorem takeCommand_checked {p : Port} {s : State} (checks : State → List (Bool × Response))
    (effect : State → State) (hp : s.portReady p = true) :
    takeCommand p s (fun t => t.checked (checks t) (effect t)) = s.answersChecked p (checks s) (effect s) :=
  takeCommand_ready _ hp

section
variable {s : State} {checks : List (Bool × Response)} {table : List (Prop × Response)} (h : ChecksMean checks table)
  (p : Port) (effect : State)
include h

theorem State.answersChecked_refused {r : Response} (hr : firstHolds table r) :
    s.answersChecked p checks effect = s.answers p r := by
  simp only [State.answersChecked, State.checked, h.firstFailing_eq_some hr]

theorem State.answersChecked_accepted (hn : noneHolds table) :
    s.answersChecked p checks effect = effect.answers p .ok := by
  simp only [State.answersChecked, State.checked, h.firstFailing_eq_none hn]

end

/-! ### The conditions of the tables (R159 to R163) -/

theorem State.notAuthority_iff {s : State} {p : Port} : s.notAuthority p = true ↔ s.authority ≠ some p :=
  decide_eq_true_iff

theorem State.mapPending_iff {s : State} : s.mapPending = true ↔ ∃ e ∈ s.queue, e.kind = .mapCommit := by
  simp [State.mapPending]

theorem badRegionFields_iff {index defined rm wm : Byte} :
    badRegionFields index defined rm wm = true ↔
      15 < index.toNat ∨ 1 < defined.toNat ∨ 7 < rm.toNat ∨ 7 < wm.toNat := by
  simp [badRegionFields, PortSet.ofByte_eq_none, or_assoc]

theorem badProfileFields_iff {code ceiling window : Byte} :
    badProfileFields code ceiling window = true ↔
      code.toNat = 0 ∨ 3 < code.toNat ∨ 3 < ceiling.toNat ∨ 15 < window.toNat := by
  simp only [badProfileFields, Bool.or_eq_true, decide_eq_true_eq, or_assoc]

theorem badAuthorityField_iff {code : Byte} : (Port.ofCode code).isNone = true ↔ 3 < code.toNat := by
  rw [Option.isNone_iff_eq_none, Port.ofCode_eq_none]

/-! ### MAP STAGE BEGIN and MAP DISCARD (R161, R164) -/

/-- R161, R164: the checks of the two commands on the whole staged map. -/
def State.stageChecks (s : State) (p : Port) : List (Bool × Response) :=
  [(s.notAuthority p, .notAuthority), (s.mapPending, .mapPending)]

/-- R161, R164: their table of refusals. -/
def State.stageRefusals (s : State) (p : Port) : List (Prop × Response) :=
  [(s.authority ≠ some p, .notAuthority), (∃ e ∈ s.queue, e.kind = .mapCommit, .mapPending)]

theorem State.stageChecks_mean (s : State) (p : Port) : ChecksMean (s.stageChecks p) (s.stageRefusals p) :=
  .cons State.notAuthority_iff (.cons State.mapPending_iff .nil)

theorem exec_mapStageBegin {p : Port} {s : State} (hp : s.portReady p = true) :
    exec (.mapStageBegin p) s = s.answersChecked p (s.stageChecks p) { s with staged := some s.workingImage } :=
  takeCommand_checked (fun t => t.stageChecks p) (fun t => { t with staged := some t.workingImage }) hp

theorem exec_mapDiscard {p : Port} {s : State} (hp : s.portReady p = true) :
    exec (.mapDiscard p) s = s.answersChecked p (s.stageChecks p) { s with staged := none } :=
  takeCommand_checked (fun t => t.stageChecks p) (fun t => { t with staged := none }) hp

/-- R146: bit 4 of byte 7 of READ STATUS is STAGE_PRESENT; the other flags of the byte lie below it. -/
theorem State.stagePresent_clear {s : State} (h : s.staged = none) (q : Port) :
    (((s.statusView q)[7]?).getD 0).toNat / 16 % 2 = 0 := by
  have hc := Bool.toNat_le (s.port q).conflictSeen
  have hd := Bool.toNat_le (s.port q).deniedSeen
  have hm := Bool.toNat_le s.mapDefaulted
  have hi := Bool.toNat_le (!s.interrupted.isEmpty)
  simp only [State.statusView, h, byteOf, Option.isSome_none, Bool.toNat_false, List.getElem?_cons_succ,
    List.getElem?_cons_zero, Option.getD_some, BitVec.toNat_ofNat]
  omega

/-- Settles O40: both commands are decided by the one table `stageRefusals`. -/
theorem stageBegunAndDiscarded : Obligations.StageBegunAndDiscarded := by
  intro p s hp
  have hmean := s.stageChecks_mean p
  rw [exec_mapStageBegin hp, exec_mapDiscard hp]
  refine ⟨fun hauth => ?_, fun hauth hcommit => ?_, fun hauth hcommit => ?_⟩
  · have hr : firstHolds (s.stageRefusals p) .notAuthority := .inl ⟨hauth, rfl⟩
    exact ⟨State.answersChecked_refused hmean p _ hr, State.answersChecked_refused hmean p _ hr⟩
  · have hr : firstHolds (s.stageRefusals p) .mapPending := .inr ⟨not_not_intro hauth, .inl ⟨hcommit, rfl⟩⟩
    exact ⟨State.answersChecked_refused hmean p _ hr, State.answersChecked_refused hmean p _ hr⟩
  · have hn : noneHolds (s.stageRefusals p) :=
      ⟨not_not_intro hauth, fun ⟨e, he, hkind⟩ => hcommit e he hkind, trivial⟩
    exact ⟨State.answersChecked_accepted hmean p _ hn, State.answersChecked_accepted hmean p _ hn,
      State.stagePresent_clear rfl⟩

/-! ### The three edits (R162, R163) -/

theorem State.editChecks_mean (s : State) (p : Port) : ChecksMean (s.editChecks p) (s.editRefusals p) :=
  .cons State.notAuthority_iff (.cons Option.isNone_iff_eq_none (.cons State.mapPending_iff .nil))

/-- The answer of a taken edit: its checks are the three cases that all edits share and then the range of its own
fields, `bad` telling that they are out of range. -/
def State.answersEdit (s : State) (p : Port) (bad : Bool) (f : MapImage → MapImage) : Result :=
  s.answersChecked p (s.editChecks p ++ [(bad, .badParameter)]) (s.editStage f)

theorem takeCommand_edit {p : Port} {s : State} (bad : Bool) (f : MapImage → MapImage) (hp : s.portReady p = true) :
    takeCommand p s (fun t => t.checked (t.editChecks p ++ [(bad, .badParameter)]) (t.editStage f)) =
      s.answersEdit p bad f :=
  takeCommand_ready _ hp

section
variable {s : State} {p : Port} {bad : Bool} {P : Prop} (h : bad = true ↔ P) (f : MapImage → MapImage)
include h

theorem State.answersEdit_refused {r : Response} (hr : firstHolds (s.editRefusals p ++ [(P, .badParameter)]) r) :
    s.answersEdit p bad f = s.answers p r :=
  State.answersChecked_refused ((s.editChecks_mean p).append (.cons h .nil)) p _ hr

theorem State.answersEdit_accepted {m : MapImage} (hn : noneHolds (s.editRefusals p)) (hm : s.staged = some m)
    (hfields : ¬P) : s.answersEdit p bad f = { s with staged := some (f m) }.answers p .ok := by
  have hstage : s.editStage f = { s with staged := some (f m) } := by rw [State.editStage, hm, Option.map_some]
  rw [← hstage]
  exact State.answersChecked_accepted ((s.editChecks_mean p).append (.cons h .nil)) p _
    (noneHolds_append hn ⟨hfields, trivial⟩)

end

theorem exec_mapStageRegion {p : Port} {s : State} (index defined first last rm wm limit : Byte)
    (hp : s.portReady p = true) :
    exec (.mapStageRegion p index defined first last rm wm limit) s =
      s.answersEdit p (badRegionFields index defined rm wm) (fun m =>
        { m with regions := m.regions.set index.toNat (stagedEntry defined first last rm wm limit) }) :=
  takeCommand_edit _ _ hp

theorem exec_mapStageProfile {p : Port} {s : State} (code ceiling window fill : Byte) (hp : s.portReady p = true) :
    exec (.mapStageProfile p code ceiling window fill) s =
      s.answersEdit p (badProfileFields code ceiling window)
        (fun m => m.setProfile code ⟨ceiling.toNat, window.toNat, fill⟩) :=
  takeCommand_edit _ _ hp

theorem exec_mapStageAuthority {p : Port} {s : State} (code : Byte) (hp : s.portReady p = true) :
    exec (.mapStageAuthority p code) s =
      s.answersEdit p (Port.ofCode code).isNone (fun m => { m with authority := (Port.ofCode code).join }) :=
  takeCommand_edit _ _ hp

theorem stagedEntry_one {rm wm : Byte} (first last limit : Byte) (hr : rm.toNat ≤ 7) (hw : wm.toNat ≤ 7) :
    stagedEntry 1 first last rm wm limit = some
      ⟨first, last, ⟨rm.getLsbD 0, rm.getLsbD 1, rm.getLsbD 2⟩, ⟨wm.getLsbD 0, wm.getLsbD 1, wm.getLsbD 2⟩,
        limit⟩ := by
  simp [stagedEntry, PortSet.ofByte_of_le hr, PortSet.ofByte_of_le hw]

theorem stagedEntry_zero (first last rm wm limit : Byte) : stagedEntry 0 first last rm wm limit = none := rfl

theorem MapImage.setProfile_code {m : MapImage} {code : Byte} {d : Port} (h : code.toNat = d.code) (f : Profile) :
    m.setProfile code f = { m with profiles := m.profiles.set d f } := by
  simp only [MapImage.setProfile, Port.ofCode_eq_some_some.2 h]

/-- R162: an accepted MAP STAGE REGION writes its entry, defined or not. -/
theorem exec_mapStageRegion_accepted {p : Port} {s : State} {m : MapImage} {index defined rm wm : Byte}
    (first last limit : Byte) (hp : s.portReady p = true) (hn : noneHolds (s.editRefusals p)) (hm : s.staged = some m)
    (hi : index.toNat ≤ 15) (hd : defined.toNat ≤ 1) (hr : rm.toNat ≤ 7) (hw : wm.toNat ≤ 7) :
    exec (.mapStageRegion p index defined first last rm wm limit) s =
      { s with staged := some { m with
        regions := m.regions.set index.toNat (stagedEntry defined first last rm wm limit) } }.answers p .ok := by
  have hfields : ¬(15 < index.toNat ∨ 1 < defined.toNat ∨ 7 < rm.toNat ∨ 7 < wm.toNat) := by omega
  rw [exec_mapStageRegion _ _ _ _ _ _ _ hp, State.answersEdit_accepted badRegionFields_iff _ hn hm hfields]

/-- R163: an accepted MAP STAGE PROFILE writes the profile of the port it names. -/
theorem exec_mapStageProfile_accepted {p d : Port} {s : State} {m : MapImage} {code ceiling window : Byte}
    (fill : Byte) (hp : s.portReady p = true) (hn : noneHolds (s.editRefusals p)) (hm : s.staged = some m)
    (hd : code.toNat = d.code) (hc : ceiling.toNat ≤ 3) (hw : window.toNat ≤ 15) :
    exec (.mapStageProfile p code ceiling window fill) s =
      { s with staged := some { m with
        profiles := m.profiles.set d ⟨ceiling.toNat, window.toNat, fill⟩ } }.answers p .ok := by
  have hpos := d.code_pos
  have hle := d.code_le_three
  have hfields : ¬(code.toNat = 0 ∨ 3 < code.toNat ∨ 3 < ceiling.toNat ∨ 15 < window.toNat) := by omega
  rw [exec_mapStageProfile _ _ _ _ hp, State.answersEdit_accepted badProfileFields_iff _ hn hm hfields,
    MapImage.setProfile_code hd]

/-- R163: an accepted MAP STAGE AUTHORITY writes the authority it names, a port or none. -/
theorem exec_mapStageAuthority_accepted {p : Port} {d : Option Port} {s : State} {m : MapImage} {code : Byte}
    (hp : s.portReady p = true) (hn : noneHolds (s.editRefusals p)) (hm : s.staged = some m)
    (hd : code.toNat = Port.codeOf d) :
    exec (.mapStageAuthority p code) s = { s with staged := some { m with authority := d } }.answers p .ok := by
  have hcode : Port.ofCode code = some d := Port.ofCode_eq_some.2 hd
  have hfield : ¬3 < code.toNat := fun hbad => by simp [Port.ofCode_eq_none.2 hbad] at hcode
  rw [exec_mapStageAuthority _ hp, State.answersEdit_accepted badAuthorityField_iff _ hn hm hfield, hcode,
    Option.join_some]

/-- Settles O41: the checks of each edit are its table of refusals, and each accepted edit is one equation. -/
theorem editsDecidedByFirstCase : Obligations.EditsDecidedByFirstCase := by
  intro p s hp
  refine ⟨fun index defined first last rm wm limit r hr => ?_,
    fun index defined first last rm wm limit m hn hm hi hrm hwm => ⟨?_, ?_⟩,
    fun code ceiling window fill r hr => ?_, fun code ceiling window fill m d hn hm hd hc hw => ?_,
    fun code r hr => ?_, fun code m d hn hm hd => ?_⟩
  · rw [exec_mapStageRegion _ _ _ _ _ _ _ hp]
    exact State.answersEdit_refused badRegionFields_iff _ hr
  · rintro rfl
    rw [exec_mapStageRegion_accepted _ _ _ hp hn hm hi (by decide) hrm hwm, stagedEntry_one _ _ _ hrm hwm]
  · rintro rfl
    rw [exec_mapStageRegion_accepted _ _ _ hp hn hm hi (by decide) hrm hwm, stagedEntry_zero]
  · rw [exec_mapStageProfile _ _ _ _ hp]
    exact State.answersEdit_refused badProfileFields_iff _ hr
  · exact exec_mapStageProfile_accepted fill hp hn hm hd hc hw
  · rw [exec_mapStageAuthority _ hp]
    exact State.answersEdit_refused badAuthorityField_iff _ hr
  · exact exec_mapStageAuthority_accepted hp hn hm hd

end Machine
end Sys2Proof
end

section
/-! CLEAR INTERRUPTED (R184): the flag byte of READ STATUS as a number, what INTERRUPTED_PRESENT says of the record,
and the command's one answer. -/

namespace Sys2Proof.Machine

/-- R146: the flags of byte 7 of READ STATUS lie side by side, and the five of them fit the byte. -/
theorem State.statusView_flags (s : State) (q : Port) :
    (((s.statusView q)[7]?).getD 0).toNat =
      (s.port q).conflictSeen.toNat + 2 * (s.port q).deniedSeen.toNat + 4 * s.mapDefaulted.toNat
        + 8 * (!s.interrupted.isEmpty).toNat + 16 * s.staged.isSome.toNat := by
  have hconflict := Bool.toNat_le (s.port q).conflictSeen
  have hdenied := Bool.toNat_le (s.port q).deniedSeen
  have hdefaulted := Bool.toNat_le s.mapDefaulted
  have hinterrupted := Bool.toNat_le (!s.interrupted.isEmpty)
  have hstaged := Bool.toNat_le s.staged.isSome
  simp only [State.statusView, List.getElem?_cons_succ, List.getElem?_cons_zero, Option.getD_some, byteOf,
    BitVec.toNat_ofNat]
  exact Nat.mod_eq_of_lt (by omega)

/-- R146: bit 3 of byte 7 of READ STATUS is INTERRUPTED_PRESENT, on every port clear exactly when the record is
empty. -/
theorem State.interruptedPresent_clear_iff (s : State) (q : Port) :
    (((s.statusView q)[7]?).getD 0).toNat / 8 % 2 = 0 ↔ s.interrupted = [] := by
  have hconflict := Bool.toNat_le (s.port q).conflictSeen
  have hdenied := Bool.toNat_le (s.port q).deniedSeen
  have hdefaulted := Bool.toNat_le s.mapDefaulted
  rw [s.statusView_flags q]
  cases s.interrupted with
  | nil =>
    simp only [List.isEmpty_nil, Bool.not_true, Bool.toNat_false, iff_true]
    omega
  | cons i is =>
    simp only [List.isEmpty_cons, Bool.not_false, Bool.toNat_true, reduceCtorEq, iff_false]
    omega

/-- R184: a taken CLEAR INTERRUPTED has one answer, whatever the record holds. -/
theorem exec_clearInterrupted {p : Port} {s : State} (hp : s.portReady p = true) :
    exec (.clearInterrupted p) s = { s with interrupted := [] }.answers p .ok :=
  takeCommand_ready (fun t => (.ok, { t with interrupted := [] })) hp

/-- Settles O49: the command's one answer, and the flag of an empty record. -/
theorem clearInterruptedEmptiesTheRecord : Obligations.ClearInterruptedEmptiesTheRecord :=
  fun _ s hp => ⟨exec_clearInterrupted hp, fun q =>
    (State.interruptedPresent_clear_iff { s with interrupted := [] } q).2 rfl⟩

end Sys2Proof.Machine
end

section
/-! Everything a step can do, once: a step of the part is a chain of moves, each one small change with the conditions
under which the part makes it. What every step keeps is proved move by move. -/

namespace Sys2Proof.Machine

/-! ### Who makes a move -/

/-- Who makes a move: a frame of a port, a SIGNAL PORT frame of a port, a happening of the part itself, or the part as
it takes its next command or input. -/
inductive Actor where
  | port (p : Port)
  | signal (p : Port)
  | event
  | intake

/-- The port whose frame it is. -/
def Actor.acts : Actor → Port → Prop
  | .port p, q => p = q
  | .signal p, q => p = q
  | .event, _ => False
  | .intake, _ => False

/-! ### The moves -/

/-- A change of a port that no law minds: what its frame holds, whether it is INERT, and the tables that name its
records, its buffers and its profile do not change, but that records and a signal may leave. -/
structure PortState.Quiet (q r : PortState) : Prop where
  profile : r.profile = q.profile
  handles : r.handles = q.handles
  records : r.completions.length ≤ q.completions.length
  mailbox : r.mailbox = q.mailbox ∨ r.mailbox = none
  holds : ∀ k, r.holds k = q.holds k
  stream : q.streamLaw = true → r.streamLaw = true
  inert : r.frame = .inert ↔ q.frame = .inert
  line : q.lineLaw = true → r.lineLaw = true

/-- The state in which the port's stream has let go of its bank, if it held one (R6). -/
def State.released (s : State) (p : Port) : State :=
  match (s.port p).frame with
  | .readStream st => s.releaseHeld st
  | _ => s

/-- One move of the part. -/
inductive Move (a : Actor) (s : State) : State → Prop
  /-- A command or another input is taken (log 15). -/
  | taken (l : List Instr) (is : List Input) (ha : a = .intake) : Move a s { s with pending := l, inputs := is }
  /-- Fields that no law reads. -/
  | unread (pages : List Nat) (n : Nat) : Move a s { s with unsettled := pages, freeIndex := n }
  | own {p : Port} {f : PortState → PortState} (ha : a.acts p) (h : (s.port p).Quiet (f (s.port p))) :
      Move a s (s.modifyPort p f)
  | post (p : Port) (k : NoticeKind) : Move a s (s.post p k)
  | signal {p d : Port} (v : Byte) (ha : a = .signal p) (hd : d ≠ p) (hempty : (s.port d).mailbox = none) :
      Move a s (s.modifyPort d (fun q => { q with mailbox := some ⟨p, v⟩ }))
  | look : Move a s s.look
  | clearInterrupted : Move a s { s with interrupted := [] }
  /-- A port's stream becomes a fill stream (R9, R12, R13). -/
  | fill {p : Port} (st : ReadStream) (b : Byte) (ha : a.acts p) (hf : (s.port p).frame ≠ .inert) :
      Move a s ((s.released p).setFrame p (.readStream { st with held := none, fill := some b }))
  /-- A port's stream takes hold of a bank in which no conflict is (R9, R12, R13). -/
  | hold {p : Port} (st : ReadStream) (ha : a.acts p) (hf : (s.port p).frame ≠ .inert)
      (hc : s.readConflict st.current = false) :
      Move a s (((s.released p).holdBank (bankOf st.current)).setFrame p
        (.readStream { st with held := some (bankOf st.current), fill := none }))
  /-- A port's stream closes (R15). -/
  | close {p : Port} (ha : a.acts p) (hf : (s.port p).frame ≠ .inert) :
      Move a s ((s.released p).setFrame p .deselected)
  /-- A read suspend request is noted (R10, R61). -/
  | request {p : Port} {x : Addr} (h : s.raisesRequest p x = true) :
      Move a s (s.requestSuspend (s.port p).profile.window)
  /-- The data of a buffer change (R106). -/
  | load (b offset : Nat) (data : List Byte) :
      Move a s (s.modifyBuffer b (fun u => { u with data := loadBytes u.data offset data }))
  /-- A FREE buffer is allocated under a handle (R104, R105). -/
  | allocate {p : Port} {h : Byte} {b : Nat} (offset : Nat) (data : List Byte) (ha : a.acts p) (hle : h.toNat ≤ 3)
      (hnone : (s.port p).handle h = none) (hfree : s.lowestFree = some b) (hown : s.ownedBuffers p < 4) :
      Move a s ((s.modifyBuffer b (fun _ =>
        ⟨.filling, loadBytes (List.replicate 256 Config.erased) offset data⟩)).setHandle p h (some b))
  /-- A handle gives up its buffer (R109). -/
  | discard {p : Port} {h : Byte} {b : Nat} (ha : a.acts p) (hle : h.toNat ≤ 3) (hb : (s.port p).handle h = some b) :
      Move a s ((s.modifyBuffer b (fun u => { u with state := .free })).setHandle p h none)
  /-- A submission is accepted (R24, R27). -/
  | program {p : Port} {h : Byte} {addr : Addr} {tag cls : Byte} (ha : a.acts p) (hd : s.device = .ready)
      (hok : firstFailing (s.programChecks p h addr tag cls) = none) :
      Move a s (s.acceptProgram p h addr tag cls)
  | sectorErase {p : Port} {addr : Addr} {tag cls : Byte} (hd : s.device = .ready)
      (hok : firstFailing (s.eraseChecks p addr tag cls) = none) :
      Move a s (s.acceptErase p .sectorErase (.sector (sectorOf addr)) tag cls addr)
  | blockErase {p : Port} {addr : Addr} {tag cls : Byte} (hd : s.device = .ready)
      (hok : firstFailing (s.eraseChecks p addr tag cls) = none) :
      Move a s (s.acceptErase p .blockErase (.block (blockOf addr)) tag cls addr)
  /-- MAP COMMIT is accepted (R165, R166). -/
  | commit {p : Port} {tag : Byte} (hd : s.device = .ready) (hok : firstFailing (s.commitChecks p tag) = none) :
      Move a s (s.acceptCommit p tag)
  /-- A QUEUED entry is cancelled (R32). -/
  | cancel {p : Port} {i : Nat} {e : Entry} (ha : a.acts p) (hi : s.queue[i]? = some e) (he : e.isQueued = true)
      (hp : e.port = p) : Move a s (s.cancelEntry i e)
  /-- The QUEUED work of a lease's holder is lost (R93). -/
  | lose {p : Port} {i : Nat} {r : Region} (ha : a = .event) (hr : s.region i = some r)
      (hh : r.lease.holder = some p) : Move a s (s.loseEntries p i)
  /-- Steps 1 and 2 of PORT RESET (R151). -/
  | resetQueue (p : Port) : Move a s (s.resetQueue p)
  | resetHandles {p : Port} (ha : a.acts p) : Move a s (s.resetHandles p)
  /-- What happens to a lease (R83, R86, R88, R91). -/
  | take {p : Port} {i : Nat} {r : Region} (hr : s.region i = some r) (hm : r.definition.writeMask.has p = true)
      (hs : r.lease.state = .free) :
      Move a s (s.modifyLease i (fun l =>
        { l with state := .held, holder := some p, remaining := r.definition.limit.toNat }))
  | wait {p : Port} {i : Nat} {r : Region} (hr : s.region i = some r) (hm : r.definition.writeMask.has p = true)
      (hs : r.lease.state = .held ∨ r.lease.state = .draining ∧ r.lease.waiters.length < 2)
      (hh : r.lease.holder ≠ some p) (hw : p ∉ r.lease.waiters) :
      Move a s (s.modifyLease i (fun l => { l with waiters := l.waiters ++ [p] }))
  | renew {p : Port} {i : Nat} {r : Region} (hr : s.region i = some r) (hh : r.lease.holder = some p) :
      Move a s (s.modifyLease i (fun l => { l with remaining := r.definition.limit.toNat }))
  | leave (p : Port) (i : Nat) : Move a s (s.modifyLease i (fun l => { l with waiters := l.waiters.erase p }))
  | endLease {p : Port} {i : Nat} {r : Region} (hr : s.region i = some r) (hh : r.lease.holder = some p)
      (hq : ∀ e ∈ s.queue, e.queuedIn p i = false) : Move a s (s.endLease i)
  | tick {i : Nat} {r : Region} (hr : s.region i = some r) (hs : r.lease.state = .held)
      (hn : 2 ≤ r.lease.remaining) :
      Move a s (s.modifyLease i (fun l => { l with remaining := r.lease.remaining - 1 }))
  /-- The staged map changes (R160 to R164). -/
  | stage {m : Option MapImage} (h : s.profileLaw = true → m.all MapImage.profileLaw = true) :
      Move a s { s with staged := m }
  /-- The happenings of the engine (R56, R63) and of the read window (R66). -/
  | endEntry {i : Nat} {e : Entry} (outcome : EndOutcome) (ha : a = .event) (hstop : s.stopping = [])
      (hi : s.activeIndex = some i) (he : s.queue[i]? = some e) : Move a s (s.endEntry i e outcome)
  | park {i : Nat} (hstop : s.stopping = []) (heng : s.engine = .suspending) (hi : s.activeIndex = some i) :
      Move a s (s.parkErase i)
  | windowStep {w : Nat} (hw : s.window = some w) (h1 : 1 < w) : Move a s { s with window := some (w - 1) }
  | windowClose : Move a s { s with window := none }
  /-- Supply and RESET# (R172 to R181). -/
  | supply {x : SupplyState} (h : s.supply ≠ .failed) (hx : x ≠ .failed) : Move a s { s with supply := x }
  | power {x : SupplyState} {f : FrameState} (ha : a = .event)
      (h : x = .failed ∧ f = .inert ∨ x ≠ .failed ∧ f = if s.resetLow then .inert else .deselected) :
      Move a s (s.powerOnValues x f)
  | fallUnpowered (h : s.supply = .failed) : Move a s { s with resetLow := true }
  | fall {items : List InterruptedItem} (ha : a = .event) (hlow : s.resetLow = false) (h : s.supply ≠ .failed)
      (hi : s.stopping ≠ [] ∧ items = s.stopping ∨ s.stopping = [] ∧ items = s.cutOffItems) :
      Move a s (s.atReset items)
  | riseUnpowered (h : s.supply = .failed) : Move a s { s with resetLow := false }
  | rise (ha : a = .event) (hlow : s.resetLow = true) (h : s.supply ≠ .failed) :
      Move a s { s with resetLow := false }.deselectAll
  | arrayStops : Move a s s.arrayStops
  /-- A step of start-up (R177). -/
  | startUp {k : StartUpStep} (mv : Nat) (ha : a = .event) (hd : s.device = .starting) (hlow : s.resetLow = false)
      (hs : s.supply ≠ .failed) (hstop : s.stopping = []) (hk : s.startUpSteps = startUpPlace k) :
      Move a s (s.startUpStep mv k)

/-- A chain of moves. -/
abbrev Moves (a : Actor) : State → State → Prop := Relation.ReflTransGen (Move a)

theorem Move.chain {a : Actor} {s t : State} (h : Move a s t) : Moves a s t := Relation.ReflTransGen.single h

theorem Moves.refl (a : Actor) (s : State) : Moves a s s := Relation.ReflTransGen.refl

/-- What every move keeps, a chain of moves keeps. -/
theorem Moves.keep {a : Actor} {P : State → Prop} (hP : ∀ s t, Move a s t → P s → P t) {s t : State}
    (h : Moves a s t) (hs : P s) : P t := by
  induction h with
  | refl => exact hs
  | tail _ hm ih => exact hP _ _ hm ih

/-- Moves one after the other along a list. -/
theorem Moves.foldl {α : Type} {a : Actor} {f : State → α → State} (hf : ∀ s x, Moves a s (f s x)) (l : List α)
    (s : State) : Moves a s (l.foldl f s) := by
  induction l generalizing s with
  | nil => exact Moves.refl a s
  | cons x l ih => exact (hf s x).trans (ih (f s x))

/-- What a fold of an operation leaves as it was, where each application leaves it. -/
theorem foldl_keeps {σ α β : Type} {f : σ → α → σ} (g : σ → β) (h : ∀ s x, g (f s x) = g s) (l : List α) (s : σ) :
    g (l.foldl f s) = g s := by
  induction l generalizing s with
  | nil => rfl
  | cons x l ih => rw [List.foldl_cons, ih, h]

end Sys2Proof.Machine
end

section
/-! The moves of the frames with an output phase: quiet changes of a port, the opening and the rise of a frame, and the
bytes that a read stream delivers. -/

namespace Sys2Proof.Machine

variable {a : Actor} {p : Port} {s t : State}

/-! ### Quiet changes -/

/-- A frame state that holds no bank, and is neither INERT nor in the midst of a frame on the lines. -/
def FrameState.plain : FrameState → Bool
  | .deselected => true
  | .dataOut _ => true
  | .bufferStream _ => true
  | _ => false

theorem PortState.holds_of_not_stream {q : PortState} (h : ∀ st, q.frame ≠ .readStream st) (k : Fin 4) :
    q.holds k = false := by
  unfold PortState.holds
  split
  · next st hst => exact absurd hst (h st)
  · rfl

theorem PortState.streamLaw_of_not_stream {q : PortState} (h : ∀ st, q.frame ≠ .readStream st) :
    q.streamLaw = true := by
  unfold PortState.streamLaw
  split
  · next st hst => exact absurd hst (h st)
  · rfl

theorem FrameState.not_stream_of_plain {f : FrameState} (h : f.plain = true) (st : ReadStream) : f ≠ .readStream st := by
  rintro rfl
  cases h

/-- A plain frame state says nothing of the lines but that a byte is in progress. -/
theorem PortState.lineLaw_of_plain {q : PortState} (h : q.frame.plain = true) (hs : q.shift.length < 8) :
    q.lineLaw = true := by
  unfold PortState.lineLaw
  cases hf : q.frame <;> simp_all [FrameState.plain]

theorem PortState.shift_of_lineLaw {q : PortState} (h : q.lineLaw = true) : q.shift.length < 8 := by
  simp only [PortState.lineLaw, Bool.and_eq_true, decide_eq_true_eq] at h
  exact h.1

/-- A change that leaves the frame and the lines as they are. -/
theorem PortState.Quiet.of_frame {q r : PortState} (hp : r.profile = q.profile) (hh : r.handles = q.handles)
    (hc : r.completions.length ≤ q.completions.length) (hm : r.mailbox = q.mailbox ∨ r.mailbox = none)
    (hf : r.frame = q.frame) (hcs : r.csLow = q.csLow) (hs : r.shift = q.shift) : q.Quiet r where
  profile := hp
  handles := hh
  records := hc
  mailbox := hm
  holds k := by simp only [PortState.holds, hf]
  stream h := by simpa only [PortState.streamLaw, hf] using h
  inert := by rw [hf]
  line h := by simpa only [PortState.lineLaw, hf, hcs, hs] using h

/-- A change from one frame state that is no stream and not INERT to a plain one. -/
theorem PortState.Quiet.of_plain {q r : PortState} (hp : r.profile = q.profile) (hh : r.handles = q.handles)
    (hc : r.completions.length ≤ q.completions.length) (hm : r.mailbox = q.mailbox ∨ r.mailbox = none)
    (hq : ∀ st, q.frame ≠ .readStream st) (hi : q.frame ≠ .inert) (hr : r.frame.plain = true)
    (hs : r.shift.length ≤ q.shift.length) : q.Quiet r where
  profile := hp
  handles := hh
  records := hc
  mailbox := hm
  holds k := by
    rw [PortState.holds_of_not_stream hq, PortState.holds_of_not_stream (FrameState.not_stream_of_plain hr)]
  stream _ := PortState.streamLaw_of_not_stream (FrameState.not_stream_of_plain hr)
  inert := by
    refine iff_of_false (fun h => ?_) hi
    rw [h] at hr
    cases hr
  line h := PortState.lineLaw_of_plain hr (lt_of_le_of_lt hs (PortState.shift_of_lineLaw h))

theorem Moves.respond (ha : a.acts p) (s : State) (r : Response) : Moves a s (s.respond p r) :=
  (Move.own ha (.of_frame rfl rfl (le_refl _) (.inl rfl) rfl rfl rfl)).chain

/-- A DESELECTED port opens a view or a READ BUFFER stream. -/
theorem Moves.open (ha : a.acts p) (hf : (s.port p).frame = .deselected) {f : FrameState} (h : f.plain = true) :
    Moves a s (s.setFrame p f) :=
  (Move.own ha (.of_plain rfl rfl (le_refl _) (.inl rfl) (by simp [hf]) (by simp [hf]) h (le_refl _))).chain

/-! ### The moments of a frame -/

/-- A taken command moves as its owner does. -/
theorem takeCommand_moves {owner : State → Response × State} (h : takeCommand p s owner = .next t) (ha : a.acts p)
    (hown : s.portReady p = true → Moves a s (owner s).2) : Moves a s t := by
  rcases takeCommand_next h with ⟨-, rfl⟩ | ⟨-, -, rfl⟩ | ⟨hready, rfl⟩
  · exact Moves.refl a _
  · exact Moves.respond ha _ _
  · exact (hown hready).trans (Moves.respond ha _ _)

theorem openFrame_moves {quad : Bool} {answer : State → State} (h : openFrame quad p s answer = .next t)
    (ha : a.acts p) (hans : (s.port p).frame = .deselected → Moves a s (answer s)) : Moves a s t := by
  rcases openFrame_next h with ⟨-, rfl⟩ | ⟨hf, -, rfl⟩ | ⟨hready, rfl⟩
  · exact Moves.refl a _
  · exact Moves.open ha hf rfl
  · exact hans (State.portReady_iff.1 hready).1

theorem openInquiry_moves {kind : InquiryKind} {bytes : List Byte} (ha : a.acts p)
    (h : openInquiry p s kind bytes = .next t) : Moves a s t :=
  openFrame_moves h ha fun hf => Moves.open ha hf rfl

/-- The rise of a view takes the port to DESELECTED; a record or a signal may leave with it. -/
theorem State.endView_moves (ha : a.acts p) {v : View} (hf : (s.port p).frame = .dataOut v) (n : Nat) :
    Moves a s (s.endView p n v) := by
  have ended : ∀ f : PortState → PortState, (∀ q : PortState, (f q).profile = q.profile ∧ (f q).handles = q.handles ∧
      (f q).completions.length ≤ q.completions.length ∧ ((f q).mailbox = q.mailbox ∨ (f q).mailbox = none) ∧
      (f q).frame = .deselected ∧ (f q).shift = q.shift) → Moves a s (s.modifyPort p f) := by
    intro f h
    obtain ⟨hp, hh, hc, hm, hr, hs⟩ := h (s.port p)
    exact (Move.own ha (.of_plain hp hh hc hm (by simp [hf]) (by simp [hf]) (by rw [hr]; rfl) (by rw [hs]))).chain
  cases v <;>
    simp only [State.endView, State.answerNotReady, State.endReadStatus, State.endPopCompletion, State.endReadNotices,
      State.endReadMailbox, State.endFrame, State.respond, State.modifyPort_modifyPort] <;>
    first
      | exact ended _ fun q => by simp
      | (split <;> exact ended _ fun q => by simp)

/-! ### Read streams -/

theorem State.raisesRequest_congr {x : Addr} (he : t.engine = s.engine) (hq : t.activeEntry = s.activeEntry)
    (hp : (t.port p).profile = (s.port p).profile) : t.raisesRequest p x = s.raisesRequest p x := by
  simp only [State.raisesRequest, he, hq, hp]

/-- The checks of a stream look at no port's frame. -/
theorem State.checkStream_setFrame (s : State) (p : Port) (f : FrameState) (st : ReadStream) :
    (s.setFrame p f).checkStream p st = s.checkStream p st := by
  have hd : (s.setFrame p f).readDenied p st.current = s.readDenied p st.current := rfl
  have hc : (s.setFrame p f).readConflict st.current = s.readConflict st.current := rfl
  have hprof : ((s.setFrame p f).port p).profile = (s.port p).profile := by simp [State.setFrame]
  have hr : (s.setFrame p f).raisesRequest p st.current = s.raisesRequest p st.current :=
    State.raisesRequest_congr rfl rfl hprof
  have hfill : (s.setFrame p f).fillStream p st = s.fillStream p st := by
    simp [State.fillStream, State.setFrame]
  have hhold : ((s.setFrame p f).holdBank (bankOf st.current)).setFrame p
      (.readStream { st with held := some (bankOf st.current), fill := none }) =
      (s.holdBank (bankOf st.current)).setFrame p
        (.readStream { st with held := some (bankOf st.current), fill := none }) := by
    simp [State.setFrame, State.holdBank, State.modifyPort]
  simp only [State.checkStream, State.denyStream, State.conflictStream, hd, hc, hr, hfill, hhold, hprof]

theorem State.recheckStream_setFrame (s : State) (p : Port) (f : FrameState) (st : ReadStream) :
    (s.setFrame p f).recheckStream p st = s.recheckStream p st := by
  have hk : ∀ k : Fin 4, (s.setFrame p f).releaseBank k = (s.releaseBank k).setFrame p f := fun _ => rfl
  have hs : (s.setFrame p f).setFrame p (.readStream st) = s.setFrame p (.readStream st) := by simp [State.setFrame]
  have hd : (s.setFrame p f).readDenied p st.current = s.readDenied p st.current := rfl
  have hc : (s.setFrame p f).readConflict st.current = s.readConflict st.current := rfl
  simp only [State.recheckStream, hk, hs, hd, hc, State.checkStream_setFrame]

/-- Nothing but the count of a bank tells a state from the one in which the port's stream has let go. -/
theorem State.released_eq (s : State) (p : Port) : s.released p = { s with holders := (s.released p).holders } := by
  unfold State.released State.releaseHeld State.releaseBank
  repeat' split
  all_goals rfl

theorem State.released_raisesRequest (s : State) (p : Port) (x : Addr) :
    (s.released p).raisesRequest p x = s.raisesRequest p x := by
  rw [State.released_eq]
  rfl

/-- A request raised in one state is noted in another with the same work and the same profile of the port. -/
theorem State.requestSuspend_moves {x : Addr} (h : s.raisesRequest p x = true) (he : t.engine = s.engine)
    (hq : t.activeEntry = s.activeEntry) (hp : (t.port p).profile = (s.port p).profile) :
    Moves a t (t.requestSuspend (s.port p).profile.window) := by
  rw [← hp]
  exact (Move.request ((State.raisesRequest_congr he hq hp).trans h)).chain

/-- The checks of a stream, made by a port whose stream has let go of its bank: it fills, or it takes hold of the bank
of its address. -/
theorem State.checkStream_moves (ha : a.acts p) (hf : (s.port p).frame ≠ .inert) (st : ReadStream) :
    Moves a s ((s.released p).checkStream p st) := by
  have flags : ∀ (t : State) (f : PortState → PortState), (t.port p).Quiet (f (t.port p)) →
      Moves a t (t.modifyPort p f) := fun t f h => (Move.own ha h).chain
  unfold State.checkStream
  split
  · exact ((Move.fill st _ ha hf).chain).trans (flags _ _ (.of_frame rfl rfl (le_refl _) (.inl rfl) rfl rfl rfl))
  · split
    · have filled : Moves a s ((((s.released p).fillStream p st).modifyPort p
          (fun q => { q with conflictSeen := true })).post p .readConflict) :=
        Relation.ReflTransGen.tail (((Move.fill st _ ha hf).chain).trans
          (flags _ _ (.of_frame rfl rfl (le_refl _) (.inl rfl) rfl rfl rfl))) (Move.post p .readConflict)
      unfold State.conflictStream
      dsimp only
      split
      · next hr =>
        exact filled.trans (State.requestSuspend_moves hr rfl rfl (by simp [State.fillStream, State.setFrame, State.post]))
      · exact filled
    · next hc =>
      refine (Move.hold st ha hf ?_).chain
      have h2 : (s.released p).readConflict st.current = s.readConflict st.current := by
        rw [State.released_eq]
        rfl
      simpa [h2] using hc

theorem State.released_of_stream {st : ReadStream} (hf : (s.port p).frame = .readStream st) :
    s.released p = s.releaseHeld st := by
  simp [State.released, hf]

theorem State.released_of_not_stream (hf : ∀ st, (s.port p).frame ≠ .readStream st) : s.released p = s := by
  unfold State.released
  split
  · next st hst => exact absurd hst (hf st)
  · rfl

/-- Another address of the stream's own bank, and more output. -/
theorem PortState.Quiet.of_stream {q r : PortState} {x y : ReadStream} (hp : r.profile = q.profile)
    (hh : r.handles = q.handles) (hc : r.completions = q.completions) (hm : r.mailbox = q.mailbox)
    (hs : r.shift = q.shift) (hx : q.frame = .readStream x) (hy : r.frame = .readStream y) (hheld : y.held = x.held)
    (hstream : q.streamLaw = true → r.streamLaw = true) : q.Quiet r where
  profile := hp
  handles := hh
  records := by rw [hc]
  mailbox := .inl hm
  holds k := by simp only [PortState.holds, hx, hy, hheld]
  stream := hstream
  inert := by simp [hx, hy]
  line h := by
    have h8 := PortState.shift_of_lineLaw h
    simp [PortState.lineLaw, hy, hs, h8]

/-- R11, R12, R13: a re-check point, from a state in which the stream stands anywhere. -/
theorem State.recheckStream_moves (ha : a.acts p) {st nx : ReadStream} (hf : (s.port p).frame = .readStream st)
    (hh : nx.held = st.held) (hfill : nx.fill = none) : Moves a s (s.recheckStream p nx) := by
  have hne : (s.port p).frame ≠ .inert := by simp [hf]
  have hrel := State.released_of_stream hf
  unfold State.recheckStream
  split
  · next k hk =>
    have hk' : s.released p = s.releaseBank k := by simp [hrel, State.releaseHeld, ← hh, hk]
    split
    · next hpass =>
      refine (Move.own ha (.of_stream rfl rfl rfl rfl rfl hf rfl hh fun _ => ?_)).chain
      simp [PortState.streamLaw, hfill, hk, hpass.1]
    · have h := (State.checkStream_moves ha hne { nx with held := none }).tail Move.look
      rwa [hk'] at h
  · next hk =>
    have hk' : s.released p = s := by simp [hrel, State.releaseHeld, ← hh, hk]
    have h := State.checkStream_moves ha hne nx
    rwa [hk'] at h

/-- The bank of an address does not change inside its block. -/
theorem bankOf_add {x : Addr} {d : Nat} (h : d < bytesToBlockEnd x) : bankOf (x + BitVec.ofNat 24 d) = bankOf x := by
  unfold bytesToBlockEnd Config.blockBytes at h
  have hx : x.toNat < 16777216 := x.isLt
  refine Fin.ext ?_
  simp only [bankOf, Config.bankBytes, BitVec.toNat_add, BitVec.toNat_ofNat]
  omega

theorem State.bytesToRecheck_le (s : State) (x : Addr) : s.bytesToRecheck x ≤ bytesToBlockEnd x := by
  unfold State.bytesToRecheck
  split
  · exact Nat.min_le_right ..
  · exact le_refl _

theorem State.clockOut_eq (s : State) (p : Port) (st : ReadStream) (d : Nat) :
    s.clockOut p st d =
      ({ s with freeIndex := s.freeIndex + (if st.fill.isNone then d else 0) } : State).modifyPort p (fun q =>
        { q with frame := .readStream (st.advance d), output := q.output ++ s.streamBytes st d }) := rfl

theorem State.clockOut_moves (ha : a.acts p) {st : ReadStream} {d : Nat} (hf : (s.port p).frame = .readStream st)
    (hd : st.fill.isSome = true ∨ d < s.bytesToRecheck st.current) : Moves a s (s.clockOut p st d) := by
  rw [State.clockOut_eq]
  refine ((Move.unread s.unsettled _).chain).tail (Move.own ha ?_)
  refine .of_stream rfl rfl rfl rfl rfl hf rfl rfl fun h => ?_
  simp only [PortState.streamLaw, ReadStream.advance] at h ⊢
  rw [show (({ s with freeIndex := s.freeIndex + (if st.fill.isNone then d else 0) } : State).port p).frame =
    .readStream st from hf] at h
  cases hfill : st.fill with
  | some b =>
    simp only [hfill] at h ⊢
    exact h
  | none =>
    have hlt : d < s.bytesToRecheck st.current := by simpa [hfill] using hd
    simp only [hfill, bankOf_add (lt_of_lt_of_le hlt (s.bytesToRecheck_le st.current))] at h ⊢
    exact h

theorem State.walkStream_moves (ha : a.acts p) {st : ReadStream} (d : Nat) (hf : (s.port p).frame = .readStream st) :
    Moves a s (s.walkStream p st d) := by
  unfold State.walkStream
  split
  · next b hb => exact State.clockOut_moves ha hf (.inl (by simp [hb]))
  · next hfill =>
    have hout : (s.clockOut p st d).recheckStream p (st.advance d) =
        (({ s with freeIndex := s.freeIndex + (if st.fill.isNone then d else 0) } : State).modifyPort p (fun q =>
          { q with output := q.output ++ s.streamBytes st d })).recheckStream p (st.advance d) := by
      rw [← State.recheckStream_setFrame (({ s with freeIndex := _ } : State).modifyPort p _) p
        (.readStream (st.advance d)), State.clockOut_eq]
      simp [State.setFrame]
    rw [hout]
    refine (((Move.unread s.unsettled _).chain).tail
      (Move.own ha (.of_frame rfl rfl (le_refl _) (.inl rfl) rfl rfl rfl))).trans
      (State.recheckStream_moves ha (st := st) ?_ rfl hfill)
    rw [State.port_modifyPort_self]
    exact hf

/-- The bytes that a host clocks out of a port's stream, with the checks on the way. -/
theorem State.clockBytes_moves (ha : a.acts p) (fuel : Nat) :
    ∀ (n : Nat) (s : State), Moves a s (s.clockBytes p fuel n) := by
  induction fuel with
  | zero => exact fun n s => Moves.refl a s
  | succ fuel ih =>
    intro n s
    unfold State.clockBytes
    split
    · next st hf =>
      split
      · next hd => exact State.clockOut_moves ha hf hd
      · split
        · exact State.walkStream_moves ha n hf
        · exact (State.walkStream_moves ha _ hf).trans (ih _ _)
    · exact Moves.refl a s

theorem State.closeStream_moves (ha : a.acts p) (s : State) : Moves a s (s.closeStream p) := by
  unfold State.closeStream
  split
  · next st hf =>
    have hne : (s.port p).frame ≠ .inert := by simp [hf]
    have h := ((Move.close ha hne).chain).tail Move.look
    rwa [State.released_of_stream hf] at h
  · exact Moves.refl a s

theorem State.endOutput_moves (ha : a.acts p) (s : State) (n : Nat) : Moves a s (s.endOutput p n) := by
  unfold State.endOutput
  split
  · next v hf => exact State.endView_moves ha hf n
  · next st hf =>
    exact (Move.own ha (.of_plain rfl rfl (le_refl _) (.inl rfl) (by simp [hf]) (by simp [hf]) rfl (le_refl _))).chain
  · exact (State.clockBytes_moves ha n n s).trans (State.closeStream_moves ha _)
  · exact Moves.refl a s

theorem riseFrame_moves {n : Nat} (ha : a.acts p) (h : riseFrame p s n = .next t) : Moves a s t := by
  rw [riseFrame_next h]
  exact State.endOutput_moves ha s n

theorem crossBlock_moves (ha : a.acts p) (h : crossBlock p s = .next t) : Moves a s t := by
  unfold crossBlock at h
  split at h <;> cases h
  · exact State.clockBytes_moves ha _ _ s
  · exact Moves.refl a _

theorem execTargetEntry_moves (ha : a.acts p) (h : execTargetEntry p s = .next t) : Moves a s t := by
  unfold execTargetEntry at h
  split at h
  · split at h <;> cases h
    exact State.clockBytes_moves ha _ _ s
  · cases h
    exact Moves.refl a _

theorem openStream_moves {quad : Bool} {x : Addr} (ha : a.acts p) (h : openStream quad p x s = .next t) :
    Moves a s t := by
  refine openFrame_moves h ha fun hf => ?_
  have cleared : ∀ u : State, (u.port p).frame = .deselected → Moves a u (u.checkStream p ⟨x, none, none, quad⟩) := by
    intro u hu
    have hne : (u.port p).frame ≠ .inert := by simp [hu]
    have h2 := State.checkStream_moves ha hne ⟨x, none, none, quad⟩
    rwa [State.released_of_not_stream (by simp [hu])] at h2
  exact ((Move.own ha (.of_frame rfl rfl (le_refl _) (.inl rfl) rfl rfl rfl)).chain).trans
    (cleared _ (by simpa using hf))

/-! ### The rows of output frames -/

theorem execReadStatus_moves {m : FramePart Unit} (ha : a.acts p) (h : execReadStatus p m s = .next t) :
    Moves a s t := by
  cases m with
  | fixed f =>
    simp only [execReadStatus] at h
    split at h <;> cases h
    · exact Moves.refl a _
    · next hf => exact Moves.open ha hf rfl
  | rise n => exact riseFrame_moves ha h

theorem execReadBuffer_moves {m : FramePart (Byte × Byte)} (ha : a.acts p) (h : execReadBuffer p m s = .next t) :
    Moves a s t := by
  cases m with
  | fixed f =>
    simp only [execReadBuffer] at h
    exact openFrame_moves h ha fun hf => Moves.open ha hf rfl
  | rise n => exact riseFrame_moves ha h

theorem execPopCompletion_moves {m : FramePart Unit} (ha : a.acts p) (h : execPopCompletion p m s = .next t) :
    Moves a s t := by
  cases m with
  | fixed f =>
    simp only [execPopCompletion] at h
    exact openFrame_moves h ha fun hf => Moves.open ha hf rfl
  | rise n => exact riseFrame_moves ha h

theorem execReadMailbox_moves {m : FramePart Unit} (ha : a.acts p) (h : execReadMailbox p m s = .next t) :
    Moves a s t := by
  cases m with
  | fixed f =>
    simp only [execReadMailbox] at h
    exact openFrame_moves h ha fun hf => Moves.open ha hf rfl
  | rise n => exact riseFrame_moves ha h

theorem execReadNotices_moves {m : FramePart Unit} (ha : a.acts p) (h : execReadNotices p m s = .next t) :
    Moves a s t := by
  cases m with
  | fixed f =>
    simp only [execReadNotices] at h
    refine openFrame_moves h ha fun hf => ?_
    exact (Move.own ha (.of_plain rfl rfl (le_refl _) (.inl rfl) (by simp [hf]) (by simp [hf]) rfl (le_refl _))).chain
  | rise n => exact riseFrame_moves ha h

theorem execNotReadyAnswer_moves {m : FramePart Unit} (ha : a.acts p) (h : execNotReadyAnswer p m s = .next t) :
    Moves a s t := by
  unfold execNotReadyAnswer at h
  split at h
  · cases h
    exact Moves.refl a _
  · next hf =>
    split at h <;> cases h
    exact Moves.open ha hf rfl
  · split at h <;> cases h
    exact Moves.respond ha _ _
  · cases h
  · exact riseFrame_moves ha h

theorem execInquiryDropped_moves (h : execInquiryDropped p s = .next t) : Moves a s t := by
  unfold execInquiryDropped at h
  split at h <;> cases h <;> exact Moves.refl a _

end Sys2Proof.Machine
end

section
/-! The moves of the taken commands (R138): buffers, submissions, CANCEL, leases, mailboxes, the map commands and PORT
RESET, each as the chain of its moves. -/

namespace Sys2Proof.Machine

variable {a : Actor} {p : Port} {s t : State}

/-! ### Buffers and mailboxes -/

theorem State.loadCase_moves (ha : a.acts p) (handle offset : Byte) (data : List Byte) (s : State) :
    Moves a s (s.loadCase p handle offset data).2 := by
  unfold State.loadCase
  split
  · exact Moves.refl a s
  · next hle =>
    split
    · exact (Move.load _ _ _).chain
    · next hnone =>
      split
      · exact Moves.refl a s
      · next b hfree =>
        split
        · exact Moves.refl a s
        · next hown =>
          exact (Move.allocate _ _ ha (Nat.not_lt.1 hle) hnone hfree (Nat.not_le.1 hown)).chain

theorem loadFrame_moves {handle offset : Byte} {data : List Byte} (ha : a.acts p)
    (h : loadFrame p handle offset data s = .next t) : Moves a s t := by
  refine takeCommand_moves h ha fun _ => ?_
  split
  · exact Moves.refl a s
  · exact State.loadCase_moves ha ..

theorem execDiscardBuffer_moves {handle : Byte} (ha : a.acts p) (h : execDiscardBuffer p handle s = .next t) :
    Moves a s t := by
  refine takeCommand_moves h ha fun _ => ?_
  split
  · exact Moves.refl a s
  · next hle =>
    split
    · exact Moves.refl a s
    · next b hb => exact (Move.discard ha (Nat.not_lt.1 hle) hb).chain

theorem execSetNoticeEnables_moves {enables : Byte} (ha : a.acts p)
    (h : execSetNoticeEnables p enables s = .next t) : Moves a s t := by
  refine takeCommand_moves h ha fun _ => ?_
  exact (Move.own ha (f := fun q => { q with enables := NoticeFlags.ofByte enables })
    (.of_frame rfl rfl (le_refl _) (.inl rfl) rfl rfl rfl)).chain

theorem execSignalPort_moves {target value : Byte} (h : execSignalPort p target value s = .next t) :
    Moves (.signal p) s t := by
  refine takeCommand_moves h rfl fun _ => ?_
  split
  · next d _ =>
    split
    · exact Moves.refl _ s
    · next hd =>
      split
      · exact Moves.refl _ s
      · next hm =>
        exact ((Move.signal value rfl hd (by simpa using hm)).chain).tail (Move.post d .peerSignal)
  · exact Moves.refl _ s

theorem execClearInterrupted_moves (ha : a.acts p) (h : execClearInterrupted p s = .next t) : Moves a s t :=
  takeCommand_moves h ha fun _ => Move.clearInterrupted.chain

/-! ### Submissions and CANCEL -/

/-- A checked command that ends with a look moves as its acceptance does. -/
theorem State.checkedAccept_moves {checks : List (Bool × Response)} {accepted : State}
    (h : firstFailing checks = none → Moves a s accepted) : Moves a s (s.checkedAccept checks accepted).2 := by
  unfold State.checkedAccept
  split
  · exact Moves.refl a s
  · next hok => exact (h hok).tail Move.look

theorem State.checked_moves {checks : List (Bool × Response)} {effect : State}
    (h : firstFailing checks = none → Moves a s effect) : Moves a s (s.checked checks effect).2 := by
  unfold State.checked
  split
  · exact Moves.refl a s
  · next hok => exact h hok

theorem execSubmitProgram_moves {handle tag cls : Byte} {addr : Addr} (ha : a.acts p)
    (h : execSubmitProgram p handle addr tag cls s = .next t) : Moves a s t :=
  takeCommand_moves h ha fun hready => State.checkedAccept_moves fun hok =>
    (Move.program ha (State.portReady_iff.1 hready).2 hok).chain

theorem execSubmitSectorErase_moves {tag cls : Byte} {addr : Addr} (ha : a.acts p)
    (h : execSubmitSectorErase p addr tag cls s = .next t) : Moves a s t :=
  takeCommand_moves h ha fun hready => State.checkedAccept_moves fun hok =>
    (Move.sectorErase (State.portReady_iff.1 hready).2 hok).chain

theorem execSubmitBlockErase_moves {tag cls : Byte} {addr : Addr} (ha : a.acts p)
    (h : execSubmitBlockErase p addr tag cls s = .next t) : Moves a s t :=
  takeCommand_moves h ha fun hready => State.checkedAccept_moves fun hok =>
    (Move.blockErase (State.portReady_iff.1 hready).2 hok).chain

theorem execMapCommit_moves {tag : Byte} (ha : a.acts p) (h : execMapCommit p tag s = .next t) : Moves a s t :=
  takeCommand_moves h ha fun hready => State.checkedAccept_moves fun hok =>
    (Move.commit (State.portReady_iff.1 hready).2 hok).chain

/-- The entry that a port's tag finds is the port's. -/
theorem State.tagIndex_port {tag : Byte} {i : Nat} {e : Entry} (hi : s.tagIndex p tag = some i)
    (he : s.queue[i]? = some e) : e.port = p := by
  obtain ⟨hlt, hmatch, -⟩ := List.findIdx?_eq_some_iff_getElem.1 hi
  obtain ⟨hlt', rfl⟩ := List.getElem?_eq_some_iff.1 he
  simp only [Bool.and_eq_true, decide_eq_true_eq] at hmatch
  exact hmatch.1

theorem execCancel_moves {tag : Byte} (ha : a.acts p) (h : execCancel p tag s = .next t) : Moves a s t := by
  refine takeCommand_moves h ha fun _ => ?_
  split
  · exact Moves.refl a s
  · next i hi =>
    split
    · exact Moves.refl a s
    · next e he =>
      split
      · next hq => exact (Move.cancel ha he hq (State.tagIndex_port hi he)).chain
      · exact Moves.refl a s

/-! ### The lease commands -/

theorem State.claimCase_moves {i : Nat} {r : Region} (hr : s.region i = some r) :
    Moves a s (s.claimCase p i r).2 := by
  unfold State.claimCase
  split
  · exact Moves.refl a s
  · next hm =>
    have hm' : r.definition.writeMask.has p = true := by simpa using hm
    split
    · exact Moves.refl a s
    · split
      · exact Moves.refl a s
      · next hfree =>
        obtain ⟨hh, hw⟩ := not_or.1 hfree
        split
        · next hs => exact ((Move.take hr hm' hs).chain).tail (Move.post p .leaseGranted)
        · next hs => exact (Move.wait hr hm' (.inl hs) hh hw).chain
        · next hs =>
          split
          · next hlt => exact (Move.wait hr hm' (.inr ⟨hs, hlt⟩) hh hw).chain
          · exact Moves.refl a s
        · exact Moves.refl a s

/-- A lease command moves as its decision for the region that it names. -/
theorem State.decideFor_moves {index : Byte} {decision : Region → State → Response × State}
    (h : ∀ r, s.region index.toNat = some r → Moves a s (decision r s).2) :
    Moves a s (s.decideFor index decision).2 := by
  unfold State.decideFor
  split
  · exact Moves.refl a s
  · split
    · exact Moves.refl a s
    · next r hr => exact h r hr

theorem execClaimRegion_moves {index : Byte} (ha : a.acts p) (h : execClaimRegion p index s = .next t) :
    Moves a s t :=
  takeCommand_moves (owner := State.decideFor index (State.claimCase p index.toNat)) h ha
    fun _ => State.decideFor_moves fun _ hr => State.claimCase_moves hr

theorem execRenewLease_moves {index : Byte} (ha : a.acts p) (h : execRenewLease p index s = .next t) :
    Moves a s t := by
  refine takeCommand_moves (owner := State.decideFor index (State.renewCase p index.toNat)) h ha
    fun _ => State.decideFor_moves fun r hr => ?_
  unfold State.renewCase
  split
  · next hh => exact (Move.renew hr hh).chain
  · exact Moves.refl a s

theorem State.releaseCase_moves {i : Nat} {r : Region} (hr : s.region i = some r) :
    Moves a s (s.releaseCase p i r).2 := by
  unfold State.releaseCase
  split
  · exact (Move.leave p i).chain
  · split
    · next hh =>
      split
      · exact Moves.refl a s
      · next hq => exact (Move.endLease hr hh (by simpa using hq)).chain
    · exact Moves.refl a s

theorem execReleaseRegion_moves {index : Byte} (ha : a.acts p) (h : execReleaseRegion p index s = .next t) :
    Moves a s t :=
  takeCommand_moves (owner := State.decideFor index (State.releaseCase p index.toNat)) h ha
    fun _ => State.decideFor_moves fun _ hr => State.releaseCase_moves hr

/-! ### The map commands -/

theorem State.profileLaw_port (h : s.profileLaw = true) (p : Port) : (s.port p).profile.inRange = true := by
  simp only [State.profileLaw, allPorts, Bool.and_eq_true] at h
  obtain ⟨⟨⟨⟨⟨⟨ha, hb⟩, hc⟩, -⟩, -⟩, -⟩, -⟩ := h
  cases p
  · exact ha
  · exact hb
  · exact hc

theorem State.profileLaw_staged (h : s.profileLaw = true) : s.staged.all MapImage.profileLaw = true := by
  simp only [State.profileLaw, Bool.and_eq_true] at h
  obtain ⟨⟨-, hs⟩, -⟩ := h
  exact hs

theorem State.profileLaw_workingImage (h : s.profileLaw = true) : s.workingImage.profileLaw = true := by
  have ha := s.profileLaw_port h .a
  have hb := s.profileLaw_port h .b
  have hc := s.profileLaw_port h .c
  simp only [State.port, PerPort.get] at ha hb hc
  simp [MapImage.profileLaw, State.workingImage, ha, hb, hc]

theorem execMapStageBegin_moves (ha : a.acts p) (h : execMapStageBegin p s = .next t) : Moves a s t :=
  takeCommand_moves h ha fun _ =>
    State.checked_moves fun _ =>
      (Move.stage fun hl => by simpa using s.profileLaw_workingImage hl).chain

theorem execMapDiscard_moves (ha : a.acts p) (h : execMapDiscard p s = .next t) : Moves a s t :=
  takeCommand_moves h ha fun _ => State.checked_moves fun _ => (Move.stage fun _ => rfl).chain

/-- An edit of the staged map that keeps profiles in range. -/
theorem State.editStage_moves {f : MapImage → MapImage}
    (hf : ∀ m : MapImage, m.profileLaw = true → (f m).profileLaw = true) : Moves a s (s.editStage f) := by
  refine (Move.stage fun hl => ?_).chain
  have hs := s.profileLaw_staged hl
  cases hm : s.staged with
  | none => rfl
  | some m =>
    rw [hm] at hs
    exact hf m hs

theorem execMapStageRegion_moves {index defined first last rm wm limit : Byte} (ha : a.acts p)
    (h : execMapStageRegion p index defined first last rm wm limit s = .next t) : Moves a s t :=
  takeCommand_moves h ha fun _ =>
    State.checked_moves fun _ => State.editStage_moves (f := fun m => { m with regions := _ }) fun _ hm => hm

theorem execMapStageAuthority_moves {code : Byte} (ha : a.acts p)
    (h : execMapStageAuthority p code s = .next t) : Moves a s t :=
  takeCommand_moves h ha fun _ =>
    State.checked_moves fun _ =>
      State.editStage_moves (f := fun m => { m with authority := _ }) fun _ hm => hm

theorem MapImage.profileLaw_iff {m : MapImage} : m.profileLaw = true ↔ ∀ p, (m.profiles.get p).inRange = true := by
  simp only [MapImage.profileLaw, Bool.and_eq_true]
  constructor
  · rintro ⟨⟨ha, hb⟩, hc⟩ p
    cases p
    · exact ha
    · exact hb
    · exact hc
  · exact fun h => ⟨⟨h .a, h .b⟩, h .c⟩

theorem MapImage.profileLaw_setProfile {m : MapImage} {f : Profile} (code : Byte) (hm : m.profileLaw = true)
    (hf : f.inRange = true) : (m.setProfile code f).profileLaw = true := by
  unfold MapImage.setProfile
  split
  · next d hd =>
    refine MapImage.profileLaw_iff.2 fun p => ?_
    by_cases h : p = d
    · subst h
      simpa using hf
    · simpa [PerPort.get_set_ne _ _ h] using MapImage.profileLaw_iff.1 hm p
  · exact hm

theorem firstFailing_append_eq_none {cs ds : List (Bool × Response)} (h : firstFailing (cs ++ ds) = none) :
    firstFailing cs = none ∧ firstFailing ds = none := by
  rw [firstFailing_eq_none] at h
  exact ⟨firstFailing_eq_none.2 fun c hc => h c (List.mem_append_left _ hc),
    firstFailing_eq_none.2 fun c hc => h c (List.mem_append_right _ hc)⟩

theorem execMapStageProfile_moves {code ceiling window fill : Byte} (ha : a.acts p)
    (h : execMapStageProfile p code ceiling window fill s = .next t) : Moves a s t := by
  refine takeCommand_moves h ha fun _ => State.checked_moves fun hok => ?_
  have hbad := (firstFailing_append_eq_none hok).2
  have hrange : ¬badProfileFields code ceiling window = true := by
    simpa [firstFailing_eq_none] using hbad
  rw [badProfileFields_iff] at hrange
  refine State.editStage_moves fun m hm => MapImage.profileLaw_setProfile code hm ?_
  simp only [Profile.inRange, Bool.and_eq_true, decide_eq_true_eq]
  omega

/-! ### PORT RESET -/

theorem State.freeEntryBuffer_eq (s : State) (e : Entry) :
    s.freeEntryBuffer e = { s with buffers := (s.freeEntryBuffer e).buffers } := by
  unfold State.freeEntryBuffer
  split <;> rfl

@[simp] theorem State.freeEntryBuffer_queue (s : State) (e : Entry) : (s.freeEntryBuffer e).queue = s.queue := by
  rw [State.freeEntryBuffer_eq]

/-- The lease steps of PORT RESET leave the queue as it is. -/
theorem State.leaveWaiting_foldl_queue (is : List Nat) (s : State) :
    (is.foldl (State.leaveWaiting p) s).queue = s.queue :=
  foldl_keeps (f := State.leaveWaiting p) State.queue (fun _ _ => rfl) is s

theorem OnlyLeases.queue (h : OnlyLeases s t) : t.queue = s.queue := by
  have h' := congrArg State.queue h.rest
  exact h'

theorem State.endLease_queue (s : State) (i : Nat) : (s.endLease i).queue = s.queue := (OnlyLeases.endLease s i).queue

theorem State.endLeaseOf_queue (s : State) (i : Nat) : (s.endLeaseOf p i).queue = s.queue := by
  unfold State.endLeaseOf
  split
  · split
    · exact s.endLease_queue i
    · rfl
  · rfl

/-- A port with no QUEUED work ends each of its leases. -/
theorem State.endLeaseOf_moves {i : Nat} (hq : ∀ e ∈ s.queue, e.queuedIn p i = false) :
    Moves a s (State.endLeaseOf p s i) := by
  unfold State.endLeaseOf
  split
  · next r hr =>
    split
    · next hh => exact (Move.endLease hr hh hq).chain
    · exact Moves.refl a s
  · exact Moves.refl a s

theorem State.endLeaseOf_foldl_moves (is : List Nat) :
    ∀ s : State, (∀ i, ∀ e ∈ s.queue, e.queuedIn p i = false) → Moves a s (is.foldl (State.endLeaseOf p) s) := by
  induction is with
  | nil => exact fun s _ => Moves.refl a s
  | cons i is ih =>
    intro s hq
    exact (State.endLeaseOf_moves (hq i)).trans (ih _ (by simpa only [State.endLeaseOf_queue] using hq))

theorem State.resetLeases_moves (hq : ∀ i, ∀ e ∈ s.queue, e.queuedIn p i = false) : Moves a s (s.resetLeases p) := by
  refine (Moves.foldl (f := State.leaveWaiting p) (fun u i => (Move.leave p i).chain) regionIndices s).trans
    (State.endLeaseOf_foldl_moves regionIndices _ ?_)
  rw [State.leaveWaiting_foldl_queue]
  exact hq

theorem State.dropCommit_queue (s : State) : s.dropCommit.queue = s.queue :=
  (OnlyLeases.unfreezeAll { s with commitImage := none }).queue

/-- R39, R40: what step 1 of PORT RESET leaves in the queue. -/
theorem State.resetQueue_queue (s : State) (p : Port) :
    (s.resetQueue p).queue = (s.queue.filter (fun e => !(decide (e.port = p) && e.isQueued))).map
      (fun e => if e.port = p then { e with orphaned := true } else e) := by
  unfold State.resetQueue
  dsimp only
  split
  · rw [State.dropCommit_queue, foldl_keeps State.queue State.freeEntryBuffer_queue]
  · rw [foldl_keeps State.queue State.freeEntryBuffer_queue]

theorem State.resetQueue_none_queued (s : State) (p : Port) (i : Nat) :
    ∀ e ∈ (s.resetQueue p).queue, e.queuedIn p i = false := by
  rw [State.resetQueue_queue]
  intro e he
  obtain ⟨f, hf, rfl⟩ := List.mem_map.1 he
  have hfq := (List.mem_filter.1 hf).2
  by_cases hp : f.port = p
  · simp only [hp, decide_true, Bool.true_and, Bool.not_eq_true', Entry.isQueued] at hfq
    simp [hp, Entry.queuedIn, Entry.isQueued, hfq]
  · simp [hp, Entry.queuedIn]

theorem State.resetHandles_queue (s : State) (p : Port) : (s.resetHandles p).queue = s.queue := by
  show ((s.port p).handles.foldl State.freeHandleBuffer s).queue = s.queue
  refine foldl_keeps State.queue (fun u h => ?_) _ _
  cases h <;> rfl

theorem State.resetStage_moves (s : State) (p : Port) : Moves a s (s.resetStage p) := by
  unfold State.resetStage
  split
  · exact (Move.stage fun _ => rfl).chain
  · exact Moves.refl a s

theorem State.resetReports_moves (ha : a.acts p) (s : State) : Moves a s (s.resetReports p) :=
  (Move.own ha (.of_frame rfl rfl (Nat.zero_le _) (.inr rfl) rfl rfl rfl)).chain

theorem State.resetSticky_moves (ha : a.acts p) (s : State) : Moves a s (s.resetSticky p) :=
  (Move.own ha (.of_frame rfl rfl (le_refl _) (.inl rfl) rfl rfl rfl)).chain

theorem execPortReset_moves (ha : a.acts p) (h : execPortReset p s = .next t) : Moves a s t := by
  refine takeCommand_moves h ha fun _ => ?_
  have handles : Moves a s ((s.resetQueue p).resetHandles p) :=
    (Move.resetQueue p).chain.tail (Move.resetHandles ha)
  have leases : Moves a s (((s.resetQueue p).resetHandles p).resetLeases p) := by
    refine handles.trans (State.resetLeases_moves ?_)
    rw [State.resetHandles_queue]
    exact s.resetQueue_none_queued p
  exact ((leases.trans (State.resetStage_moves _ p)).trans (State.resetReports_moves ha _)).trans
    (State.resetSticky_moves ha _)

theorem execFrameEndsShort_moves {bits : Nat} (ha : a.acts p) (h : execFrameEndsShort p bits s = .next t) :
    Moves a s t := by
  unfold execFrameEndsShort at h
  split at h
  · split at h <;> cases h <;> exact Moves.refl a _
  · exact takeCommand_moves h ha fun _ => Moves.refl a s

theorem execUnknownOpcode_moves {op : Byte} (ha : a.acts p) (h : execUnknownOpcode p op s = .next t) :
    Moves a s t := by
  unfold execUnknownOpcode at h
  split at h
  · cases h
  · exact takeCommand_moves h ha fun _ => Moves.refl a s

end Sys2Proof.Machine
end

section
/-! The moves of the part's own happenings, of the events on the lines and of every row; and with them of a step. -/

namespace Sys2Proof.Machine

variable {a : Actor} {p : Port} {s t : State}

/-! ### The engine and the read window -/

theorem execOperationEnd_moves {outcome : EndOutcome} (h : execOperationEnd outcome s = .next t) :
    Moves .event s t := by
  unfold execOperationEnd at h
  split at h
  · cases h
  · next hno =>
    have hstop : s.stopping = [] := by
      by_contra hne
      exact hno (.inr (.inr hne))
    split at h
    · next i hi =>
      split at h <;> cases h
      next e he => exact ((Move.endEntry outcome rfl hstop hi he).chain).tail Move.look
    · cases h

theorem execSuspendPoint_moves (h : execSuspendPoint s = .next t) : Moves .event s t := by
  unfold execSuspendPoint at h
  split at h
  · next hs =>
    split at h <;> cases h
    next i hi => exact ((Move.park hs.2 hs.1 hi).chain).tail Move.look
  · cases h

theorem execReadWindowStep_moves (h : execReadWindowStep s = .next t) : Moves .event s t := by
  unfold execReadWindowStep at h
  split at h <;> cases h
  next w hw =>
    unfold State.windowStep
    split
    · exact (Move.windowClose.chain).tail Move.look
    · next h1 => exact (Move.windowStep hw (Nat.not_le.1 h1)).chain

theorem execReadWindowClose_moves (h : execReadWindowClose s = .next t) : Moves .event s t := by
  unfold execReadWindowClose at h
  split at h
  · split at h <;> cases h
    exact (Move.windowClose.chain).tail Move.look
  · cases h

/-! ### The lease clock -/

theorem State.loseEntry_modifyLease (s : State) (e : Entry) (i : Nat) (f : Lease → Lease) :
    (s.modifyLease i f).loseEntry e = (s.loseEntry e).modifyLease i f := by
  unfold State.loseEntry State.freeEntryBuffer
  cases e.buffer <;> rfl

theorem State.foldl_loseEntry_modifyLease (es : List Entry) (i : Nat) (f : Lease → Lease) :
    ∀ s : State, es.foldl State.loseEntry (s.modifyLease i f) = (es.foldl State.loseEntry s).modifyLease i f := by
  induction es with
  | nil => exact fun _ => rfl
  | cons e es ih =>
    intro s
    rw [List.foldl_cons, State.loseEntry_modifyLease, ih]
    rfl

/-- The loss of QUEUED work looks at no lease. -/
theorem State.loseEntries_modifyLease (s : State) (i j : Nat) (f : Lease → Lease) :
    (s.modifyLease i f).loseEntries p j = (s.loseEntries p j).modifyLease i f :=
  State.foldl_loseEntry_modifyLease _ i f { s with queue := s.queue.filter (fun e => !e.queuedIn p j) }

/-- An entry of the Region Table that is UNDEFINED has no lease to change. -/
theorem State.modifyLease_of_none {i : Nat} (f : Lease → Lease) (hr : s.region i = none) : s.modifyLease i f = s := by
  have hmod : s.regions.modify i (Option.map fun r => { r with lease := f r.lease }) = s.regions := by
    refine List.ext_getElem? fun j => ?_
    rw [List.getElem?_modify]
    by_cases hj : i = j
    · subst hj
      unfold State.region at hr
      cases h : s.regions[i]? with
      | none => simp
      | some x =>
        rw [h] at hr
        cases x with
        | none => simp
        | some r => cases hr
    · simp [hj]
  simp only [State.modifyLease, State.modifyRegion, hmod]

/-- What remains of a lease does not matter to its end. -/
theorem State.endLease_remaining (s : State) (i n : Nat) :
    (s.modifyLease i (fun l => { l with remaining := n })).endLease i = s.endLease i := by
  unfold State.endLease
  rw [State.region_modifyLease_self]
  cases hr : s.region i with
  | none => simp [State.modifyLease_of_none _ hr]
  | some r => simp [State.modifyLease_modifyLease]

@[simp] theorem State.loseEntry_queue (s : State) (e : Entry) : (s.loseEntry e).queue = s.queue := by
  simp [State.loseEntry]

@[simp] theorem State.loseEntry_regions (s : State) (e : Entry) : (s.loseEntry e).regions = s.regions := by
  unfold State.loseEntry
  rw [State.freeEntryBuffer_eq]
  rfl

theorem State.loseEntries_queue (s : State) (p : Port) (i : Nat) :
    (s.loseEntries p i).queue = s.queue.filter (fun e => !e.queuedIn p i) :=
  foldl_keeps State.queue State.loseEntry_queue _ _

theorem State.loseEntries_regions (s : State) (p : Port) (i : Nat) : (s.loseEntries p i).regions = s.regions :=
  foldl_keeps State.regions State.loseEntry_regions _ _

theorem State.loseEntries_region (s : State) (p : Port) (i j : Nat) : (s.loseEntries p i).region j = s.region j := by
  simp only [State.region, State.loseEntries_regions]

/-- R93: the expiry of a lease, whatever remained of it. -/
theorem State.expireLease_moves {i n : Nat} {r : Region} (hr : s.region i = some r) (hh : r.lease.holder = some p) :
    Moves .event s ((s.modifyLease i (fun l => { l with remaining := n })).expireLease p i) := by
  have heq : (s.modifyLease i (fun l => { l with remaining := n })).expireLease p i =
      ((s.loseEntries p i).post p .leaseLost).endLease i := by
    unfold State.expireLease
    rw [State.loseEntries_modifyLease]
    exact State.endLease_remaining ((s.loseEntries p i).post p .leaseLost) i n
  rw [heq]
  refine (((Move.lose rfl hr hh).chain).tail (Move.post p .leaseLost)).tail (Move.endLease (r := r) ?_ hh ?_)
  · rw [State.post_region, State.loseEntries_region, hr]
  · intro e he
    rw [State.post_queue, State.loseEntries_queue] at he
    simpa using (List.mem_filter.1 he).2

theorem State.countdown_moves (s : State) (i : Nat) : Moves .event s (s.countdown i) := by
  unfold State.countdown
  split
  · next r hr =>
    split
    · next hs hh =>
      split
      · unfold State.countdownHeld
        by_cases h0 : r.lease.remaining - 1 = 0
        · have hwarn : ¬(r.lease.remaining - 1 = warningPoint r.definition.limit.toNat ∧ 1 ≤ r.lease.remaining - 1) := by
            omega
          dsimp only
          rw [if_neg hwarn, if_pos h0]
          exact State.expireLease_moves hr hh
        · have ticked : Moves .event s (s.modifyLease i (fun l => { l with remaining := r.lease.remaining - 1 })) :=
            (Move.tick hr hs (by omega)).chain
          dsimp only
          rw [if_neg h0]
          split
          · exact ticked.tail (Move.post _ .leaseWarning)
          · exact ticked
      · exact Moves.refl _ s
    · exact Moves.refl _ s
  · exact Moves.refl _ s

theorem execLeaseTick_moves (h : execLeaseTick s = .next t) : Moves .event s t := by
  unfold execLeaseTick at h
  split at h
  · rw [← Host.Outcome.next.inj h]
    exact Moves.foldl State.countdown_moves regionIndices s
  · cases h

theorem execLeaseExpiry_moves {i : Fin 16} (h : execLeaseExpiry i s = .next t) : Moves .event s t := by
  unfold execLeaseExpiry at h
  split at h
  · cases h
  · split at h <;> cases h
    exact State.countdown_moves s i.val

/-! ### Supply, RESET# and start-up -/

theorem State.postAll_moves (s : State) (k : NoticeKind) : Moves a s (s.postAll k) :=
  (((Move.post .a k).chain).tail (Move.post .b k)).tail (Move.post .c k)

theorem execSupplyMarginal_moves {mv : Nat} (h : execSupplyMarginal mv s = .next t) : Moves .event s t := by
  unfold execSupplyMarginal at h
  split at h
  · next hs =>
    cases h
    have moved : Moves .event s { s with supply := .marginal } := (Move.supply (by simp [hs.1]) (by simp)).chain
    unfold State.postSupplyChange
    split
    · exact moved.trans (State.postAll_moves _ _)
    · exact moved
  · cases h

theorem execSupplyNormal_moves {mv : Nat} (h : execSupplyNormal mv s = .next t) : Moves .event s t := by
  unfold execSupplyNormal at h
  split at h
  · next hs =>
    have moved : Moves .event s { s with supply := .normal } := (Move.supply (by simp [hs.1]) (by simp)).chain
    split at h <;> cases h
    · exact (moved.trans (State.postAll_moves _ _)).tail Move.look
    · exact moved
  · cases h

/-- Only what is unsettled tells a state from the one in which the Engine has cut off its work. -/
theorem State.cutOffTarget_eq (s : State) (e : Option Entry) :
    s.cutOffTarget e = { s with unsettled := (s.cutOffTarget e).unsettled } := by
  unfold State.cutOffTarget
  split <;> rfl

theorem State.cutOff_eq (s : State) : s.cutOff = { s with unsettled := s.cutOff.unsettled } := by
  unfold State.cutOff
  rw [State.cutOffTarget_eq, State.cutOffTarget_eq]

theorem State.cutOff_moves (s : State) : Moves a s s.cutOff := by
  rw [State.cutOff_eq]
  exact (Move.unread _ s.freeIndex).chain

theorem execSupplyFailed_moves {mv : Nat} (h : execSupplyFailed mv s = .next t) : Moves .event s t := by
  unfold execSupplyFailed at h
  split at h <;> cases h
  exact s.cutOff_moves.tail (Move.power rfl (.inl ⟨rfl, rfl⟩))

theorem execPowerOnDetection_moves {mv : Nat} (h : execPowerOnDetection mv s = .next t) : Moves .event s t := by
  unfold execPowerOnDetection at h
  split at h <;> cases h
  exact (Move.power rfl (.inr ⟨by simp, rfl⟩)).chain

theorem execResetFall_moves (h : execResetFall s = .next t) : Moves .event s t := by
  obtain ⟨hlow, ⟨hs, rfl⟩ | ⟨hs, hstop, rfl⟩ | ⟨hs, hstop, rfl⟩⟩ := execResetFall_next h
  · exact (Move.fallUnpowered hs).chain
  · exact (Move.fall rfl hlow hs (.inl ⟨hstop, rfl⟩)).chain
  · refine s.cutOff_moves.tail ?_
    have hitems : s.cutOffItems = s.cutOff.cutOffItems := by
      rw [State.cutOff_eq]
      rfl
    rw [hitems]
    rw [State.cutOff_eq]
    exact Move.fall rfl hlow hs (.inr ⟨hstop, rfl⟩)

theorem execResetRise_moves (h : execResetRise s = .next t) : Moves .event s t := by
  unfold execResetRise at h
  split at h
  · next hlow =>
    split at h <;> cases h
    · next hs => exact (Move.riseUnpowered hs).chain
    · next hs => exact (Move.rise rfl hlow hs).chain
  · cases h

/-- The steps of start-up in order. -/
def startUpOrder : List StartUpStep := [.slotChoice, .mapLoad, .enables, .assessment, .ready]

theorem State.stepsThrough_eq (s : State) (through : StartUpStep) :
    s.stepsThrough through = startUpOrder.filter (fun k =>
      decide (s.startUpSteps ≤ startUpPlace k) && decide (startUpPlace k ≤ startUpPlace through)) := rfl

/-- What start-up needs of the part before each of its steps (R177, R181). -/
structure State.StartUpDue (s : State) : Prop where
  device : s.device = .starting
  low : s.resetLow = false
  supply : s.supply ≠ .failed
  stopped : s.stopping = []

/-- A step of start-up before the last leaves the next one due. -/
theorem State.StartUpDue.step (h : s.StartUpDue) {k : StartUpStep} (mv : Nat) (hk : k ≠ .ready) :
    (s.startUpStep mv k).StartUpDue ∧ (s.startUpStep mv k).startUpSteps = startUpPlace k + 1 := by
  obtain ⟨hd, hl, hs, hst⟩ := h
  cases k
  · exact ⟨⟨hd, hl, hs, hst⟩, rfl⟩
  · exact ⟨⟨hd, hl, hs, hst⟩, rfl⟩
  · exact ⟨⟨hd, hl, hs, hst⟩, rfl⟩
  · refine ⟨⟨hd, hl, ?_, hst⟩, rfl⟩
    simp only [State.startUpStep, assessSupply]
    split <;> simp
  · exact absurd rfl hk

theorem State.StartUpDue.moves (h : s.StartUpDue) {k : StartUpStep} (mv : Nat) (hk : s.startUpSteps = startUpPlace k) :
    Moves .event s (s.startUpStep mv k) :=
  (Move.startUp mv rfl h.device h.low h.supply h.stopped hk).chain

/-- The steps of start-up from the one that is due, as many as are asked for. -/
theorem State.StartUpDue.foldl_moves (mv n : Nat) :
    ∀ (k : Nat) (s : State), s.StartUpDue → s.startUpSteps = k →
      Moves .event s (((startUpOrder.drop k).take n).foldl (State.startUpStep mv) s) := by
  induction n with
  | zero => exact fun k s _ _ => Moves.refl _ s
  | succ n ih =>
    intro k s h hk
    have next : ∀ (x : StartUpStep) (l : List StartUpStep), x ≠ .ready → startUpPlace x = k →
        startUpOrder.drop (k + 1) = l →
        Moves .event s (((x :: l).take (n + 1)).foldl (State.startUpStep mv) s) := by
      intro x l hx hplace hl
      have hstep := h.step mv hx
      rw [List.take_succ_cons, List.foldl_cons, ← hl]
      exact (h.moves mv (hk.trans hplace.symm)).trans (ih (k + 1) _ hstep.1 (hstep.2.trans (by rw [hplace])))
    match k with
    | 0 => exact next .slotChoice _ (by simp) rfl rfl
    | 1 => exact next .mapLoad _ (by simp) rfl rfl
    | 2 => exact next .enables _ (by simp) rfl rfl
    | 3 => exact next .assessment _ (by simp) rfl rfl
    | 4 =>
      have hlast : (startUpOrder.drop 4).take (n + 1) = [.ready] := by simp [startUpOrder]
      rw [hlast]
      exact h.moves (k := .ready) mv hk
    | k + 5 =>
      have hnone : startUpOrder.drop (k + 5) = [] := by simp [startUpOrder]
      rw [hnone]
      exact Moves.refl _ s

/-- The steps that a run of start-up makes stand together in the order of steps. -/
theorem State.stepsThrough_eq_drop_take (s : State) (through : StartUpStep) :
    s.stepsThrough through =
      (startUpOrder.drop s.startUpSteps).take (startUpPlace through + 1 - s.startUpSteps) := by
  rw [State.stepsThrough_eq]
  generalize s.startUpSteps = n
  match n with
  | 0 => cases through <;> decide
  | 1 => cases through <;> decide
  | 2 => cases through <;> decide
  | 3 => cases through <;> decide
  | 4 => cases through <;> decide
  | n + 5 => simp [startUpOrder, startUpPlace]

theorem execStartUp_moves {run : StartUpRun} (h : execStartUp run s = .next t) : Moves .event s t := by
  obtain ⟨hd, hl, hs, rfl⟩ := execStartUp_next h
  refine (Move.arrayStops.chain).trans ?_
  rw [State.stepsThrough_eq_drop_take, ← State.arrayStops_startUpSteps]
  exact State.StartUpDue.foldl_moves run.mv _ _ s.arrayStops
    ⟨by simpa using hd, by simpa using hl, by simpa using hs, by simp⟩ rfl

/-! ### Every row -/

/-- Who makes the moves of a row. -/
def rowActor : Instr → Actor
  | .signalPort p _ _ => .signal p
  | c => match c.framePort with
    | some p => .port p
    | none => .event

/-- A row is the chain of the moves that its meaning makes. -/
theorem exec_moves {c : Instr} (h : exec c s = .next t) : Moves (rowActor c) s t := by
  cases c with
  | readArray p x => exact openStream_moves rfl h
  | quadReadArray p x => exact openStream_moves rfl h
  | blockCrossing p => exact crossBlock_moves (p := p) rfl h
  | targetEntry p => exact execTargetEntry_moves (p := p) rfl h
  | blockCrossingNewBank p => exact crossBlock_moves (p := p) rfl h
  | readStreamClose p n => exact riseFrame_moves (p := p) rfl h
  | loadBuffer p handle offset data => exact loadFrame_moves (p := p) rfl h
  | loadBufferQuad p handle offset data => exact loadFrame_moves (p := p) rfl h
  | discardBuffer p handle => exact execDiscardBuffer_moves (p := p) rfl h
  | readBuffer p m => exact execReadBuffer_moves (p := p) rfl h
  | readStatus p m => exact execReadStatus_moves (p := p) rfl h
  | readIdentity p m =>
    cases m <;> simp only [exec, execReadIdentity] at h
    · exact openInquiry_moves (p := p) rfl h
    · exact riseFrame_moves (p := p) rfl h
  | mapStageBegin p => exact execMapStageBegin_moves (p := p) rfl h
  | mapStageRegion p index defined first last rm wm limit => exact execMapStageRegion_moves (p := p) rfl h
  | mapStageProfile p code ceiling window fill => exact execMapStageProfile_moves (p := p) rfl h
  | mapStageAuthority p code => exact execMapStageAuthority_moves (p := p) rfl h
  | mapCommit p tag => exact execMapCommit_moves (p := p) rfl h
  | mapDiscard p => exact execMapDiscard_moves (p := p) rfl h
  | readMap p m =>
    cases m <;> simp only [exec, execReadMap] at h
    · exact openInquiry_moves (p := p) rfl h
    · exact riseFrame_moves (p := p) rfl h
  | submitProgram p handle x tag cls => exact execSubmitProgram_moves (p := p) rfl h
  | submitSectorErase p x tag cls => exact execSubmitSectorErase_moves (p := p) rfl h
  | submitBlockErase p x tag cls => exact execSubmitBlockErase_moves (p := p) rfl h
  | cancel p tag => exact execCancel_moves (p := p) rfl h
  | readQueue p m =>
    cases m <;> simp only [exec, execReadQueue] at h
    · exact openInquiry_moves (p := p) rfl h
    · exact riseFrame_moves (p := p) rfl h
  | claimRegion p index => exact execClaimRegion_moves (p := p) rfl h
  | renewLease p index => exact execRenewLease_moves (p := p) rfl h
  | releaseRegion p index => exact execReleaseRegion_moves (p := p) rfl h
  | readRegions p m =>
    cases m <;> simp only [exec, execReadRegions] at h
    · exact openInquiry_moves (p := p) rfl h
    · exact riseFrame_moves (p := p) rfl h
  | popCompletion p m => exact execPopCompletion_moves (p := p) rfl h
  | readNotices p m => exact execReadNotices_moves (p := p) rfl h
  | setNoticeEnables p enables => exact execSetNoticeEnables_moves (p := p) rfl h
  | signalPort p target value => exact execSignalPort_moves h
  | readMailbox p m => exact execReadMailbox_moves (p := p) rfl h
  | readInterrupted p m =>
    cases m <;> simp only [exec, execReadInterrupted] at h
    · exact openInquiry_moves (p := p) rfl h
    · exact riseFrame_moves (p := p) rfl h
  | clearInterrupted p => exact execClearInterrupted_moves (p := p) rfl h
  | portReset p => exact execPortReset_moves (p := p) rfl h
  | frameEndsShort p bits => exact execFrameEndsShort_moves (p := p) rfl h
  | unknownOpcode p op => exact execUnknownOpcode_moves (p := p) rfl h
  | inquiryDropped p => exact execInquiryDropped_moves (p := p) h
  | notReadyAnswer p m => exact execNotReadyAnswer_moves (p := p) rfl h
  | operationEnd outcome => exact execOperationEnd_moves h
  | suspendPoint => exact execSuspendPoint_moves h
  | readWindowStep => exact execReadWindowStep_moves h
  | readWindowClose => exact execReadWindowClose_moves h
  | leaseTick => exact execLeaseTick_moves h
  | leaseExpiry i => exact execLeaseExpiry_moves h
  | supplyMarginal mv => exact execSupplyMarginal_moves h
  | supplyNormal mv => exact execSupplyNormal_moves h
  | supplyFailed mv => exact execSupplyFailed_moves h
  | powerOnDetection mv => exact execPowerOnDetection_moves h
  | resetFall => exact execResetFall_moves h
  | resetRise => exact execResetRise_moves h
  | startUp run => exact execStartUp_moves h

theorem decodeArrayRead_framePort {row : Addr → Instr} (hrow : ∀ x, (row x).framePort = some p) (bytes : List Byte) :
    ∀ c ∈ decodeArrayRead row p bytes, c.framePort = some p := by
  unfold decodeArrayRead
  split
  · exact List.forall_mem_cons.2 ⟨hrow _, by simp [Instr.framePort]⟩
  · simp [Instr.framePort]

theorem forall_mem_ite {α : Type} {P : α → Prop} {c : Prop} [Decidable c] {l m : List α} (hl : ∀ x ∈ l, P x)
    (hm : ∀ x ∈ m, P x) : ∀ x ∈ if c then l else m, P x := by
  split
  · exact hl
  · exact hm

theorem decodeCommand_framePort {short : List Instr} (hshort : ∀ c ∈ short, c.framePort = some p) (op : Byte)
    (rest : List Byte) : ∀ c ∈ decodeCommand p op rest short, c.framePort = some p := by
  unfold decodeCommand
  refine forall_mem_ite (decodeArrayRead_framePort (fun _ => rfl) rest) ?_
  refine forall_mem_ite (decodeArrayRead_framePort (fun _ => rfl) rest) ?_
  repeat' refine forall_mem_ite ?_ ?_
  all_goals try split
  all_goals first
    | exact hshort
    | simp [twoMoments, Instr.framePort]

/-- The rows that a frame of a port decodes to are rows of the port's frames. -/
theorem decodeFrame_framePort (f : Frame) : ∀ c ∈ decodeFrame p f, c.framePort = some p := by
  unfold decodeFrame
  split
  · split <;> simp [Instr.framePort]
  · exact decodeCommand_framePort (by simp [Instr.framePort]) _ _

theorem rowActor_acts {c : Instr} (h : c.framePort = some p) : (rowActor c).acts p := by
  unfold rowActor
  split
  · cases h
    rfl
  · rw [h]
    rfl

/-! ### Events on the lines -/

/-- The moves of an event on the lines of a port are those of a frame of the port. -/
def LineMoves (p : Port) (s t : State) : Prop := ∃ a : Actor, a.acts p ∧ Moves a s t

theorem LineMoves.refl (p : Port) (s : State) : LineMoves p s s := ⟨.port p, rfl, Moves.refl _ s⟩

theorem LineMoves.own {f : PortState → PortState} (h : (s.port p).Quiet (f (s.port p))) :
    LineMoves p s (s.modifyPort p f) := ⟨.port p, rfl, (Move.own (a := .port p) rfl h).chain⟩

/-- The row of a frame that acts, from a state that is a quiet change of the port away. -/
theorem runFirst_moves {f : Frame} {g : PortState → PortState} (hg : (s.port p).Quiet (g (s.port p)))
    (h : runFirst (decodeFrame p f) (s.modifyPort p g) = .next t) : LineMoves p s t := by
  cases hrows : decodeFrame p f with
  | nil =>
    rw [hrows] at h
    cases h
    exact LineMoves.own hg
  | cons c rows =>
    rw [hrows] at h
    have hact := rowActor_acts (decodeFrame_framePort f c (hrows ▸ List.mem_cons_self))
    exact ⟨rowActor c, hact, ((Move.own hact hg).chain).trans (exec_moves h)⟩

/-- Frame states that are neither a stream nor INERT. -/
def FrameState.still (f : FrameState) : Prop := (∀ st, f ≠ .readStream st) ∧ f ≠ .inert

theorem FrameState.still_of_afterByte {bytes : List Byte} {f : FrameState} (h : afterByte bytes = some f) :
    f.still := by
  rcases afterByte_eq_some h with rfl | rfl | rfl <;> exact ⟨by simp, by simp⟩

/-- A change of the lines between such frame states. -/
theorem PortState.Quiet.of_still {q r : PortState} (hp : r.profile = q.profile) (hh : r.handles = q.handles)
    (hc : r.completions = q.completions) (hm : r.mailbox = q.mailbox) (hq : q.frame.still) (hr : r.frame.still)
    (hl : q.lineLaw = true → r.lineLaw = true) : q.Quiet r where
  profile := hp
  handles := hh
  records := by rw [hc]
  mailbox := .inl hm
  holds k := by rw [PortState.holds_of_not_stream hq.1, PortState.holds_of_not_stream hr.1]
  stream _ := PortState.streamLaw_of_not_stream hr.1
  inert := iff_of_false hr.2 hq.2
  line := hl

/-- A change of chip-select and of the bits of the byte in progress alone. -/
theorem PortState.Quiet.of_bits {q r : PortState} (hp : r.profile = q.profile) (hh : r.handles = q.handles)
    (hc : r.completions = q.completions) (hm : r.mailbox = q.mailbox) (hf : r.frame = q.frame)
    (hl : q.lineLaw = true → r.lineLaw = true) : q.Quiet r where
  profile := hp
  handles := hh
  records := by rw [hc]
  mailbox := .inl hm
  holds k := by simp only [PortState.holds, hf]
  stream h := by simpa only [PortState.streamLaw, hf] using h
  inert := by rw [hf]
  line := hl

/-- With chip-select low and no bit in progress, what was received stays what the frame state says. -/
theorem PortState.lineLaw_low {q : PortState} (h : q.lineLaw = true) :
    PortState.lineLaw { q with csLow := true, shift := [] } = true := by
  unfold PortState.lineLaw at h ⊢
  cases hf : q.frame <;> simp_all

theorem pinFall_moves (p : Port) (s : State) : LineMoves p s (pinFall p s) := by
  unfold pinFall
  split
  · exact LineMoves.refl p s
  · split
    · next hf =>
      have hstill : (s.port p).frame.still := by
        rw [hf]
        exact ⟨by simp, by simp⟩
      refine LineMoves.own (f := fun q => { q with csLow := true, shift := [], frame := .receiving [] })
        (.of_still rfl rfl rfl rfl hstill ⟨by simp, by simp⟩ fun _ => ?_)
      simp [PortState.lineLaw, afterByte, quadIn]
    · exact LineMoves.own (.of_bits rfl rfl rfl rfl rfl PortState.lineLaw_low)

/-- The bits that a clock brings keep the byte in progress whole or, in a quad phase, in halves. -/
theorem sampled_length_mod {quad : Bool} {bits : List Bool} (io : IoLines Bool)
    (h : (!quad || decide (bits.length % 4 = 0)) = true) :
    (!quad || decide ((bits ++ sampled quad io).length % 4 = 0)) = true := by
  cases quad
  · rfl
  · simp only [Bool.not_true, Bool.false_or, decide_eq_true_eq] at h
    simp only [Bool.not_true, Bool.false_or, decide_eq_true_eq, sampled, if_true, List.length_append, List.length_cons,
      List.length_nil]
    omega

/-- A frame whose data come in stays so with each byte. -/
theorem afterByte_dataIn {bytes : List Byte} (b : Byte) (h : afterByte bytes = some (.dataIn bytes)) :
    afterByte (bytes ++ [b]) = some (.dataIn (bytes ++ [b])) := by
  unfold afterByte at h ⊢
  cases bytes with
  | nil => cases h
  | cons op fields =>
    simp only [List.cons_append] at h ⊢
    cases hshape : frameShape op with
    | none => simp [hshape] at h
    | some x =>
      obtain ⟨n, after⟩ := x
      simp only [hshape] at h ⊢
      split at h
      · cases h
      · next hn =>
        have hn' : ¬(fields ++ [b]).length < n := by
          rw [List.length_append]
          omega
        cases after <;> simp_all

theorem State.handOn_moves {bytes : List Byte} {k : Nat} {g : PortState → PortState}
    (hg : (s.port p).Quiet { g (s.port p) with frame := .deselected, shift := [] })
    (h : (s.modifyPort p g).handOn p bytes k = .next t) : LineMoves p s t := by
  unfold State.handOn at h
  rw [State.modifyPort_modifyPort] at h
  exact runFirst_moves (g := fun q => { g q with frame := .deselected, shift := [] }) hg h

theorem PortState.lineLaw_deselected {q : PortState} (hf : q.frame = .deselected) (hs : q.shift = []) :
    q.lineLaw = true := PortState.lineLaw_of_plain (by rw [hf]; rfl) (by simp [hs])

theorem State.receiveByte_moves {bytes : List Byte} (hc : (s.port p).csLow = true) (hf : (s.port p).frame.still)
    (h : s.receiveByte p bytes = .next t) : LineMoves p s t := by
  unfold State.receiveByte at h
  split at h
  · next f hafter =>
    cases h
    refine LineMoves.own (.of_still rfl rfl rfl rfl hf (FrameState.still_of_afterByte hafter) fun _ => ?_)
    rcases afterByte_eq_some hafter with rfl | rfl | rfl <;> simp [PortState.lineLaw, hc, hafter]
  · exact State.handOn_moves
      (.of_still rfl rfl rfl rfl hf ⟨by simp, by simp⟩ fun _ => PortState.lineLaw_deselected rfl rfl) h

/-- A port that is delivering is in a view, a READ BUFFER stream or a read stream. -/
theorem State.byteOut_frame {b : Byte} (h : s.byteOut p = some b) :
    (∃ v, (s.port p).frame = .dataOut v) ∨ (∃ st, (s.port p).frame = .bufferStream st) ∨
      ∃ st, (s.port p).frame = .readStream st := by
  unfold State.byteOut at h
  split at h
  · next v hv => exact .inl ⟨v, hv⟩
  · next st hst => exact .inr (.inl ⟨st, hst⟩)
  · next st hst => exact .inr (.inr ⟨st, hst⟩)
  · cases h

/-- While a port delivers, its lines law speaks of the byte in progress alone. -/
theorem PortState.lineLaw_delivering {q : PortState}
    (h : (∃ v, q.frame = .dataOut v) ∨ (∃ st, q.frame = .bufferStream st) ∨ ∃ st, q.frame = .readStream st)
    (hs : q.shift.length < 8) : q.lineLaw = true := by
  rcases h with ⟨v, hv⟩ | ⟨st, hst⟩ | ⟨st, hst⟩ <;> simp [PortState.lineLaw, *]

theorem State.deliverByte_moves {b : Byte} (h : s.byteOut p = some b) : LineMoves p s (s.deliverByte p b) := by
  have hframe := State.byteOut_frame h
  unfold State.deliverByte
  split
  · refine ⟨.port p, rfl, ((Move.own (a := .port p) rfl ?_).chain).trans (State.clockBytes_moves (a := .port p) rfl _ _ _)⟩
    exact .of_bits rfl rfl rfl rfl rfl fun _ => PortState.lineLaw_delivering hframe (by simp)
  · exact LineMoves.own (.of_bits rfl rfl rfl rfl rfl fun _ => PortState.lineLaw_delivering hframe (by simp))

theorem pinClock_moves {io : IoLines Bool} (h : pinClock p io s = .next t) : LineMoves p s t := by
  unfold pinClock at h
  split at h
  · next hc =>
    split at h
    · next bytes hf =>
      have hstill : (s.port p).frame.still := by
        rw [hf]
        exact ⟨by simp, by simp⟩
      dsimp only at h
      split at h
      · next hlt =>
        cases h
        refine LineMoves.own (.of_bits rfl rfl rfl rfl rfl fun hl => ?_)
        simp only [PortState.lineLaw, hf, Bool.and_eq_true, decide_eq_true_eq] at hl ⊢
        exact ⟨hlt, hl.2.1, sampled_length_mod io hl.2.2⟩
      · exact State.receiveByte_moves hc hstill h
    · next bytes hf =>
      have hstill : (s.port p).frame.still := by
        rw [hf]
        exact ⟨by simp, by simp⟩
      dsimp only at h
      split at h
      · next hlt =>
        cases h
        refine LineMoves.own (.of_bits rfl rfl rfl rfl rfl fun hl => ?_)
        simp only [PortState.lineLaw, hf, Bool.and_eq_true, decide_eq_true_eq] at hl ⊢
        exact ⟨hlt, hl.2.1, sampled_length_mod io hl.2.2⟩
      · cases h
        refine LineMoves.own (.of_still rfl rfl rfl rfl hstill ⟨by simp, by simp⟩ fun hl => ?_)
        simp only [PortState.lineLaw, hf, Bool.and_eq_true, decide_eq_true_eq] at hl
        simp [PortState.lineLaw, hc, afterByte_dataIn _ hl.2.1.2]
    · split at h
      · cases h
        exact LineMoves.refl p _
      · next b hb =>
        dsimp only at h
        split at h
        · next hlt =>
          cases h
          exact LineMoves.own (.of_bits rfl rfl rfl rfl rfl fun _ =>
            PortState.lineLaw_delivering (State.byteOut_frame hb) hlt)
        · cases h
          exact State.deliverByte_moves hb
  · cases h
    exact LineMoves.refl p _

theorem pinRise_moves (h : pinRise p s = .next t) : LineMoves p s t := by
  have hand : ∀ {bytes : List Byte} {k : Nat}, (s.port p).frame.still →
      (s.modifyPort p (fun q => { q with csLow := false, shift := [] })).handOn p bytes k = .next t →
      LineMoves p s t := fun hstill h =>
    State.handOn_moves (g := fun q => { q with csLow := false, shift := [] })
      (.of_still rfl rfl rfl rfl hstill ⟨by simp, by simp⟩ fun _ => PortState.lineLaw_deselected rfl rfl) h
  have ended : ∀ n : Nat, (∀ bs, (s.port p).frame ≠ .receiving bs) → (∀ bs, (s.port p).frame ≠ .trailing bs) →
      (∀ bs, (s.port p).frame ≠ .dataIn bs) →
      LineMoves p s ((s.modifyPort p (fun q => { q with csLow := false, shift := [] })).endOutput p n) := by
    intro n h1 h2 h3
    refine ⟨.port p, rfl, ((Move.own (a := .port p) rfl ?_).chain).trans (State.endOutput_moves (a := .port p) rfl _ n)⟩
    refine .of_bits rfl rfl rfl rfl rfl fun _ => ?_
    cases hf : (s.port p).frame <;> simp_all [PortState.lineLaw]
  unfold pinRise at h
  split at h
  · dsimp only at h
    split at h
    · next hf => exact hand ⟨by simp [hf], by simp [hf]⟩ h
    · next hf => exact hand ⟨by simp [hf], by simp [hf]⟩ h
    · next hf => exact hand ⟨by simp [hf], by simp [hf]⟩ h
    · next hf =>
      cases h
      exact ended 0 (by simp [hf]) (by simp [hf]) (by simp [hf])
    · next h1 h2 h3 _ =>
      cases h
      exact ended _ h1 h2 h3
  · cases h
    exact LineMoves.refl p _

theorem pinEvent_moves {e : PinEvent} (h : pinEvent p e s = .next t) : LineMoves p s t := by
  cases e with
  | fall =>
    cases h
    exact pinFall_moves p s
  | clock io => exact pinClock_moves h
  | rise => exact pinRise_moves h

/-! ### A step -/

/-- A step of the part takes what it works on, or nothing, and is a chain of moves. -/
theorem step_moves (h : step s = .next t) :
    ∃ a l is, Moves a { s with pending := l, inputs := is } t := by
  unfold step at h
  split at h
  · split at h
    · cases h
      exact ⟨.event, s.pending, s.inputs, Move.arrayStops.chain⟩
    · next i rest _ =>
      cases i with
      | pin p e =>
        obtain ⟨a, -, hm⟩ := pinEvent_moves h
        exact ⟨a, s.pending, rest, hm⟩
      | command c => exact ⟨_, s.pending, rest, exec_moves h⟩
      | arrayStops =>
        cases h
        exact ⟨.event, s.pending, rest, Move.arrayStops.chain⟩
  · next c rest _ => exact ⟨_, rest, s.inputs, exec_moves h⟩

/-- What every move keeps, every step keeps. -/
theorem step_keeps {P : State → Prop} (hP : ∀ a s t, Move a s t → P s → P t) (h : step s = .next t) (hs : P s) :
    P t := by
  obtain ⟨a, l, is, hm⟩ := step_moves h
  exact hm.keep (hP a) (hP .intake _ _ (Move.taken l is rfl) hs)

end Sys2Proof.Machine
end

section
/-! What the composite moves leave unchanged, and what they make of the queue: the facts that the laws below share. -/

namespace Sys2Proof.Machine

variable {a : Actor} {p : Port} {s t : State}

/-! ### Lease operations leave a port's own tables -/

theorem OnlyLeases.port_eq (h : OnlyLeases s t) (q : Port) :
    t.port q = { s.port q with
      latched := (t.port q).latched
      postedSinceView := (t.port q).postedSinceView } := by
  have h1 := h.ports q
  calc t.port q = { ({ t.port q with
          latched := (s.port q).latched
          postedSinceView := (s.port q).postedSinceView } : PortState) with
        latched := (t.port q).latched
        postedSinceView := (t.port q).postedSinceView } := rfl
    _ = _ := by rw [h1]

/-- Nothing but the Region Table and the ports tells the two states apart. -/
theorem OnlyLeases.eq (h : OnlyLeases s t) : t = { s with regions := t.regions, ports := t.ports } := by
  have h1 := h.rest
  calc t = { ({ t with regions := s.regions, ports := s.ports } : State) with
        regions := t.regions, ports := t.ports } := rfl
    _ = _ := by rw [h1]

/-! ### Where an entry stands -/

theorem split_at {α : Type} {l : List α} {i : Nat} {x : α} (h : l[i]? = some x) :
    l = l.take i ++ x :: l.drop (i + 1) := by
  obtain ⟨hlt, rfl⟩ := List.getElem?_eq_some_iff.1 h
  rw [List.getElem_cons_drop, List.take_append_drop]

theorem startQueue_eq {q : List Entry} {i : Nat} {e : Entry} :
    startQueue q i e = (q.take i).map (Entry.age e.effectiveClass) ++ { e with state := .running } :: q.drop (i + 1) :=
  rfl

/-- A function that neither aging nor the start of an entry changes takes the same values along the queue. -/
theorem startQueue_map {β : Type} {q : List Entry} {i : Nat} {e : Entry} (g : Entry → β) (hi : q[i]? = some e)
    (hage : ∀ c x, g (Entry.age c x) = g x) (hrun : g { e with state := .running } = g e) :
    (startQueue q i e).map g = q.map g := by
  conv_rhs => rw [split_at hi]
  simp only [startQueue, List.map_append, List.map_map, List.map_cons, hrun]
  congr 1
  exact List.map_congr_left fun x _ => hage _ x

theorem modify_map {α β : Type} {l : List α} {i : Nat} {f : α → α} (g : α → β) (h : ∀ x, g (f x) = g x) :
    (l.modify i f).map g = l.map g := by
  refine List.ext_getElem? fun j => ?_
  rw [List.getElem?_map, List.getElem?_map, List.getElem?_modify]
  by_cases hj : i = j
  · cases hl : l[j]? <;> simp [hj, h]
  · simp [hj]

theorem Entry.age_eq (c : Nat) (e : Entry) :
    Entry.age c e = { e with effectiveClass := (Entry.age c e).effectiveClass, bypass := (Entry.age c e).bypass } := by
  unfold Entry.age
  repeat' split
  all_goals rfl

/-- What neither the classes, the bypass count nor the state of an entry enter, a look leaves along the queue. -/
theorem State.look_map {β : Type} (s : State) (g : Entry → β)
    (h : ∀ (e : Entry) (c b : Nat) (x : EntryState), g { e with effectiveClass := c, bypass := b, state := x } = g e) :
    s.look.queue.map g = s.queue.map g := by
  have started : ∀ i, (s.startEntry i).queue.map g = s.queue.map g := by
    intro i
    cases hi : s.queue[i]? with
    | none => simp [State.startEntry, hi]
    | some e =>
      rw [State.startEntry_eq hi]
      refine startQueue_map g hi (fun c x => ?_) (h e _ _ _)
      rw [Entry.age_eq]
      exact h x _ _ _
  rcases s.look_cases with h1 | ⟨-, i, -, h1⟩ | ⟨-, i, -, h1⟩ | ⟨-, -, h1⟩ | ⟨-, -, -, h1⟩ <;> rw [h1]
  · exact started i
  · exact started i
  · unfold State.orderSuspend
    split
    · exact modify_map g fun e => h e _ _ _
    · rfl
  · unfold State.resumeErase
    split
    · exact modify_map g fun e => h e _ _ _
    · rfl

/-! ### Composite moves, field by field -/

theorem State.requestSuspend_eq (s : State) (w : Nat) :
    s.requestSuspend w = { s with
      queue := (s.requestSuspend w).queue
      engine := (s.requestSuspend w).engine
      noted := some w } := by
  unfold State.requestSuspend State.orderSuspend
  split <;> rfl

/-- A suspend order changes the state of one entry alone. -/
theorem State.requestSuspend_map {β : Type} (s : State) (w : Nat) (g : Entry → β)
    (h : ∀ (e : Entry) (x : EntryState), g { e with state := x } = g e) :
    (s.requestSuspend w).queue.map g = s.queue.map g := by
  unfold State.requestSuspend State.orderSuspend
  split
  · exact modify_map g fun e => h e _
  · rfl

theorem State.cutOff_queue (s : State) : s.cutOff.queue = s.queue := by
  rw [State.cutOff_eq]

/-- Entries that leave the queue with a record change buffers and the record tables alone. -/
theorem State.loseEntry_eq (s : State) (e : Entry) :
    s.loseEntry e = { s with buffers := (s.loseEntry e).buffers, ports := (s.loseEntry e).ports } := by
  unfold State.loseEntry
  rw [State.freeEntryBuffer_eq]
  rfl

theorem State.foldl_loseEntry_eq (es : List Entry) :
    ∀ s : State, es.foldl State.loseEntry s =
      { s with
        buffers := (es.foldl State.loseEntry s).buffers
        ports := (es.foldl State.loseEntry s).ports } := by
  induction es with
  | nil => exact fun _ => rfl
  | cons e es ih =>
    intro s
    rw [List.foldl_cons, ih, State.loseEntry_eq]

theorem State.loseEntries_eq (s : State) (p : Port) (i : Nat) :
    s.loseEntries p i = { s with
      queue := s.queue.filter (fun e => !e.queuedIn p i)
      buffers := (s.loseEntries p i).buffers
      ports := (s.loseEntries p i).ports } :=
  State.foldl_loseEntry_eq _ _

theorem State.foldl_freeEntryBuffer_eq (es : List Entry) :
    ∀ s : State, es.foldl State.freeEntryBuffer s =
      { s with buffers := (es.foldl State.freeEntryBuffer s).buffers } := by
  induction es with
  | nil => exact fun _ => rfl
  | cons e es ih =>
    intro s
    rw [List.foldl_cons, ih, State.freeEntryBuffer_eq]

theorem State.foldl_freeHandleBuffer_eq (hs : List (Option Nat)) :
    ∀ s : State, hs.foldl State.freeHandleBuffer s =
      { s with buffers := (hs.foldl State.freeHandleBuffer s).buffers } := by
  induction hs with
  | nil => exact fun _ => rfl
  | cons h hs ih =>
    intro s
    rw [List.foldl_cons, ih]
    cases h <;> rfl

/-- Nothing but the commit image, regions and latched notices changes when a commit is dropped. -/
theorem State.dropCommit_leases (s : State) : OnlyLeases { s with commitImage := none } s.dropCommit :=
  OnlyLeases.unfreezeAll _

/-- The QUEUED entries that PORT RESET removes. -/
def State.resetGone (s : State) (p : Port) : List Entry :=
  s.queue.filter (fun e => decide (e.port = p) && e.isQueued)

/-- The state in which they have left and their buffers are FREE. -/
def State.resetFreed (s : State) (p : Port) : State :=
  (s.resetGone p).foldl State.freeEntryBuffer { s with queue := (s.resetQueue p).queue }

theorem State.resetQueue_eq (s : State) (p : Port) :
    s.resetQueue p = if (s.resetGone p).any (fun e => decide (e.kind = .mapCommit)) then (s.resetFreed p).dropCommit
      else s.resetFreed p := by
  unfold State.resetFreed
  rw [State.resetQueue_queue]
  rfl

theorem State.resetFreed_eq (s : State) (p : Port) :
    s.resetFreed p = { s with queue := (s.resetQueue p).queue, buffers := (s.resetFreed p).buffers } :=
  State.foldl_freeEntryBuffer_eq _ _

/-- What PORT RESET does to the queue changes the queue, buffers, and, with a removed commit, regions. -/
theorem State.resetQueue_leases (s : State) (p : Port) :
    ∃ image : Option MapImage, OnlyLeases
      { s with queue := (s.resetQueue p).queue, buffers := (s.resetFreed p).buffers, commitImage := image }
      (s.resetQueue p) := by
  have hfreed := s.resetFreed_eq p
  have heq := s.resetQueue_eq p
  split at heq
  · refine ⟨none, ?_⟩
    have h := State.dropCommit_leases (s.resetFreed p)
    rw [← heq] at h
    convert h using 1
    rw [hfreed]
  · refine ⟨s.commitImage, ?_⟩
    have h := OnlyLeases.refl (s.resetFreed p)
    convert h using 1
    exact hfreed.symm

theorem State.resetHandles_eq (s : State) (p : Port) :
    s.resetHandles p = ({ s with buffers := (s.resetHandles p).buffers } : State).modifyPort p
      (fun q => { q with handles := q.handles.map (fun _ => none) }) := by
  unfold State.resetHandles
  rw [State.foldl_freeHandleBuffer_eq]
  rfl

theorem State.setHandle_port (s : State) (p q : Port) (h : Byte) (v : Option Nat) :
    (s.setHandle p h v).port q =
      if q = p then { s.port q with handles := (s.port q).handles.set h.toNat v } else s.port q :=
  s.port_modifyPort p q _

/-- R56: the end of an entry, before its record and the engine's move: the array, the buffer, the neighbours. -/
def State.ended (s : State) (i : Nat) (e : Entry) (outcome : EndOutcome) : State :=
  ((({ s with queue := s.queue.eraseIdx i } : State).endInArray e outcome).freeEntryBuffer e).endInNeighbours e outcome

theorem State.endEntry_eq (s : State) (i : Nat) (e : Entry) (outcome : EndOutcome) :
    s.endEntry i e outcome =
      { (if e.orphaned then s.ended i e outcome
          else (s.ended i e outcome).postRecord e (endStatus e.kind outcome)) with
        engine := s.engine.ended
        noted := if s.engine = .suspending then none
          else (if e.orphaned then s.ended i e outcome
            else (s.ended i e outcome).postRecord e (endStatus e.kind outcome)).noted } := rfl

theorem State.endInArray_eq (s : State) (e : Entry) (outcome : EndOutcome) :
    s.endInArray e outcome =
      { s with mem := (s.endInArray e outcome).mem, unsettled := (s.endInArray e outcome).unsettled } := by
  unfold State.endInArray
  split
  · split
    · unfold State.applyDone
      split <;> rfl
    · rfl
  · rfl

/-- A slot written, the map replaced, and a notice to every port, as one change of fields. -/
theorem State.setSlot_map_eq (s : State) (n : SlotName) (v : Slot) (cs : Option SlotName) (g : Word16)
    (table : List (Option Region)) (au : Option Port) (w : PerPort Profile) (k : NoticeKind) :
    ((({ s.setSlot n v with
        currentSlot := cs
        generation := g
        regions := table
        authority := au
        staged := none
        commitImage := none
        mapDefaulted := false } : State).loadProfiles w).postAll k) =
      { s with
        currentSlot := cs
        generation := g
        regions := table
        authority := au
        staged := none
        commitImage := none
        mapDefaulted := false
        slotX := (s.setSlot n v).slotX
        slotY := (s.setSlot n v).slotY
        ports := ((s.loadProfiles w).postAll k).ports } := by
  cases n <;>
    simp only [State.postAll, State.post, State.loadProfiles, State.modifyPort, State.setSlot]

/-- R168: the end of a commit, field by field. -/
theorem State.commitDone_some {m : MapImage} (h : s.commitImage = some m) :
    s.commitDone =
      { s with
        currentSlot := some s.commitSlot
        generation := s.generation + 1
        regions := regionIndices.map (fun i => applyDefinition (s.region i) (m.regions[i]?).join)
        authority := m.authority
        staged := none
        commitImage := none
        mapDefaulted := false
        slotX := (s.setSlot s.commitSlot ⟨m, s.generation + 1, true⟩).slotX
        slotY := (s.setSlot s.commitSlot ⟨m, s.generation + 1, true⟩).slotY
        ports := ((s.loadProfiles m.profiles).postAll .mapChanged).ports } := by
  rw [← State.setSlot_map_eq]
  simp only [State.commitDone, h]

theorem State.commitDone_none (h : s.commitImage = none) : s.commitDone = s := by
  simp only [State.commitDone, h]

theorem OnlyLeases.setCommitImage (h : OnlyLeases s t) (m : Option MapImage) :
    OnlyLeases { s with commitImage := m } { t with commitImage := m } := by
  refine ⟨?_, fun q => h.ports q, fun q => h.rises q, h.length⟩
  have h1 := h.rest
  calc ({ t with commitImage := m, regions := s.regions, ports := s.ports } : State)
      = { ({ t with regions := s.regions, ports := s.ports } : State) with commitImage := m } := rfl
    _ = { s with commitImage := m } := by rw [h1]

theorem State.commitFailed_leases (s : State) : OnlyLeases { s with commitImage := none } s.commitFailed :=
  (OnlyLeases.unfreezeAll s).setCommitImage none

end Sys2Proof.Machine
end

section
/-! The queue limits (R20, R22, R118): a move lets entries leave, or appends the one entry whose submission found room,
credit and a free tag. -/

namespace Sys2Proof.Machine

variable {a : Actor} {p : Port} {s t : State}

/-- The ports and tags along the queue (R22). -/
def State.keys (s : State) : List (Port × Byte) := s.queue.map (fun e => (e.port, e.tag))

/-- R118: a port's entries and records together. -/
def State.load (s : State) (p : Port) : Nat := s.entryCount p + s.recordCount p

/-- Entries leave, keeping their order, and no port has more entries and records together. -/
structure Shrinks (s t : State) : Prop where
  keys : t.keys.Sublist s.keys
  load : ∀ p, t.load p ≤ s.load p

/-- One entry joins that found a free tag, credit and room (R24, R165). -/
structure Grows (s t : State) (p : Port) (tag : Byte) : Prop where
  keys : t.keys = s.keys ++ [(p, tag)]
  records : ∀ q, t.recordCount q = s.recordCount q
  ready : s.device = .ready
  fresh : s.tagInUse p tag = false
  credit : s.credit p ≠ 0
  room : s.queue.length < Config.queueCapacity

theorem State.entryCount_eq (s : State) (p : Port) : s.entryCount p = s.keys.countP (fun k => decide (k.1 = p)) := by
  simp only [State.entryCount, State.keys, List.countP_map]
  rfl

/-- Moves that change neither the keys along the queue nor add records. -/
theorem Shrinks.of_eq (hk : t.keys = s.keys) (hr : ∀ p, (t.port p).completions.length ≤ (s.port p).completions.length) :
    Shrinks s t where
  keys := hk ▸ List.Sublist.refl _
  load p := by
    simp only [State.load, State.entryCount_eq, hk]
    exact Nat.add_le_add_left (hr p) _

theorem Shrinks.of_queue (hq : t.queue = s.queue)
    (hr : ∀ p, (t.port p).completions.length ≤ (s.port p).completions.length) : Shrinks s t :=
  .of_eq (by rw [State.keys, State.keys, hq]) hr

theorem Shrinks.of_ports (hq : t.queue = s.queue) (hp : t.ports = s.ports) : Shrinks s t :=
  .of_queue hq fun p => by rw [State.port, State.port, hp]

theorem Shrinks.refl (s : State) : Shrinks s s := .of_ports rfl rfl

theorem Shrinks.trans {u : State} (h : Shrinks s t) (k : Shrinks t u) : Shrinks s u :=
  ⟨k.keys.trans h.keys, fun p => (k.load p).trans (h.load p)⟩

theorem Shrinks.of_leases (h : OnlyLeases s t) : Shrinks s t :=
  .of_queue h.queue fun p => by rw [h.port_eq p]

theorem Shrinks.modifyPort {f : PortState → PortState}
    (h : (f (s.port p)).completions.length ≤ (s.port p).completions.length) : Shrinks s (s.modifyPort p f) :=
  .of_queue rfl fun q => by
    rw [State.port_modifyPort]
    split
    · next hq =>
      subst hq
      exact h
    · exact le_refl _

/-- The queue and the record tables are emptied. -/
theorem Shrinks.of_empty (hq : t.queue = []) (hr : ∀ p, (t.port p).completions = []) : Shrinks s t where
  keys := by simp [State.keys, hq]
  load p := by simp [State.load, State.entryCount, State.recordCount, hq, hr]

/-! ### Entries that leave with a record -/

theorem State.recordCount_postRecord (s : State) (e : Entry) (x : Status) (p : Port) :
    (s.postRecord e x).recordCount p = s.recordCount p + (if e.port = p then 1 else 0) := by
  unfold State.recordCount State.postRecord
  rw [State.port_modifyPort]
  by_cases h : p = e.port
  · subst h
    simp
  · simp [h, Ne.symm h]

@[simp] theorem State.freeEntryBuffer_recordCount (s : State) (e : Entry) (p : Port) :
    (s.freeEntryBuffer e).recordCount p = s.recordCount p := by
  rw [State.freeEntryBuffer_eq]
  rfl

theorem State.foldl_loseEntry_recordCount (es : List Entry) (p : Port) :
    ∀ s : State, (es.foldl State.loseEntry s).recordCount p =
      s.recordCount p + es.countP (fun e => decide (e.port = p)) := by
  induction es with
  | nil => simp
  | cons e es ih =>
    intro s
    rw [List.foldl_cons, ih, State.loseEntry, State.recordCount_postRecord, State.freeEntryBuffer_recordCount,
      List.countP_cons]
    simp only [decide_eq_true_eq]
    omega

/-- R93: the QUEUED work that a holder loses leaves a record for each entry. -/
theorem State.loseEntries_shrinks (s : State) (p : Port) (i : Nat) : Shrinks s (s.loseEntries p i) where
  keys := by
    simp only [State.keys, State.loseEntries_queue]
    exact List.filter_sublist.map _
  load q := by
    have hrec : (s.loseEntries p i).recordCount q = s.recordCount q +
        (s.queue.filter (Entry.queuedIn p i)).countP (fun e => decide (e.port = q)) :=
      State.foldl_loseEntry_recordCount _ q _
    have hcount := List.countP_eq_countP_filter_add s.queue (fun e => decide (e.port = q)) (Entry.queuedIn p i)
    simp only [State.load, hrec]
    unfold State.entryCount
    rw [State.loseEntries_queue, hcount]
    omega

theorem State.keys_eraseIdx (s : State) (i : Nat) :
    ({ s with queue := s.queue.eraseIdx i } : State).keys.Sublist s.keys :=
  (List.eraseIdx_sublist _ _).map _

/-- The entry at a place of the queue leaves one entry less to its port. -/
theorem State.entryCount_eraseIdx {i : Nat} {e : Entry} (hi : s.queue[i]? = some e) (p : Port) :
    s.entryCount p =
      ({ s with queue := s.queue.eraseIdx i } : State).entryCount p + (if e.port = p then 1 else 0) := by
  unfold State.entryCount
  conv_lhs => rw [split_at hi]
  simp only [List.eraseIdx_eq_take_drop_succ, List.countP_append, List.countP_cons, decide_eq_true_eq]
  omega

/-- An entry leaves, with or without its record. -/
theorem Shrinks.leave {i : Nat} {e : Entry} (hi : s.queue[i]? = some e) (hq : t.queue = s.queue.eraseIdx i)
    (hr : ∀ q, t.recordCount q ≤ s.recordCount q + (if e.port = q then 1 else 0)) : Shrinks s t where
  keys := by
    unfold State.keys
    rw [hq]
    exact s.keys_eraseIdx i
  load q := by
    have h1 := State.entryCount_eraseIdx hi q
    have h2 := hr q
    have h3 : t.entryCount q = ({ s with queue := s.queue.eraseIdx i } : State).entryCount q := by
      unfold State.entryCount
      rw [hq]
    simp only [State.load]
    omega

theorem State.recordCount_of_leases (h : OnlyLeases s t) (q : Port) : t.recordCount q = s.recordCount q := by
  unfold State.recordCount
  rw [h.port_eq q]

theorem State.cancelEntry_shrinks {i : Nat} {e : Entry} (hi : s.queue[i]? = some e) :
    Shrinks s (s.cancelEntry i e) := by
  have left : Shrinks s ((({ s with queue := s.queue.eraseIdx i } : State).freeEntryBuffer e).postRecord e .cancelled) := by
    refine Shrinks.leave hi (by simp) fun q => ?_
    rw [State.recordCount_postRecord, State.freeEntryBuffer_recordCount]
    exact le_refl _
  unfold State.cancelEntry
  dsimp only
  split
  · generalize (({ s with queue := s.queue.eraseIdx i } : State).freeEntryBuffer e).postRecord e .cancelled = u at left
    have cleared : Shrinks u { u with commitImage := none } := .of_ports rfl rfl
    exact (left.trans cleared).trans (.of_leases u.dropCommit_leases)
  · exact left

theorem State.endInArray_queue (s : State) (e : Entry) (outcome : EndOutcome) :
    (s.endInArray e outcome).queue = s.queue := by
  rw [State.endInArray_eq]

theorem State.endInArray_recordCount (s : State) (e : Entry) (outcome : EndOutcome) (q : Port) :
    (s.endInArray e outcome).recordCount q = s.recordCount q := by
  rw [State.endInArray_eq]
  rfl

theorem State.commitDone_queue (s : State) : s.commitDone.queue = s.queue := by
  cases h : s.commitImage with
  | none => rw [State.commitDone_none h]
  | some m => rw [State.commitDone_some h]

/-- A profile for every port, and a notice to every port. -/
theorem State.port_loadProfiles_postAll (s : State) (w : PerPort Profile) (k : NoticeKind) (q : Port) :
    ((s.loadProfiles w).postAll k).port q = { s.port q with
      profile := w.get q
      latched := (((s.loadProfiles w).postAll k).port q).latched
      postedSinceView := (((s.loadProfiles w).postAll k).port q).postedSinceView } := by
  simp only [State.postAll, State.post, State.loadProfiles, State.port_modifyPort]
  cases q <;> rfl

/-- The end of a commit posts to every port and gives it a profile, no more. -/
theorem State.commitDone_port (s : State) (q : Port) :
    s.commitDone.port q = { s.port q with
      profile := (s.commitDone.port q).profile
      latched := (s.commitDone.port q).latched
      postedSinceView := (s.commitDone.port q).postedSinceView } := by
  cases h : s.commitImage with
  | none => rw [State.commitDone_none h]
  | some m =>
    rw [State.commitDone_some h]
    have hport := s.port_loadProfiles_postAll m.profiles .mapChanged q
    generalize ((s.loadProfiles m.profiles).postAll .mapChanged) = u at hport
    show u.port q = { s.port q with
      profile := (u.port q).profile
      latched := (u.port q).latched
      postedSinceView := (u.port q).postedSinceView }
    rw [hport]

theorem State.endInNeighbours_queue (s : State) (e : Entry) (outcome : EndOutcome) :
    (s.endInNeighbours e outcome).queue = s.queue := by
  unfold State.endInNeighbours
  split
  · split
    · exact s.commitDone_queue
    · exact (State.commitFailed_leases s).queue
  · split
    · exact (OnlyLeases.drainDown s _).queue
    · rfl

theorem State.endInNeighbours_recordCount (s : State) (e : Entry) (outcome : EndOutcome) (q : Port) :
    (s.endInNeighbours e outcome).recordCount q = s.recordCount q := by
  unfold State.endInNeighbours
  split
  · split
    · unfold State.recordCount
      rw [State.commitDone_port]
    · exact State.recordCount_of_leases (State.commitFailed_leases s) q
  · split
    · exact State.recordCount_of_leases (OnlyLeases.drainDown s _) q
    · rfl

theorem State.ended_queue (s : State) (i : Nat) (e : Entry) (outcome : EndOutcome) :
    (s.ended i e outcome).queue = s.queue.eraseIdx i := by
  simp [State.ended, State.endInNeighbours_queue, State.endInArray_queue]

theorem State.endEntry_queue (s : State) (i : Nat) (e : Entry) (outcome : EndOutcome) :
    (s.endEntry i e outcome).queue = s.queue.eraseIdx i := by
  rw [State.endEntry_eq]
  dsimp only
  split <;> simp [State.ended_queue]

theorem State.endEntry_shrinks {i : Nat} {e : Entry} (hi : s.queue[i]? = some e) (outcome : EndOutcome) :
    Shrinks s (s.endEntry i e outcome) := by
  refine Shrinks.leave hi (s.endEntry_queue i e outcome) fun q => ?_
  have hended : (s.ended i e outcome).recordCount q = s.recordCount q := by
    simp only [State.ended, State.endInNeighbours_recordCount, State.freeEntryBuffer_recordCount,
      State.endInArray_recordCount]
    rfl
  have hrec : (s.endEntry i e outcome).recordCount q =
      (if e.orphaned then s.ended i e outcome
        else (s.ended i e outcome).postRecord e (endStatus e.kind outcome)).recordCount q := by
    rw [State.endEntry_eq]
    rfl
  rw [hrec]
  split
  · omega
  · rw [State.recordCount_postRecord, hended]

theorem State.resetQueue_shrinks (s : State) (p : Port) : Shrinks s (s.resetQueue p) := by
  obtain ⟨image, h⟩ := s.resetQueue_leases p
  refine Shrinks.trans (t := { s with
    queue := (s.resetQueue p).queue, buffers := (s.resetFreed p).buffers, commitImage := image }) ?_ (.of_leases h)
  have hkeys : ((s.resetQueue p).queue.map (fun e => (e.port, e.tag))).Sublist s.keys := by
    rw [State.resetQueue_queue, List.map_map]
    have hsame : ((fun e : Entry => (e.port, e.tag)) ∘ fun e => if e.port = p then { e with orphaned := true } else e) =
        fun e => (e.port, e.tag) := by
      funext e
      by_cases h : e.port = p <;> simp [h]
    rw [hsame]
    exact List.filter_sublist.map _
  refine ⟨hkeys, fun q => ?_⟩
  simp only [State.load, State.entryCount_eq]
  exact Nat.add_le_add_right (List.Sublist.countP_le hkeys) _

/-! ### An accepted submission -/

theorem Grows.of_append {e : Entry} {tag : Byte} (hq : t.queue = s.queue ++ [e]) (hp : e.port = p) (htag : e.tag = tag)
    (hr : ∀ q, (t.port q).completions = (s.port q).completions) (hd : s.device = .ready) (hfresh : s.tagInUse p tag = false)
    (hcredit : decide (s.credit p = 0) = false) (hroom : decide (Config.queueCapacity ≤ s.queue.length) = false) :
    Grows s t p tag where
  keys := by simp [State.keys, hq, hp, htag]
  records q := by rw [State.recordCount, State.recordCount, hr q]
  ready := hd
  fresh := hfresh
  credit := by simpa using hcredit
  room := by simpa using hroom

/-- What the shared checks of a submission say when none fails. -/
theorem State.commonChecks_pass {block : Nat} {tag : Byte} (h : firstFailing (s.commonChecks p block tag) = none) :
    s.tagInUse p tag = false ∧ s.mayWrite p block = true ∧ s.holdsBlock p block = true ∧
      decide (s.credit p = 0) = false ∧ decide (Config.queueCapacity ≤ s.queue.length) = false := by
  simpa [firstFailing_eq_none, State.commonChecks] using h

theorem State.eraseChecks_pass {addr : Addr} {tag cls : Byte} (h : firstFailing (s.eraseChecks p addr tag cls) = none) :
    cls.toNat ≤ 3 ∧ firstFailing (s.commonChecks p (blockOf addr) tag) = none := by
  obtain ⟨h1, h2⟩ := firstFailing_append_eq_none (cs := [(decide (3 < cls.toNat), .badParameter)]) h
  exact ⟨by simpa [firstFailing_eq_none] using h1, h2⟩

theorem State.programChecks_pass {handle tag cls : Byte} {addr : Addr}
    (h : firstFailing (s.programChecks p handle addr tag cls) = none) :
    cls.toNat ≤ 3 ∧ handle.toNat ≤ 3 ∧ (∃ b, (s.port p).handle handle = some b) ∧ addr.toNat % 256 = 0 ∧
      firstFailing (s.commonChecks p (blockOf addr) tag) = none := by
  obtain ⟨h1, h2⟩ := firstFailing_append_eq_none h
  simp only [firstFailing_eq_none, List.mem_cons, List.not_mem_nil, or_false, forall_eq_or_imp, forall_eq,
    Bool.or_eq_false_iff, decide_eq_false_iff_not, Nat.not_lt, Option.isNone_eq_false_iff, Decidable.not_not] at h1
  obtain ⟨⟨hc, hh⟩, hb, ha⟩ := h1
  exact ⟨hc, hh, Option.isSome_iff_exists.1 hb, ha, h2⟩

theorem State.acceptProgram_queue (s : State) (p : Port) (handle : Byte) (addr : Addr) (tag cls : Byte) :
    (s.acceptProgram p handle addr tag cls).queue = s.queue ++
      [⟨p, tag, .program, some (.page (pageOf addr)), s.regionOfBlock (blockOf addr), (s.port p).handle handle,
        cls.toNat, s.cappedClass p cls, 0, .queued, false, 0, s.arrival⟩] := by
  unfold State.acceptProgram
  dsimp only
  split <;> rfl

theorem State.acceptProgram_port (s : State) (p q : Port) (handle : Byte) (addr : Addr) (tag cls : Byte) :
    (s.acceptProgram p handle addr tag cls).port q =
      if q = p then { s.port q with handles := (s.port q).handles.set handle.toNat none } else s.port q := by
  unfold State.acceptProgram
  dsimp only
  rw [State.setHandle_port]
  split <;> split <;> rfl

theorem OnlyLeases.freeze (m : MapImage) (s : State) (i : Nat) : OnlyLeases s (State.freeze m s i) := by
  unfold State.freeze
  split
  · split
    · exact OnlyLeases.modifyLease ..
    · exact OnlyLeases.refl s
  · exact OnlyLeases.refl s

/-- R94: the table in which the changed regions are FROZEN. -/
def State.frozen (s : State) (m : MapImage) : State :=
  regionIndices.foldl (State.freeze m) { s with commitImage := some m }

theorem State.frozen_leases (s : State) (m : MapImage) : OnlyLeases { s with commitImage := some m } (s.frozen m) :=
  OnlyLeases.foldl (OnlyLeases.freeze m) _ _

theorem State.acceptCommit_some {m : MapImage} {tag : Byte} (h : s.staged = some m) :
    s.acceptCommit p tag = (s.frozen m).appendEntry p tag .mapCommit none none none (s.port p).profile.ceiling
      (s.port p).profile.ceiling := by
  simp only [State.acceptCommit, h, State.frozen]

/-- What the checks of MAP COMMIT say when none fails. -/
theorem State.commitChecks_pass {tag : Byte} (h : firstFailing (s.commitChecks p tag) = none) :
    ∃ m, s.staged = some m ∧ s.mapPending = false ∧ m.valid = true ∧ s.changedNotFree m = false ∧
      s.tagInUse p tag = false ∧ decide (s.credit p = 0) = false ∧
      decide (Config.queueCapacity ≤ s.queue.length) = false := by
  simp only [firstFailing_eq_none, State.commitChecks, List.mem_cons, List.not_mem_nil, or_false, forall_eq_or_imp,
    forall_eq] at h
  obtain ⟨-, hstaged, hpending, hvalid, -, htag, hfree, hcredit, hroom⟩ := h
  cases hm : s.staged with
  | none => simp [hm] at hstaged
  | some m =>
    simp only [hm, Bool.not_eq_false'] at hvalid hfree
    exact ⟨m, rfl, hpending, hvalid, hfree, htag, hcredit, hroom⟩

/-! ### Every move -/

theorem State.startUpStep_completions (s : State) (mv : Nat) (k : StartUpStep) (q : Port) :
    ((s.startUpStep mv k).port q).completions = (s.port q).completions := by
  cases k <;> cases q <;> rfl

theorem State.released_shrinks (s : State) (p : Port) : Shrinks s (s.released p) := by
  rw [State.released_eq]
  exact .of_ports rfl rfl

theorem Shrinks.holdBank {u : State} (h : Shrinks s u) (k : Fin 4) : Shrinks s (u.holdBank k) :=
  h.trans (.of_ports rfl rfl)

/-- A buffer and a handle change. -/
theorem Shrinks.setHandle (s : State) (p : Port) (b : Nat) (f : Buffer → Buffer) (h : Byte) (v : Option Nat) :
    Shrinks s ((s.modifyBuffer b f).setHandle p h v) := by
  have buffer : Shrinks s (s.modifyBuffer b f) := .of_ports rfl rfl
  exact buffer.trans (Shrinks.modifyPort (le_refl _))

/-- A change of the frame of a port that has let go of its bank. -/
theorem Shrinks.setFrame {u : State} (h : Shrinks s u) (p : Port) (f : FrameState) : Shrinks s (u.setFrame p f) :=
  h.trans (Shrinks.modifyPort (le_refl _))

/-- What a move does to the queue. -/
theorem Move.queue_cases (h : Move a s t) : Shrinks s t ∨ ∃ p tag, Grows s t p tag := by
  cases h with
  | taken l is ha => exact .inl (.of_ports rfl rfl)
  | unread pages n => exact .inl (.of_ports rfl rfl)
  | own ha h => exact .inl (Shrinks.modifyPort h.records)
  | post p k => exact .inl (Shrinks.modifyPort (le_refl _))
  | signal v ha hd he => exact .inl (Shrinks.modifyPort (le_refl _))
  | look => exact .inl (.of_eq (s.look_map _ fun _ _ _ _ => rfl) fun p => by simp)
  | clearInterrupted => exact .inl (.of_ports rfl rfl)
  | fill st b ha hf => exact .inl ((s.released_shrinks _).setFrame _ _)
  | hold st ha hf hc =>
    exact .inl (((s.released_shrinks _).holdBank _).setFrame _ _)
  | close ha hf => exact .inl ((s.released_shrinks _).setFrame _ _)
  | request h =>
    exact .inl (.of_eq (s.requestSuspend_map _ _ fun _ _ => rfl) fun p => by rw [State.requestSuspend_eq]; rfl)
  | load b offset data => exact .inl (.of_ports rfl rfl)
  | allocate offset data ha hle hnone hfree hown => exact .inl (Shrinks.setHandle ..)
  | discard ha hle hb => exact .inl (Shrinks.setHandle ..)
  | @program p handle addr tag cls ha hd hok =>
    obtain ⟨-, -, -, -, hc⟩ := State.programChecks_pass hok
    obtain ⟨htag, -, -, hcredit, hroom⟩ := State.commonChecks_pass hc
    refine .inr ⟨p, tag, .of_append (s.acceptProgram_queue ..) rfl rfl (fun q => ?_) hd htag hcredit hroom⟩
    rw [State.acceptProgram_port]
    split <;> rfl
  | @sectorErase p addr tag cls hd hok =>
    obtain ⟨htag, -, -, hcredit, hroom⟩ := State.commonChecks_pass (State.eraseChecks_pass hok).2
    exact .inr ⟨p, tag, .of_append rfl rfl rfl (fun q => rfl) hd htag hcredit hroom⟩
  | @blockErase p addr tag cls hd hok =>
    obtain ⟨htag, -, -, hcredit, hroom⟩ := State.commonChecks_pass (State.eraseChecks_pass hok).2
    exact .inr ⟨p, tag, .of_append rfl rfl rfl (fun q => rfl) hd htag hcredit hroom⟩
  | @commit p tag hd hok =>
    obtain ⟨m, hm, -, -, -, htag, hcredit, hroom⟩ := State.commitChecks_pass hok
    have hl := s.frozen_leases m
    rw [State.acceptCommit_some hm]
    generalize s.frozen m = u at hl
    refine .inr ⟨p, tag, .of_append (e := ⟨p, tag, .mapCommit, none, none, none, _, _, 0, .queued, false, 0, u.arrival⟩)
      (congrArg (· ++ [_]) hl.queue) rfl rfl (fun q => ?_) hd htag hcredit hroom⟩
    have hport : (u.port q).completions = (s.port q).completions := by
      rw [hl.port_eq q]
      rfl
    exact hport
  | cancel ha hi he hp => exact .inl (State.cancelEntry_shrinks hi)
  | lose ha hr hh => exact .inl (s.loseEntries_shrinks _ _)
  | resetQueue p => exact .inl (s.resetQueue_shrinks p)
  | resetHandles ha =>
    rw [State.resetHandles_eq]
    generalize hb : (s.resetHandles _).buffers = bs
    have freed : Shrinks s { s with buffers := bs } := .of_ports rfl rfl
    exact .inl (freed.trans (Shrinks.modifyPort (le_refl _)))
  | take hr hm hs => exact .inl (.of_ports rfl rfl)
  | wait hr hm hs hh hw => exact .inl (.of_ports rfl rfl)
  | renew hr hh => exact .inl (.of_ports rfl rfl)
  | leave p i => exact .inl (.of_ports rfl rfl)
  | endLease hr hh hq => exact .inl (.of_leases (OnlyLeases.endLease s _))
  | tick hr hs hn => exact .inl (.of_ports rfl rfl)
  | stage h => exact .inl (.of_ports rfl rfl)
  | endEntry outcome ha hstop hi he => exact .inl (State.endEntry_shrinks he outcome)
  | park hstop heng hi => exact .inl (.of_eq (modify_map _ fun _ => rfl) fun p => le_refl _)
  | windowStep hw h1 => exact .inl (.of_ports rfl rfl)
  | windowClose => exact .inl (.of_ports rfl rfl)
  | supply h hx => exact .inl (.of_ports rfl rfl)
  | power ha h => exact .inl (.of_empty rfl fun q => by cases q <;> rfl)
  | fallUnpowered h => exact .inl (.of_ports rfl rfl)
  | fall ha hlow h hi => exact .inl (.of_empty rfl fun q => by cases q <;> rfl)
  | riseUnpowered h => exact .inl (.of_ports rfl rfl)
  | rise ha hlow h =>
    exact .inl ((((Shrinks.of_ports rfl rfl : Shrinks s { s with resetLow := false }).setFrame .a _).setFrame .b _).setFrame .c _)
  | arrayStops => exact .inl (.of_ports (by simp) (by simp))
  | startUp mv ha hd hlow hs hstop hk =>
    exact .inl (.of_queue (by simp) fun q => by rw [State.startUpStep_completions])

/-! ### The limits -/

theorem State.capacityLaw_iff : s.capacityLaw = true ↔ s.keys.length ≤ 12 := by
  simp [State.capacityLaw, State.keys]

theorem State.creditLaw_iff : s.creditLaw = true ↔ ∀ p, s.load p ≤ 8 := by
  simp only [State.creditLaw, allPorts, Bool.and_eq_true, decide_eq_true_eq]
  constructor
  · rintro ⟨⟨ha, hb⟩, hc⟩ p
    cases p
    · exact ha
    · exact hb
    · exact hc
  · exact fun h => ⟨⟨h .a, h .b⟩, h .c⟩

theorem tagsApart_iff {q : List Entry} : tagsApart q = true ↔ (q.map (fun e => (e.port, e.tag))).Nodup := by
  induction q with
  | nil => simp [tagsApart]
  | cons e es ih =>
    simp only [tagsApart, Bool.and_eq_true, ih, List.map_cons, List.nodup_cons, List.all_eq_true, Entry.tagApart]
    simp only [Bool.not_eq_true', Bool.and_eq_false_iff, decide_eq_false_iff_not, List.mem_map, Prod.mk.injEq,
      not_exists, not_and]
    refine and_congr_left fun _ => forall_congr' fun f => imp_congr_right fun _ => ?_
    constructor
    · rintro (h | h) hp ht
      · exact h hp.symm
      · exact h ht.symm
    · intro h
      by_cases hp : e.port = f.port
      · exact .inr fun ht => h hp.symm ht.symm
      · exact .inl hp

theorem State.tagLaw_iff : s.tagLaw = true ↔ s.keys.Nodup := tagsApart_iff

theorem State.tagInUse_iff {tag : Byte} : s.tagInUse p tag = true ↔ (p, tag) ∈ s.keys := by
  simp [State.tagInUse, State.keys]

theorem Move.keeps_creditLaw (h : Move a s t) (hs : s.creditLaw = true) : t.creditLaw = true := by
  rw [State.creditLaw_iff] at hs ⊢
  intro q
  rcases h.queue_cases with hshrink | ⟨p, tag, hgrow⟩
  · exact (hshrink.load q).trans (hs q)
  · have hcredit := hgrow.credit
    have hload := hs q
    simp only [State.load, State.entryCount_eq, hgrow.keys, hgrow.records, List.countP_append] at hload ⊢
    by_cases hq : p = q
    · subst hq
      simp only [State.credit, Config.portCredit, State.entryCount_eq] at hcredit
      simp only [List.countP_cons, List.countP_nil, decide_true, if_true]
      omega
    · simpa [hq] using hload

theorem Move.keeps_capacityLaw (h : Move a s t) (hs : s.capacityLaw = true) : t.capacityLaw = true := by
  rw [State.capacityLaw_iff] at hs ⊢
  rcases h.queue_cases with hshrink | ⟨p, tag, hgrow⟩
  · exact hshrink.keys.length_le.trans hs
  · have hroom := hgrow.room
    have hlen : s.keys.length = s.queue.length := by rw [State.keys, List.length_map]
    rw [hgrow.keys, List.length_append, List.length_singleton, hlen]
    exact hroom

theorem Move.keeps_tagLaw (h : Move a s t) (hs : s.tagLaw = true) : t.tagLaw = true := by
  rw [State.tagLaw_iff] at hs ⊢
  rcases h.queue_cases with hshrink | ⟨p, tag, hgrow⟩
  · exact hs.sublist hshrink.keys
  · have hfresh : (p, tag) ∉ s.keys := by
      rw [← State.tagInUse_iff, hgrow.fresh]
      simp
    rw [hgrow.keys]
    exact List.nodup_append.2 ⟨hs, List.nodup_singleton _, by
      simp only [List.mem_singleton]
      rintro x hx y rfl rfl
      exact hfresh hx⟩

/-- Settles O52: each law is kept move by move, because a move lets entries leave or appends one that passed the
checks of its submission. -/
theorem stepsKeepTheQueueLimits : Obligations.StepsKeepTheQueueLimits := by
  intro s t h
  exact ⟨step_keeps (fun _ _ _ hm => hm.keeps_creditLaw) h, step_keeps (fun _ _ _ hm => hm.keeps_capacityLaw) h,
    step_keeps (fun _ _ _ hm => hm.keeps_tagLaw) h⟩

end Sys2Proof.Machine
end

section
/-! The device, the supply, the slots and the working map: only few moves touch them. -/

namespace Sys2Proof.Machine

variable {a : Actor} {p : Port} {s t : State}

/-! ### The part of the state that most moves leave as it was -/

/-- R75: the definitions of the Region Table, index by index. -/
def State.definitions (s : State) : List (Option RegionDef) := s.regions.map (Option.map (fun r => r.definition))

/-- R150: the three profiles. -/
def State.profiles (s : State) : PerPort Profile := ⟨s.ports.a.profile, s.ports.b.profile, s.ports.c.profile⟩

/-- What the device, the supply, the array, the map and the start-up are at. -/
structure Core where
  mem : Memory
  authority : Option Port
  currentSlot : Option SlotName
  generation : Word16
  device : DeviceState
  startUpSteps : Nat
  resetLow : Bool
  supply : SupplyState
  leaseClock : Bool
  stopping : List InterruptedItem
  mapDefaulted : Bool
  slotX : Slot
  slotY : Slot
  definitions : List (Option RegionDef)
  profiles : PerPort Profile

/-- That part of a state. -/
def State.core (s : State) : Core :=
  ⟨s.mem, s.authority, s.currentSlot, s.generation, s.device, s.startUpSteps, s.resetLow, s.supply, s.leaseClock,
    s.stopping, s.mapDefaulted, s.slotX, s.slotY, s.definitions, s.profiles⟩

theorem State.profiles_get (s : State) (q : Port) : s.profiles.get q = (s.port q).profile := by
  cases q <;> rfl

theorem State.profiles_eq (h : ∀ q, (t.port q).profile = (s.port q).profile) : t.profiles = s.profiles :=
  PerPort.ext_get fun q => by rw [State.profiles_get, State.profiles_get, h]

theorem State.core_modifyPort {f : PortState → PortState} (h : (f (s.port p)).profile = (s.port p).profile) :
    (s.modifyPort p f).core = s.core := by
  have hp : (s.modifyPort p f).profiles = s.profiles := State.profiles_eq fun q => by
    rw [State.port_modifyPort]
    split
    · next hq =>
      subst hq
      exact h
    · rfl
  simp only [State.core, hp]
  rfl

theorem State.postAll_core (s : State) (k : NoticeKind) : (s.postAll k).core = s.core :=
  ((State.core_modifyPort rfl).trans (State.core_modifyPort rfl)).trans (State.core_modifyPort rfl)

/-- The definition at an index. -/
theorem State.definitions_getElem? (s : State) (i : Nat) :
    (s.definitions[i]?).join = (s.region i).map (fun r => r.definition) := by
  simp only [State.definitions, State.region, List.getElem?_map]
  cases s.regions[i]? with
  | none => rfl
  | some slot => rfl

theorem State.definitions_eq (hlen : t.regions.length = s.regions.length)
    (h : ∀ i, (t.region i).map (fun r => r.definition) = (s.region i).map (fun r => r.definition)) :
    t.definitions = s.definitions := by
  refine List.ext_getElem? fun i => ?_
  have hi := h i
  rw [← State.definitions_getElem?, ← State.definitions_getElem?] at hi
  have hcount : t.definitions.length = s.definitions.length := by simp [State.definitions, hlen]
  by_cases hlt : i < s.definitions.length
  · rw [List.getElem?_eq_getElem hlt, List.getElem?_eq_getElem (hcount ▸ hlt)] at hi ⊢
    exact congrArg some hi
  · rw [List.getElem?_eq_none (by omega), List.getElem?_eq_none (by omega)]

/-- Regions keep their definitions when each is mapped to one with the same definition. -/
theorem OnlyLeases.definitions {g : Nat → Region → Region} (h : OnlyLeases s t)
    (hr : ∀ i, t.region i = (s.region i).map (g i)) (hg : ∀ i r, (g i r).definition = r.definition) :
    t.definitions = s.definitions := by
  refine State.definitions_eq h.length fun i => ?_
  rw [hr, Option.map_map]
  exact congrArg (fun f => Option.map f (s.region i)) (funext fun r => hg i r)

theorem State.definitions_modifyLease (s : State) (i : Nat) (f : Lease → Lease) :
    (s.modifyLease i f).definitions = s.definitions :=
  State.definitions_eq (by simp) fun j => by
    rw [State.region_modifyLease]
    split
    · rw [Option.map_map]
      rfl
    · rfl

theorem State.core_modifyLease (s : State) (i : Nat) (f : Lease → Lease) : (s.modifyLease i f).core = s.core := by
  have hd := s.definitions_modifyLease i f
  unfold State.core
  rw [hd]
  rfl

/-- A change of regions and notices alone, which keeps the definitions. -/
theorem OnlyLeases.core (h : OnlyLeases s t) (hd : t.definitions = s.definitions) : t.core = s.core := by
  have hp : t.profiles = s.profiles := State.profiles_eq fun q => by rw [h.port_eq q]
  unfold State.core
  rw [hd, hp, h.eq]

theorem State.endLease_core (s : State) (i : Nat) : (s.endLease i).core = s.core :=
  (OnlyLeases.endLease s i).core ((OnlyLeases.endLease s i).definitions (s.region_endLease i) fun j r => by
    split <;> rfl)

theorem State.drainDown_core (s : State) (i : Nat) : (s.drainDown i).core = s.core :=
  (OnlyLeases.drainDown s i).core ((OnlyLeases.drainDown s i).definitions (s.region_drainDown i) fun j r => by
    split <;> rfl)

theorem State.unfreezeAll_core (s : State) : s.unfreezeAll.core = s.core :=
  (OnlyLeases.unfreezeAll s).core ((OnlyLeases.unfreezeAll s).definitions s.region_unfreezeAll fun j r => by
    split <;> rfl)

theorem State.dropCommit_core (s : State) : s.dropCommit.core = s.core := State.unfreezeAll_core _

theorem State.region_freeze (m : MapImage) (s : State) (i j : Nat) :
    (State.freeze m s i).region j = (s.region j).map (fun r =>
      if j = i then (if m.changes j r then { r with lease := { r.lease with state := .frozen } } else r) else r) := by
  unfold State.freeze
  cases hr : s.region i with
  | none =>
    by_cases h : j = i
    · subst h
      simp [hr]
    · simp [h]
  | some r =>
    by_cases hm : m.changes i r = true
    · by_cases h : j = i
      · subst h
        simp [hr, hm]
      · simp [hm, h, State.region_modifyLease]
    · by_cases h : j = i
      · subst h
        simp [hr, hm]
      · simp [hm, h]

/-- R94, R166: the changed regions of the table are FROZEN, the others as they were. -/
theorem State.region_frozen (s : State) (m : MapImage) (j : Nat) :
    (s.frozen m).region j = (s.region j).map (fun r =>
      if j < 16 then (if m.changes j r then { r with lease := { r.lease with state := .frozen } } else r) else r) :=
  State.region_foldl_range (f := State.freeze m)
    (g := fun j r => if m.changes j r then { r with lease := { r.lease with state := .frozen } } else r)
    (fun s i j => by
      rw [State.region_freeze]) 16 { s with commitImage := some m } j

theorem State.frozen_core (s : State) (m : MapImage) : (s.frozen m).core = s.core :=
  (s.frozen_leases m).core ((s.frozen_leases m).definitions (s.region_frozen m) fun j r => by
    split
    · split <;> rfl
    · rfl)

theorem State.postRecord_core (s : State) (e : Entry) (x : Status) : (s.postRecord e x).core = s.core :=
  State.core_modifyPort rfl

theorem State.freeEntryBuffer_core (s : State) (e : Entry) : (s.freeEntryBuffer e).core = s.core := by
  rw [State.freeEntryBuffer_eq]
  rfl

theorem State.loseEntries_core (s : State) (p : Port) (i : Nat) : (s.loseEntries p i).core = s.core :=
  foldl_keeps State.core (fun u e => ((u.freeEntryBuffer e).postRecord_core e .leaseLost).trans
    (u.freeEntryBuffer_core e)) _ _

theorem State.cancelEntry_core (s : State) (i : Nat) (e : Entry) : (s.cancelEntry i e).core = s.core := by
  have left : ((({ s with queue := s.queue.eraseIdx i } : State).freeEntryBuffer e).postRecord e .cancelled).core =
      s.core := (State.postRecord_core _ _ _).trans (State.freeEntryBuffer_core _ _)
  unfold State.cancelEntry
  dsimp only
  split
  · exact (State.dropCommit_core _).trans left
  · exact left

theorem State.resetQueue_core (s : State) (p : Port) : (s.resetQueue p).core = s.core := by
  have hfreed : (s.resetFreed p).core = s.core := by
    rw [State.resetFreed_eq]
    rfl
  rw [State.resetQueue_eq]
  split
  · exact (State.dropCommit_core _).trans hfreed
  · exact hfreed

theorem State.resetHandles_core (s : State) (p : Port) : (s.resetHandles p).core = s.core := by
  rw [State.resetHandles_eq]
  exact State.core_modifyPort rfl

theorem State.released_core (s : State) (p : Port) : (s.released p).core = s.core := by
  rw [State.released_eq]
  rfl

theorem State.setFrame_core (s : State) (p : Port) (f : FrameState) : (s.setFrame p f).core = s.core :=
  State.core_modifyPort rfl

theorem State.setHandle_core (s : State) (p : Port) (h : Byte) (v : Option Nat) : (s.setHandle p h v).core = s.core :=
  State.core_modifyPort rfl

theorem State.requestSuspend_core (s : State) (w : Nat) : (s.requestSuspend w).core = s.core := by
  rw [State.requestSuspend_eq]
  rfl

theorem State.appendEntry_core (s : State) (p : Port) (tag : Byte) (kind : EntryKind) (target : Option Target)
    (region buffer : Option Nat) (requested effective : Nat) :
    (s.appendEntry p tag kind target region buffer requested effective).core = s.core := rfl

theorem State.acceptProgram_core (s : State) (p : Port) (handle : Byte) (addr : Addr) (tag cls : Byte) :
    (s.acceptProgram p handle addr tag cls).core = s.core := by
  unfold State.acceptProgram
  dsimp only
  rw [State.setHandle_core]
  split <;> rfl

/-! ### The moves that touch it -/

/-- The moves, as far as device, supply, array and map are concerned. -/
inductive CoreMove (a : Actor) (s : State) : State → Prop
  | still {t : State} (h : t.core = s.core) : CoreMove a s t
  | look : CoreMove a s s.look
  | endEntry {i : Nat} {e : Entry} (outcome : EndOutcome) (ha : a = .event) (hstop : s.stopping = [])
      (hi : s.activeIndex = some i) (he : s.queue[i]? = some e) : CoreMove a s (s.endEntry i e outcome)
  | supply {x : SupplyState} (h : s.supply ≠ .failed) (hx : x ≠ .failed) : CoreMove a s { s with supply := x }
  | power {x : SupplyState} {f : FrameState} (ha : a = .event)
      (h : x = .failed ∧ f = .inert ∨ x ≠ .failed ∧ f = if s.resetLow then .inert else .deselected) :
      CoreMove a s (s.powerOnValues x f)
  | fallUnpowered (h : s.supply = .failed) : CoreMove a s { s with resetLow := true }
  | fall {items : List InterruptedItem} (ha : a = .event) (hlow : s.resetLow = false) (h : s.supply ≠ .failed)
      (hi : s.stopping ≠ [] ∧ items = s.stopping ∨ s.stopping = [] ∧ items = s.cutOffItems) :
      CoreMove a s (s.atReset items)
  | riseUnpowered (h : s.supply = .failed) : CoreMove a s { s with resetLow := false }
  | rise (ha : a = .event) (hlow : s.resetLow = true) (h : s.supply ≠ .failed) :
      CoreMove a s { s with resetLow := false }.deselectAll
  | arrayStops : CoreMove a s s.arrayStops
  | startUp {k : StartUpStep} (mv : Nat) (ha : a = .event) (hd : s.device = .starting) (hlow : s.resetLow = false)
      (hs : s.supply ≠ .failed) (hstop : s.stopping = []) (hk : s.startUpSteps = startUpPlace k) :
      CoreMove a s (s.startUpStep mv k)

theorem Move.coreMove (h : Move a s t) : CoreMove a s t := by
  cases h with
  | taken l is ha => exact .still rfl
  | unread pages n => exact .still rfl
  | own ha h => exact .still (State.core_modifyPort h.profile)
  | post p k => exact .still (State.core_modifyPort rfl)
  | signal v ha hd he => exact .still (State.core_modifyPort rfl)
  | look => exact .look
  | clearInterrupted => exact .still rfl
  | fill st b ha hf => exact .still ((State.setFrame_core _ _ _).trans (s.released_core _))
  | hold st ha hf hc =>
    exact .still ((State.setFrame_core _ _ _).trans (Eq.trans (by rfl) (s.released_core _)))
  | close ha hf => exact .still ((State.setFrame_core _ _ _).trans (s.released_core _))
  | request h => exact .still (s.requestSuspend_core _)
  | load b offset data => exact .still rfl
  | allocate offset data ha hle hnone hfree hown => exact .still (State.setHandle_core _ _ _ _)
  | discard ha hle hb => exact .still (State.setHandle_core _ _ _ _)
  | program ha hd hok => exact .still (s.acceptProgram_core ..)
  | sectorErase hd hok => exact .still rfl
  | blockErase hd hok => exact .still rfl
  | @commit p tag hd hok =>
    obtain ⟨m, hm, -⟩ := State.commitChecks_pass hok
    rw [State.acceptCommit_some hm]
    exact .still ((State.appendEntry_core ..).trans (s.frozen_core m))
  | cancel ha hi he hp => exact .still (s.cancelEntry_core _ _)
  | lose ha hr hh => exact .still (s.loseEntries_core _ _)
  | resetQueue p => exact .still (s.resetQueue_core p)
  | resetHandles ha => exact .still (s.resetHandles_core _)
  | take hr hm hs => exact .still (s.core_modifyLease _ _)
  | wait hr hm hs hh hw => exact .still (s.core_modifyLease _ _)
  | renew hr hh => exact .still (s.core_modifyLease _ _)
  | leave p i => exact .still (s.core_modifyLease _ _)
  | endLease hr hh hq => exact .still (s.endLease_core _)
  | tick hr hs hn => exact .still (s.core_modifyLease _ _)
  | stage h => exact .still rfl
  | endEntry outcome ha hstop hi he => exact .endEntry outcome ha hstop hi he
  | park hstop heng hi => exact .still rfl
  | windowStep hw h1 => exact .still rfl
  | windowClose => exact .still rfl
  | supply h hx => exact .supply h hx
  | power ha h => exact .power ha h
  | fallUnpowered h => exact .fallUnpowered h
  | fall ha hlow h hi => exact .fall ha hlow h hi
  | riseUnpowered h => exact .riseUnpowered h
  | rise ha hlow h => exact .rise ha hlow h
  | arrayStops => exact .arrayStops
  | startUp mv ha hd hlow hs hstop hk => exact .startUp mv ha hd hlow hs hstop hk

/-- A look leaves all of it but the mark of the slot that a commit is to write. -/
theorem State.look_core (s : State) :
    s.look.core = { s.core with slotX := s.look.slotX, slotY := s.look.slotY } := by
  have hd : s.look.definitions = s.definitions := by
    have started : ∀ i, (s.startEntry i).definitions = s.definitions := by
      intro i
      cases hi : s.queue[i]? with
      | none => simp [State.startEntry, hi]
      | some e =>
        rw [State.startEntry_eq hi]
        cases e.region with
        | none => rfl
        | some j =>
          show (s.drainUp j).definitions = s.definitions
          exact s.definitions_modifyLease j _
    rcases s.look_cases with h1 | ⟨-, i, -, h1⟩ | ⟨-, i, -, h1⟩ | ⟨-, -, h1⟩ | ⟨-, -, -, h1⟩ <;> rw [h1]
    · exact started i
    · exact started i
    · unfold State.orderSuspend
      split <;> rfl
    · unfold State.resumeErase
      split <;> rfl
  unfold State.core
  rw [hd, s.look_eq]
  rfl

/-- A look leaves the current slot, and of the other at most the mark goes. -/
theorem State.look_slot (s : State) (n : SlotName) :
    s.look.slot n = s.slot n ∨ n = s.commitSlot ∧ s.look.slot n = { s.slot n with mark := false } := by
  have started : ∀ i, (s.startEntry i).slot n = s.slot n ∨
      n = s.commitSlot ∧ (s.startEntry i).slot n = { s.slot n with mark := false } := by
    intro i
    cases hi : s.queue[i]? with
    | none => exact .inl (by simp [State.startEntry, hi])
    | some e =>
      rw [State.startEntry_eq hi]
      by_cases hk : e.kind = .mapCommit
      · have hslot : s.beginSlotWrite.slot n =
            if n = s.commitSlot then { s.slot s.commitSlot with mark := false } else s.slot n := s.slot_setSlot _ _ _
        simp only [hk, if_true]
        by_cases hn : n = s.commitSlot
        · refine .inr ⟨hn, ?_⟩
          rw [if_pos hn, ← hn] at hslot
          cases n <;> exact hslot
        · refine .inl ?_
          rw [if_neg hn] at hslot
          cases n <;> exact hslot
      · refine .inl ?_
        simp only [hk, if_false]
        cases n <;> rfl
  rcases s.look_cases with h1 | ⟨-, i, -, h1⟩ | ⟨-, i, -, h1⟩ | ⟨-, -, h1⟩ | ⟨-, -, -, h1⟩ <;> rw [h1]
  · exact .inl rfl
  · exact started i
  · exact started i
  · refine .inl ?_
    unfold State.orderSuspend
    split <;> cases n <;> rfl
  · refine .inl ?_
    unfold State.resumeErase
    split <;> cases n <;> rfl

/-- With no entry a look does nothing. -/
theorem State.look_of_empty (h : s.queue = []) : s.look = s := by
  have hparked : s.parkedErase = none := by
    unfold State.parkedErase State.parkedIndex State.entryAt
    split <;> simp [h]
  have hactive : s.activeEntry = none := by
    unfold State.activeEntry State.activeIndex State.entryAt
    split <;> simp [h]
  rcases s.look_cases with h1 | ⟨-, i, h2, -⟩ | ⟨-, i, h2, -⟩ | ⟨-, h2, -⟩ | ⟨-, -, h2, -⟩
  · exact h1
  · simp [State.selectAny, h, firstHighest] at h2
  · simp [State.selectOver, hparked] at h2
  · simp [State.pressureTest, hactive] at h2
  · simp [State.resumeTest, hparked] at h2

/-! ### The end of an entry -/

theorem State.commitDone_core {m : MapImage} (h : s.commitImage = some m) :
    s.commitDone.core = { s.core with
      authority := m.authority
      currentSlot := some s.commitSlot
      generation := s.generation + 1
      mapDefaulted := false
      slotX := (s.setSlot s.commitSlot ⟨m, s.generation + 1, true⟩).slotX
      slotY := (s.setSlot s.commitSlot ⟨m, s.generation + 1, true⟩).slotY
      definitions := regionIndices.map (fun i =>
        (applyDefinition (s.region i) (m.regions[i]?).join).map (fun r => r.definition))
      profiles := m.profiles } := by
  have hp : s.commitDone.profiles = m.profiles := PerPort.ext_get fun q => by
    rw [State.profiles_get, State.commitDone_some h]
    have hport := s.port_loadProfiles_postAll m.profiles .mapChanged q
    generalize ((s.loadProfiles m.profiles).postAll .mapChanged) = u at hport
    show (u.port q).profile = m.profiles.get q
    rw [hport]
  have hd : s.commitDone.definitions = regionIndices.map (fun i =>
      (applyDefinition (s.region i) (m.regions[i]?).join).map (fun r => r.definition)) := by
    rw [State.definitions, State.commitDone_some h]
    simp only [List.map_map]
    rfl
  unfold State.core
  rw [hp, hd, State.commitDone_some h]

theorem State.commitFailed_core (s : State) : s.commitFailed.core = s.core := by
  have h := s.unfreezeAll_core
  unfold State.commitFailed
  generalize s.unfreezeAll = u at h
  exact h

/-- The neighbours of an ended entry keep the device and the map, unless a commit ended DONE. -/
theorem State.endInNeighbours_core (s : State) (e : Entry) (outcome : EndOutcome) :
    (s.endInNeighbours e outcome).core = s.core ∨
      e.kind = .mapCommit ∧ outcome = .done ∧ s.endInNeighbours e outcome = s.commitDone := by
  unfold State.endInNeighbours
  split
  · next hk =>
    cases outcome with
    | done => exact .inr ⟨hk, rfl, rfl⟩
    | failed => exact .inl s.commitFailed_core
  · split
    · exact .inl (s.drainDown_core _)
    · exact .inl rfl

/-- R56: the state in which the array and the buffer of an ended entry are as it leaves them. -/
def State.endedArray (s : State) (i : Nat) (e : Entry) (outcome : EndOutcome) : State :=
  (({ s with queue := s.queue.eraseIdx i } : State).endInArray e outcome).freeEntryBuffer e

theorem State.endedArray_eq (s : State) (i : Nat) (e : Entry) (outcome : EndOutcome) :
    s.endedArray i e outcome = { s with
      queue := s.queue.eraseIdx i
      mem := (s.endedArray i e outcome).mem
      unsettled := (s.endedArray i e outcome).unsettled
      buffers := (s.endedArray i e outcome).buffers } := by
  unfold State.endedArray
  rw [State.freeEntryBuffer_eq, State.endInArray_eq]

theorem State.endEntry_core_eq (s : State) (i : Nat) (e : Entry) (outcome : EndOutcome) :
    (s.endEntry i e outcome).core = ((s.endedArray i e outcome).endInNeighbours e outcome).core := by
  have hrec : (if e.orphaned then s.ended i e outcome
      else (s.ended i e outcome).postRecord e (endStatus e.kind outcome)).core = (s.ended i e outcome).core := by
    split
    · rfl
    · exact State.postRecord_core _ _ _
  rw [State.endEntry_eq]
  exact hrec

/-- The end of an entry leaves device and map, unless it is a commit's that ends DONE with its image. -/
theorem State.endEntry_core (s : State) (i : Nat) (e : Entry) (outcome : EndOutcome) :
    (s.endEntry i e outcome).core = { s.core with mem := (s.endEntry i e outcome).mem } ∨
      e.kind = .mapCommit ∧ outcome = .done ∧ ∃ m, s.commitImage = some m ∧
        (s.endEntry i e outcome).core = { s.core with
          mem := (s.endEntry i e outcome).mem
          authority := m.authority
          currentSlot := some s.commitSlot
          generation := s.generation + 1
          mapDefaulted := false
          slotX := (s.setSlot s.commitSlot ⟨m, s.generation + 1, true⟩).slotX
          slotY := (s.setSlot s.commitSlot ⟨m, s.generation + 1, true⟩).slotY
          definitions := regionIndices.map (fun i =>
            (applyDefinition (s.region i) (m.regions[i]?).join).map (fun r => r.definition))
          profiles := m.profiles } := by
  have hcore := s.endEntry_core_eq i e outcome
  have hmem : (s.endEntry i e outcome).mem = ((s.endedArray i e outcome).endInNeighbours e outcome).core.mem :=
    congrArg Core.mem hcore
  have harray := s.endedArray_eq i e outcome
  rw [hcore, hmem]
  generalize s.endedArray i e outcome = u at harray
  rcases u.endInNeighbours_core e outcome with h | ⟨hk, hd, h⟩
  · rw [h, harray]
    exact .inl rfl
  · rw [h]
    cases hm : u.commitImage with
    | none =>
      rw [State.commitDone_none hm, harray]
      exact .inl rfl
    | some m =>
      refine .inr ⟨hk, hd, m, ?_, ?_⟩
      · rw [harray] at hm
        exact hm
      · rw [State.commitDone_core hm, harray]
        cases hs : s.currentSlot with
        | none => simp only [State.commitSlot, hs, State.setSlot]; rfl
        | some n => cases n <;> simp only [State.commitSlot, hs, State.setSlot] <;> rfl

/-- The device is not the end of an entry's. -/
theorem State.endEntry_device (s : State) (i : Nat) (e : Entry) (outcome : EndOutcome) :
    let t := s.endEntry i e outcome
    t.device = s.device ∧ t.startUpSteps = s.startUpSteps ∧ t.resetLow = s.resetLow ∧ t.supply = s.supply ∧
      t.leaseClock = s.leaseClock ∧ t.stopping = s.stopping := by
  rcases s.endEntry_core i e outcome with h | ⟨-, -, m, -, h⟩
  · exact ⟨congrArg Core.device h, congrArg Core.startUpSteps h, congrArg Core.resetLow h, congrArg Core.supply h,
      congrArg Core.leaseClock h, congrArg Core.stopping h⟩
  · exact ⟨congrArg Core.device h, congrArg Core.startUpSteps h, congrArg Core.resetLow h, congrArg Core.supply h,
      congrArg Core.leaseClock h, congrArg Core.stopping h⟩

end Sys2Proof.Machine
end

section
/-! The engine, its entries, the banks and the read window: the moves that touch them. -/

namespace Sys2Proof.Machine

variable {a : Actor} {p : Port} {s t : State}

/-! ### QUEUED entries that leave -/

/-- QUEUED entries have left the queue, and entries may be orphaned. -/
inductive Thinned : List Entry → List Entry → Prop
  | nil : Thinned [] []
  | gone {e : Entry} {q r : List Entry} (he : e.isQueued = true) (h : Thinned q r) : Thinned (e :: q) r
  | kept {q r : List Entry} (e : Entry) (b : Bool) (h : Thinned q r) :
      Thinned (e :: q) ({ e with orphaned := b } :: r)

theorem Thinned.keep {q r : List Entry} (e : Entry) (h : Thinned q r) : Thinned (e :: q) (e :: r) :=
  .kept e e.orphaned h

theorem Thinned.refl : ∀ q : List Entry, Thinned q q
  | [] => .nil
  | e :: q => .keep e (Thinned.refl q)

theorem Thinned.filter {f : Entry → Bool} {q : List Entry} (h : ∀ e ∈ q, f e = false → e.isQueued = true) :
    Thinned q (q.filter f) := by
  induction q with
  | nil => exact .nil
  | cons e q ih =>
    have hq := ih fun x hx => h x (List.mem_cons_of_mem e hx)
    cases hf : f e with
    | true =>
      rw [List.filter_cons_of_pos hf]
      exact .keep e hq
    | false =>
      rw [List.filter_cons_of_neg (by simp [hf])]
      exact .gone (h e List.mem_cons_self hf) hq

theorem Thinned.eraseIdx {q : List Entry} {i : Nat} {e : Entry} (hi : q[i]? = some e) (he : e.isQueued = true) :
    Thinned q (q.eraseIdx i) := by
  induction q generalizing i with
  | nil => simp at hi
  | cons x q ih =>
    cases i with
    | zero =>
      simp only [List.getElem?_cons_zero, Option.some.injEq] at hi
      subst hi
      exact .gone he (.refl q)
    | succ i => exact .keep x (ih hi)

/-- Entries of the thinned queue are entries of the queue, but for the orphan mark. -/
theorem Thinned.mem {q r : List Entry} (h : Thinned q r) {e : Entry} (he : e ∈ r) :
    ∃ x ∈ q, ∃ b, e = { x with orphaned := b } := by
  induction h with
  | nil => cases he
  | gone _ _ ih =>
    obtain ⟨x, hx, hb⟩ := ih he
    exact ⟨x, List.mem_cons_of_mem _ hx, hb⟩
  | kept y b _ ih =>
    rcases List.mem_cons.1 he with rfl | he
    · exact ⟨y, List.mem_cons_self, b, rfl⟩
    · obtain ⟨x, hx, hb⟩ := ih he
      exact ⟨x, List.mem_cons_of_mem _ hx, hb⟩

/-- Counts of entries that are not QUEUED stay. -/
theorem Thinned.countP {q r : List Entry} (h : Thinned q r) {f : Entry → Bool}
    (hb : ∀ (e : Entry) b, f { e with orphaned := b } = f e) (hq : ∀ e : Entry, e.isQueued = true → f e = false) :
    r.countP f = q.countP f := by
  induction h with
  | nil => rfl
  | gone he _ ih => rw [ih, List.countP_cons, hq _ he]; simp
  | kept e b _ ih => rw [List.countP_cons, List.countP_cons, ih, hb]

/-! ### The engine's part of the state -/

/-- The queue, the engine state, the read window, the noted request, and the items of an unfinished cut-off. -/
structure Work where
  queue : List Entry
  engine : EngineState
  window : Option Nat
  noted : Option Nat
  stopping : List InterruptedItem

def State.work (s : State) : Work := ⟨s.queue, s.engine, s.window, s.noted, s.stopping⟩

theorem State.work_iff (s : State) (w : Work) : s.work = w ↔ s.queue = w.queue ∧ s.engine = w.engine ∧
    s.window = w.window ∧ s.noted = w.noted ∧ s.stopping = w.stopping := by
  constructor
  · rintro rfl
    exact ⟨rfl, rfl, rfl, rfl, rfl⟩
  · rintro ⟨h1, h2, h3, h4, h5⟩
    rw [State.work, h1, h2, h3, h4, h5]

theorem OnlyLeases.work (h : OnlyLeases s t) : t.work = s.work := by
  rw [h.eq]
  rfl

theorem OnlyLeases.holders (h : OnlyLeases s t) : t.holders = s.holders := by
  rw [h.eq]

/-- R45: which entries an engine state has. -/
def EngineState.hasActive : EngineState → Bool
  | .busy => true
  | .suspending => true
  | .busyParked => true
  | _ => false

def EngineState.hasParked : EngineState → Bool
  | .parked => true
  | .busyParked => true
  | _ => false

theorem State.activeIndex_eq (s : State) :
    s.activeIndex = if s.engine.hasActive then s.queue.findIdx? Entry.isActive else none := by
  unfold State.activeIndex
  cases s.engine <;> rfl

theorem State.parkedIndex_eq (s : State) :
    s.parkedIndex = if s.engine.hasParked then s.queue.findIdx? Entry.isParked else none := by
  unfold State.parkedIndex
  cases s.engine <;> rfl

theorem findIdx?_some {α : Type} {f : α → Bool} {l : List α} {i : Nat} (h : l.findIdx? f = some i) :
    ∃ x, l[i]? = some x ∧ f x = true := by
  obtain ⟨hlt, hf, -⟩ := List.findIdx?_eq_some_iff_getElem.1 h
  exact ⟨l[i], List.getElem?_eq_getElem hlt, hf⟩

theorem State.activeIndex_some {i : Nat} (h : s.activeIndex = some i) :
    s.engine.hasActive = true ∧ ∃ e, s.queue[i]? = some e ∧ e.isActive = true ∧ s.activeEntry = some e := by
  have heq := s.activeIndex_eq
  rw [h] at heq
  cases hg : s.engine.hasActive with
  | false => simp [hg] at heq
  | true =>
    rw [hg, if_pos rfl] at heq
    obtain ⟨e, he, hactive⟩ := findIdx?_some heq.symm
    exact ⟨rfl, e, he, hactive, by simp [State.activeEntry, State.entryAt, h, he]⟩

theorem State.parkedIndex_some {i : Nat} (h : s.parkedIndex = some i) :
    s.engine.hasParked = true ∧ ∃ e, s.queue[i]? = some e ∧ e.isParked = true ∧ s.parkedErase = some e := by
  have heq := s.parkedIndex_eq
  rw [h] at heq
  cases hg : s.engine.hasParked with
  | false => simp [hg] at heq
  | true =>
    rw [hg, if_pos rfl] at heq
    obtain ⟨e, he, hparked⟩ := findIdx?_some heq.symm
    exact ⟨rfl, e, he, hparked, by simp [State.parkedErase, State.entryAt, h, he]⟩

theorem State.activeEntry_some {e : Entry} (h : s.activeEntry = some e) :
    s.engine.hasActive = true ∧ ∃ i, s.activeIndex = some i ∧ s.queue[i]? = some e ∧ e.isActive = true := by
  cases hi : s.activeIndex with
  | none => simp [State.activeEntry, State.entryAt, hi] at h
  | some i =>
    obtain ⟨hg, x, hx, hactive, he⟩ := State.activeIndex_some hi
    rw [h, Option.some.injEq] at he
    subst he
    exact ⟨hg, i, rfl, hx, hactive⟩

theorem State.parkedErase_some {e : Entry} (h : s.parkedErase = some e) :
    s.engine.hasParked = true ∧ ∃ i, s.parkedIndex = some i ∧ s.queue[i]? = some e ∧ e.isParked = true := by
  cases hi : s.parkedIndex with
  | none => simp [State.parkedErase, State.entryAt, hi] at h
  | some i =>
    obtain ⟨hg, x, hx, hparked, he⟩ := State.parkedIndex_some hi
    rw [h, Option.some.injEq] at he
    subst he
    exact ⟨hg, i, rfl, hx, hparked⟩

theorem State.activeEntry_of_mem {e : Entry} (hg : s.engine.hasActive = true) (he : e ∈ s.queue)
    (h : e.isActive = true) : ∃ x, s.activeEntry = some x := by
  cases hi : s.queue.findIdx? Entry.isActive with
  | none => exact absurd h (by simpa using List.findIdx?_eq_none_iff.1 hi e he)
  | some i =>
    have hindex : s.activeIndex = some i := by rw [State.activeIndex_eq, if_pos hg, hi]
    obtain ⟨-, x, -, -, hx⟩ := State.activeIndex_some hindex
    exact ⟨x, hx⟩

theorem State.parkedErase_of_mem {e : Entry} (hg : s.engine.hasParked = true) (he : e ∈ s.queue)
    (h : e.isParked = true) : ∃ x, s.parkedErase = some x := by
  cases hi : s.queue.findIdx? Entry.isParked with
  | none => exact absurd h (by simpa using List.findIdx?_eq_none_iff.1 hi e he)
  | some i =>
    have hindex : s.parkedIndex = some i := by rw [State.parkedIndex_eq, if_pos hg, hi]
    obtain ⟨-, x, -, -, hx⟩ := State.parkedIndex_some hindex
    exact ⟨x, hx⟩

/-- With no entry nothing is active. -/
theorem State.activeIndex_of_empty (h : s.queue = []) : s.activeIndex = none := by
  rw [State.activeIndex_eq, h]
  simp

/-! ### The moves that touch it -/

theorem State.freeEntryBuffer_work (s : State) (e : Entry) : (s.freeEntryBuffer e).work = s.work := by
  rw [State.freeEntryBuffer_eq]
  rfl

theorem State.freeEntryBuffer_holders (s : State) (e : Entry) : (s.freeEntryBuffer e).holders = s.holders := by
  rw [State.freeEntryBuffer_eq]

theorem State.dropCommit_work (s : State) : s.dropCommit.work = s.work := s.dropCommit_leases.work

theorem State.dropCommit_holders (s : State) : s.dropCommit.holders = s.holders := s.dropCommit_leases.holders

theorem State.cancelEntry_work (s : State) (i : Nat) (e : Entry) :
    (s.cancelEntry i e).work = { s.work with queue := s.queue.eraseIdx i } := by
  have left : ((({ s with queue := s.queue.eraseIdx i } : State).freeEntryBuffer e).postRecord e .cancelled).work =
      { s.work with queue := s.queue.eraseIdx i } := State.freeEntryBuffer_work _ e
  unfold State.cancelEntry
  dsimp only
  split
  · exact (State.dropCommit_work _).trans left
  · exact left

theorem State.cancelEntry_holders (s : State) (i : Nat) (e : Entry) : (s.cancelEntry i e).holders = s.holders := by
  have left : ((({ s with queue := s.queue.eraseIdx i } : State).freeEntryBuffer e).postRecord e .cancelled).holders =
      s.holders := State.freeEntryBuffer_holders _ e
  unfold State.cancelEntry
  dsimp only
  split
  · exact (State.dropCommit_holders _).trans left
  · exact left

theorem State.loseEntries_work (s : State) (p : Port) (i : Nat) :
    (s.loseEntries p i).work = { s.work with queue := s.queue.filter (fun e => !e.queuedIn p i) } := by
  rw [State.loseEntries_eq]
  rfl

theorem State.resetQueue_work (s : State) (p : Port) :
    (s.resetQueue p).work = { s.work with queue := (s.resetQueue p).queue } := by
  obtain ⟨image, h⟩ := s.resetQueue_leases p
  have hwork := h.work
  exact hwork

theorem State.resetQueue_holders (s : State) (p : Port) : (s.resetQueue p).holders = s.holders := by
  obtain ⟨image, h⟩ := s.resetQueue_leases p
  exact h.holders

theorem State.resetQueue_thinned (s : State) (p : Port) : Thinned s.queue (s.resetQueue p).queue := by
  rw [State.resetQueue_queue]
  induction s.queue with
  | nil => exact .nil
  | cons e q ih =>
    by_cases hgone : (decide (e.port = p) && e.isQueued) = true
    · rw [List.filter_cons_of_neg (by simpa using hgone)]
      exact .gone (Bool.and_eq_true_iff.1 hgone).2 ih
    · rw [List.filter_cons_of_pos (by simpa [imp_iff_not_or] using hgone), List.map_cons]
      by_cases hp : e.port = p
      · rw [if_pos hp]
        exact .kept e true ih
      · rw [if_neg hp]
        exact .keep e ih

theorem State.commitDone_work (s : State) : s.commitDone.work = s.work := by
  cases h : s.commitImage with
  | none => rw [State.commitDone_none h]
  | some m =>
    rw [State.commitDone_some h]
    rfl

theorem State.commitDone_holders (s : State) : s.commitDone.holders = s.holders := by
  cases h : s.commitImage with
  | none => rw [State.commitDone_none h]
  | some m => rw [State.commitDone_some h]

theorem State.endInNeighbours_work (s : State) (e : Entry) (outcome : EndOutcome) :
    (s.endInNeighbours e outcome).work = s.work ∧ (s.endInNeighbours e outcome).holders = s.holders := by
  unfold State.endInNeighbours
  split
  · cases outcome with
    | done => exact ⟨s.commitDone_work, s.commitDone_holders⟩
    | failed => exact ⟨s.commitFailed_leases.work, s.commitFailed_leases.holders⟩
  · split
    · exact ⟨(OnlyLeases.drainDown s _).work, (OnlyLeases.drainDown s _).holders⟩
    · exact ⟨rfl, rfl⟩

theorem State.ended_eq (s : State) (i : Nat) (e : Entry) (outcome : EndOutcome) :
    s.ended i e outcome = (s.endedArray i e outcome).endInNeighbours e outcome := rfl

theorem State.ended_work (s : State) (i : Nat) (e : Entry) (outcome : EndOutcome) :
    (s.ended i e outcome).work = { s.work with queue := s.queue.eraseIdx i } ∧
      (s.ended i e outcome).holders = s.holders := by
  have harray := s.endedArray_eq i e outcome
  rw [State.ended_eq]
  generalize s.endedArray i e outcome = u at harray
  obtain ⟨hwork, hholders⟩ := u.endInNeighbours_work e outcome
  rw [hwork, hholders, harray]
  exact ⟨rfl, rfl⟩

theorem State.endEntry_work (s : State) (i : Nat) (e : Entry) (outcome : EndOutcome) :
    (s.endEntry i e outcome).work =
        { s.work with
          queue := s.queue.eraseIdx i
          engine := s.engine.ended
          noted := if s.engine = .suspending then none else s.noted } ∧
      (s.endEntry i e outcome).holders = s.holders := by
  have hended := s.ended_work i e outcome
  have hrec : (if e.orphaned then s.ended i e outcome
      else (s.ended i e outcome).postRecord e (endStatus e.kind outcome)).work =
        { s.work with queue := s.queue.eraseIdx i } ∧ (if e.orphaned then s.ended i e outcome
      else (s.ended i e outcome).postRecord e (endStatus e.kind outcome)).holders = s.holders := by
    split
    · exact hended
    · exact hended
  rw [State.endEntry_eq]
  generalize (if e.orphaned then s.ended i e outcome
      else (s.ended i e outcome).postRecord e (endStatus e.kind outcome)) = u at hrec
  obtain ⟨hwork, hholders⟩ := hrec
  obtain ⟨hq, -, hw, hn, hstop⟩ := (State.work_iff _ _).1 hwork
  refine ⟨(State.work_iff _ _).2 ⟨hq, rfl, hw, ?_, hstop⟩, hholders⟩
  show (if s.engine = .suspending then none else u.noted) = _
  rw [hn]
  rfl

theorem State.released_work (s : State) (p : Port) : (s.released p).work = s.work := by
  rw [State.released_eq]
  rfl

/-- A stream that lets go raises no count. -/
theorem State.released_holders (s : State) (p : Port) (k : Fin 4) (h : s.holders.get k = 0) :
    (s.released p).holders.get k = 0 := by
  unfold State.released State.releaseHeld
  split
  · split
    · next j _ =>
      unfold State.releaseBank
      by_cases hk : k = j
      · subst hk
        simp [h]
      · rw [BankCounts.get_set_ne _ _ hk]
        exact h
    · exact h
  · exact h

/-- The moves, as far as the engine, its entries and the banks are concerned. -/
inductive WorkMove (s : State) : State → Prop
  | still {t : State} (h : t.work = s.work)
      (hh : ∀ k, s.activeBank = some k → s.holders.get k = 0 → t.holders.get k = 0) : WorkMove s t
  | look : WorkMove s s.look
  | request {p : Port} {x : Addr} (h : s.raisesRequest p x = true) :
      WorkMove s (s.requestSuspend (s.port p).profile.window)
  | append {t : State} (e : Entry) (h : t.work = { s.work with queue := s.queue ++ [e] }) (hh : t.holders = s.holders)
      (hd : s.device = .ready) (hq : e.state = .queued) (hrange : s.profileLaw = true → e.rangeLaw = true)
      (htarget : e.targetLaw = true) : WorkMove s t
  | thin {t : State} (q : List Entry) (h : t.work = { s.work with queue := q }) (hh : t.holders = s.holders)
      (hq : Thinned s.queue q) : WorkMove s t
  | endEntry {t : State} {i : Nat} {e : Entry} (hstop : s.stopping = []) (hi : s.activeIndex = some i)
      (he : s.queue[i]? = some e)
      (h : t.work = { s.work with
        queue := s.queue.eraseIdx i
        engine := s.engine.ended
        noted := if s.engine = .suspending then none else s.noted }) (hh : t.holders = s.holders) : WorkMove s t
  | park {i : Nat} (hstop : s.stopping = []) (heng : s.engine = .suspending) (hi : s.activeIndex = some i) :
      WorkMove s (s.parkErase i)
  | window {t : State} (w : Option Nat) (h : t.work = { s.work with window := w }) (hh : t.holders = s.holders)
      (hw : w = none ∨ ∃ v, s.window = some v ∧ 1 < v ∧ w = some (v - 1)) : WorkMove s t
  | power {t : State} (h : t.work = ⟨[], .idle, none, none, []⟩) : WorkMove s t
  | fall {items : List InterruptedItem}
      (hi : s.stopping ≠ [] ∧ items = s.stopping ∨ s.stopping = [] ∧ items = s.cutOffItems) :
      WorkMove s (s.atReset items)
  | arrayStops : WorkMove s s.arrayStops

/-- Where work and counts stay. -/
theorem WorkMove.of_eq (h : t.work = s.work) (hh : t.holders = s.holders) : WorkMove s t :=
  .still h fun k _ hk => by rw [hh, hk]

theorem State.setFrame_work (s : State) (p : Port) (f : FrameState) : (s.setFrame p f).work = s.work := rfl

/-- R28, R150: classes and targets of a submission are in range. -/
theorem State.ceiling_le (h : s.profileLaw = true) (p : Port) : (s.port p).profile.ceiling ≤ 3 := by
  have hp := s.profileLaw_port h p
  simp only [Profile.inRange, Bool.and_eq_true, decide_eq_true_eq] at hp
  exact hp.1

theorem State.window_le (h : s.profileLaw = true) (p : Port) : (s.port p).profile.window ≤ 15 := by
  have hp := s.profileLaw_port h p
  simp only [Profile.inRange, Bool.and_eq_true, decide_eq_true_eq] at hp
  exact hp.2

theorem rangeLaw_queued {e : Entry} (hr : e.requestedClass ≤ 3) (hc : e.effectiveClass ≤ 3) (hb : e.bypass = 0)
    (hs : e.suspendCount = 0) (hq : e.state = .queued) : e.rangeLaw = true := by
  simp [Entry.rangeLaw, hr, hc, hb, hs, hq]

theorem State.cappedClass_le {cls : Byte} (h : cls.toNat ≤ 3) : s.cappedClass p cls ≤ 3 :=
  (Nat.min_le_left _ _).trans h

theorem pageOf_lt (x : Addr) : pageOf x < 65536 := by
  unfold pageOf Config.pageBytes
  omega

theorem sectorOf_lt (x : Addr) : sectorOf x < 4096 := by
  unfold sectorOf Config.sectorBytes
  omega

theorem blockOf_lt (x : Addr) : blockOf x < 256 := by
  unfold blockOf Config.blockBytes
  omega

theorem State.acceptProgram_work (s : State) (p : Port) (handle : Byte) (addr : Addr) (tag cls : Byte) :
    (s.acceptProgram p handle addr tag cls).work =
      { s.work with queue := (s.acceptProgram p handle addr tag cls).queue } ∧
    (s.acceptProgram p handle addr tag cls).holders = s.holders := by
  unfold State.acceptProgram
  dsimp only
  split <;> exact ⟨rfl, rfl⟩

theorem Move.workMove (h : Move a s t) : WorkMove s t := by
  cases h with
  | taken l is ha => exact .of_eq rfl rfl
  | unread pages n => exact .of_eq rfl rfl
  | own ha h => exact .of_eq rfl rfl
  | post p k => exact .of_eq rfl rfl
  | signal v ha hd he => exact .of_eq rfl rfl
  | look => exact .look
  | clearInterrupted => exact .of_eq rfl rfl
  | fill st b ha hf => exact .still (s.released_work _) fun k _ => s.released_holders _ k
  | @hold p st ha hf hc =>
    refine .still (s.released_work _) fun k hk h0 => ?_
    have hne : k ≠ bankOf st.current := by
      rintro rfl
      simp [State.readConflict, hk] at hc
    show ((s.released p).holders.set _ _).get k = 0
    rw [BankCounts.get_set_ne _ _ hne]
    exact s.released_holders _ k h0
  | close ha hf => exact .still (s.released_work _) fun k _ => s.released_holders _ k
  | request h => exact .request h
  | load b offset data => exact .of_eq rfl rfl
  | allocate offset data ha hle hnone hfree hown => exact .of_eq rfl rfl
  | discard ha hle hb => exact .of_eq rfl rfl
  | @program p handle addr tag cls ha hd hok =>
    obtain ⟨hclass, -, -, -, -⟩ := State.programChecks_pass hok
    obtain ⟨hwork, hholders⟩ := s.acceptProgram_work p handle addr tag cls
    rw [State.acceptProgram_queue] at hwork
    refine .append _ hwork hholders hd rfl (fun _ => rangeLaw_queued hclass (State.cappedClass_le hclass) rfl rfl rfl) ?_
    simp [Entry.targetLaw, Target.inRange, pageOf_lt]
  | @sectorErase p addr tag cls hd hok =>
    obtain ⟨hclass, -⟩ := State.eraseChecks_pass hok
    refine .append _ rfl rfl hd rfl (fun _ => rangeLaw_queued hclass (State.cappedClass_le hclass) rfl rfl rfl) ?_
    simp [Entry.targetLaw, Target.inRange, sectorOf_lt]
  | @blockErase p addr tag cls hd hok =>
    obtain ⟨hclass, -⟩ := State.eraseChecks_pass hok
    refine .append _ rfl rfl hd rfl (fun _ => rangeLaw_queued hclass (State.cappedClass_le hclass) rfl rfl rfl) ?_
    simp [Entry.targetLaw, Target.inRange, blockOf_lt]
  | @commit p tag hd hok =>
    obtain ⟨m, hm, -⟩ := State.commitChecks_pass hok
    have hwork := (s.frozen_leases m).work
    have hholders := (s.frozen_leases m).holders
    rw [State.acceptCommit_some hm]
    generalize s.frozen m = u at hwork hholders
    have hqueue : u.queue = s.queue := congrArg Work.queue hwork
    refine .append ⟨p, tag, .mapCommit, none, none, none, (s.port p).profile.ceiling, (s.port p).profile.ceiling, 0,
      .queued, false, 0, u.arrival⟩ ?_ hholders hd rfl
      (fun h => rangeLaw_queued (State.ceiling_le h p) (State.ceiling_le h p) rfl rfl rfl) rfl
    obtain ⟨-, he, hw, hn, hstop⟩ := (State.work_iff _ _).1 hwork
    refine (State.work_iff _ _).2 ⟨congrArg (· ++ [_]) hqueue, he, hw, hn, hstop⟩
  | @cancel p i e ha hi he hp =>
    exact .thin _ (s.cancelEntry_work i e) (s.cancelEntry_holders i e) (.eraseIdx hi he)
  | @lose p i r ha hr hh =>
    refine .thin _ (s.loseEntries_work p i) ?_ (.filter fun e _ he => ?_)
    · rw [State.loseEntries_eq]
    · simp only [Entry.queuedIn, Bool.not_eq_false', Bool.and_eq_true] at he
      exact he.1.1
  | resetQueue p => exact .thin _ (s.resetQueue_work p) (s.resetQueue_holders p) (s.resetQueue_thinned p)
  | @resetHandles p ha =>
    rw [State.resetHandles_eq]
    exact .of_eq rfl rfl
  | take hr hm hs => exact .of_eq rfl rfl
  | wait hr hm hs hh hw => exact .of_eq rfl rfl
  | renew hr hh => exact .of_eq rfl rfl
  | leave p i => exact .of_eq rfl rfl
  | endLease hr hh hq => exact .of_eq (OnlyLeases.endLease s _).work (OnlyLeases.endLease s _).holders
  | tick hr hs hn => exact .of_eq rfl rfl
  | stage h => exact .of_eq rfl rfl
  | endEntry outcome ha hstop hi he =>
    obtain ⟨hwork, hholders⟩ := s.endEntry_work _ _ outcome
    exact .endEntry hstop hi he hwork hholders
  | park hstop heng hi => exact .park hstop heng hi
  | windowStep hw h1 => exact .window _ rfl rfl (.inr ⟨_, hw, h1, rfl⟩)
  | windowClose => exact .window none rfl rfl (.inl rfl)
  | supply h hx => exact .of_eq rfl rfl
  | power ha h => exact .power rfl
  | fallUnpowered h => exact .of_eq rfl rfl
  | fall ha hlow h hi => exact .fall hi
  | riseUnpowered h => exact .of_eq rfl rfl
  | rise ha hlow h => exact .of_eq rfl rfl
  | arrayStops => exact .arrayStops
  | @startUp k mv ha hd hlow hs hstop hk => cases k <;> exact .of_eq rfl rfl

end Sys2Proof.Machine
end

section
/-! The laws of device, supply, RESET#, slots and mailboxes (R90, R129, R135 to R137, R156, R176 to R178). -/

namespace Sys2Proof.Machine

variable {a : Actor} {p : Port} {s t : State}

/-! ### What a move does to a port's frame, lines and mailbox -/

/-- A change of a port that keeps its laws of the frame and fills no mailbox. -/
structure PortState.Tame (q r : PortState) : Prop where
  mailbox : r.mailbox = q.mailbox ∨ r.mailbox = none
  inert : r.frame = .inert ↔ q.frame = .inert
  holds : ∀ k, r.holds k = q.holds k
  stream : q.streamLaw = true → r.streamLaw = true
  line : q.lineLaw = true → r.lineLaw = true

theorem PortState.Quiet.tame {q r : PortState} (h : q.Quiet r) : q.Tame r := ⟨h.mailbox, h.inert, h.holds, h.stream, h.line⟩

theorem PortState.Tame.of_eq {q r : PortState} (hf : r.frame = q.frame) (hs : r.shift = q.shift)
    (hc : r.csLow = q.csLow) (hm : r.mailbox = q.mailbox ∨ r.mailbox = none) : q.Tame r where
  mailbox := hm
  inert := by rw [hf]
  holds k := by simp only [PortState.holds, hf]
  stream h := by simpa only [PortState.streamLaw, hf] using h
  line h := by simpa only [PortState.lineLaw, hf, hs, hc] using h

theorem PortState.Tame.refl (q : PortState) : q.Tame q := .of_eq rfl rfl rfl (.inl rfl)

theorem State.tame_of_ports (h : t.ports = s.ports) (q : Port) : (s.port q).Tame (t.port q) := by
  rw [State.port, State.port, h]
  exact .refl _

theorem State.tame_of_leases (h : OnlyLeases s t) (q : Port) : (s.port q).Tame (t.port q) := by
  rw [h.port_eq q]
  exact .of_eq rfl rfl rfl (.inl rfl)

theorem State.tame_modifyPort {f : PortState → PortState} (h : (s.port p).Tame (f (s.port p))) (q : Port) :
    (s.port q).Tame ((s.modifyPort p f).port q) := by
  rw [State.port_modifyPort]
  split
  · next hq =>
    subst hq
    exact h
  · exact .refl _



theorem PortState.Tame.trans {q r u : PortState} (h : q.Tame r) (k : r.Tame u) : q.Tame u where
  mailbox := by
    rcases k.mailbox with h1 | h1
    · rw [h1]
      exact h.mailbox
    · exact .inr h1
  inert := k.inert.trans h.inert
  holds j := (k.holds j).trans (h.holds j)
  stream hq := k.stream (h.stream hq)
  line hq := k.line (h.line hq)

theorem State.postRecord_tame (s : State) (e : Entry) (x : Status) (q : Port) :
    (s.port q).Tame ((s.postRecord e x).port q) := by
  unfold State.postRecord
  exact State.tame_modifyPort (.of_eq rfl rfl rfl (.inl rfl)) q

theorem State.freeEntryBuffer_ports (s : State) (e : Entry) : (s.freeEntryBuffer e).ports = s.ports := by
  rw [State.freeEntryBuffer_eq]

theorem State.foldl_loseEntry_tame (es : List Entry) (q : Port) :
    ∀ s : State, (s.port q).Tame ((es.foldl State.loseEntry s).port q) := by
  induction es with
  | nil => exact fun s => .refl _
  | cons e es ih =>
    intro s
    have first : (s.port q).Tame ((s.loseEntry e).port q) :=
      (State.tame_of_ports (s.freeEntryBuffer_ports e) q).trans (State.postRecord_tame _ _ _ _)
    exact first.trans (ih _)

theorem State.loseEntries_tame (s : State) (p : Port) (i : Nat) (q : Port) :
    (s.port q).Tame ((s.loseEntries p i).port q) :=
  State.foldl_loseEntry_tame (s.queue.filter (Entry.queuedIn p i)) q
    { s with queue := s.queue.filter (fun e => !e.queuedIn p i) }

theorem State.setHandle_tame (s : State) (p : Port) (h : Byte) (v : Option Nat) (q : Port) :
    (s.port q).Tame ((s.setHandle p h v).port q) := by
  unfold State.setHandle
  exact State.tame_modifyPort (.of_eq rfl rfl rfl (.inl rfl)) q

theorem State.cancelEntry_tame (s : State) (i : Nat) (e : Entry) (q : Port) :
    (s.port q).Tame ((s.cancelEntry i e).port q) := by
  have left : (s.port q).Tame (((({ s with queue := s.queue.eraseIdx i } : State).freeEntryBuffer e).postRecord e
      .cancelled).port q) :=
    (State.tame_of_ports (State.freeEntryBuffer_ports { s with queue := s.queue.eraseIdx i } e) q).trans
      (State.postRecord_tame _ _ _ _)
  unfold State.cancelEntry
  dsimp only
  split
  · generalize (({ s with queue := s.queue.eraseIdx i } : State).freeEntryBuffer e).postRecord e .cancelled = u at left
    have dropped : (u.port q).Tame (u.dropCommit.port q) := State.tame_of_leases u.dropCommit_leases q
    exact left.trans dropped
  · exact left

theorem State.endInNeighbours_tame (s : State) (e : Entry) (outcome : EndOutcome) (q : Port) :
    (s.port q).Tame ((s.endInNeighbours e outcome).port q) := by
  unfold State.endInNeighbours
  split
  · split
    · rw [State.commitDone_port]
      exact .of_eq rfl rfl rfl (.inl rfl)
    · exact State.tame_of_leases (State.commitFailed_leases s) q
  · split
    · exact State.tame_of_leases (OnlyLeases.drainDown s _) q
    · exact .refl _

theorem State.ended_tame (s : State) (i : Nat) (e : Entry) (outcome : EndOutcome) (q : Port) :
    (s.port q).Tame ((s.ended i e outcome).port q) := by
  have array : ((({ s with queue := s.queue.eraseIdx i } : State).endInArray e outcome).freeEntryBuffer e).ports =
      s.ports := by
    rw [State.freeEntryBuffer_ports, State.endInArray_eq]
  exact (State.tame_of_ports array q).trans (State.endInNeighbours_tame _ _ _ q)

theorem State.endEntry_port (s : State) (i : Nat) (e : Entry) (outcome : EndOutcome) (q : Port) :
    (s.endEntry i e outcome).port q = (if e.orphaned then s.ended i e outcome
      else (s.ended i e outcome).postRecord e (endStatus e.kind outcome)).port q := by
  rw [State.endEntry_eq]
  rfl

theorem State.endEntry_tame (s : State) (i : Nat) (e : Entry) (outcome : EndOutcome) (q : Port) :
    (s.port q).Tame ((s.endEntry i e outcome).port q) := by
  rw [State.endEntry_port]
  split
  · exact s.ended_tame i e outcome q
  · exact (s.ended_tame i e outcome q).trans (State.postRecord_tame _ _ _ q)

theorem State.acceptProgram_tame (s : State) (p q : Port) (handle : Byte) (addr : Addr) (tag cls : Byte) :
    (s.port q).Tame ((s.acceptProgram p handle addr tag cls).port q) := by
  rw [State.acceptProgram_port]
  split
  · exact .of_eq rfl rfl rfl (.inl rfl)
  · exact .refl _

theorem State.resetQueue_tame (s : State) (p q : Port) : (s.port q).Tame ((s.resetQueue p).port q) := by
  obtain ⟨image, h⟩ := s.resetQueue_leases p
  have hp := h.port_eq q
  have heq : (s.resetQueue p).port q = { s.port q with
      latched := ((s.resetQueue p).port q).latched
      postedSinceView := ((s.resetQueue p).port q).postedSinceView } := hp
  rw [heq]
  exact .of_eq rfl rfl rfl (.inl rfl)

theorem State.resetHandles_tame (s : State) (p q : Port) : (s.port q).Tame ((s.resetHandles p).port q) := by
  rw [State.resetHandles_eq]
  generalize (s.resetHandles p).buffers = bs
  exact State.tame_modifyPort (s := { s with buffers := bs }) (.of_eq rfl rfl rfl (.inl rfl)) q

theorem State.released_ports (s : State) (p : Port) : (s.released p).ports = s.ports := by
  rw [State.released_eq]

/-- A change of every port that leaves frame, lines and mailbox. -/
theorem State.tame_modifyPorts {f g h : PortState → PortState} (hf : ∀ r : PortState, r.Tame (f r))
    (hg : ∀ r : PortState, r.Tame (g r)) (hh : ∀ r : PortState, r.Tame (h r)) (q : Port) :
    (s.port q).Tame ((((s.modifyPort .a f).modifyPort .b g).modifyPort .c h).port q) :=
  ((State.tame_modifyPort (hf _) q).trans (State.tame_modifyPort (hg _) q)).trans (State.tame_modifyPort (hh _) q)

theorem PortState.Tame.marks {r u : PortState} (h1 : u.frame = r.frame) (h2 : u.shift = r.shift)
    (h3 : u.csLow = r.csLow) (h4 : u.mailbox = r.mailbox) : r.Tame u := .of_eq h1 h2 h3 (.inl h4)

theorem State.loadProfiles_tame (s : State) (v : PerPort Profile) (q : Port) :
    (s.port q).Tame ((s.loadProfiles v).port q) := by
  unfold State.loadProfiles
  refine State.tame_modifyPorts ?_ ?_ ?_ q <;> exact fun r => .marks rfl rfl rfl rfl

theorem State.enableAll_tame (s : State) (q : Port) : (s.port q).Tame (s.enableAll.port q) := by
  unfold State.enableAll
  refine State.tame_modifyPorts ?_ ?_ ?_ q <;> exact fun r => .marks rfl rfl rfl rfl

theorem State.postAll_tame (s : State) (k : NoticeKind) (q : Port) : (s.port q).Tame ((s.postAll k).port q) := by
  unfold State.postAll State.post
  refine State.tame_modifyPorts ?_ ?_ ?_ q <;> exact fun r => .marks rfl rfl rfl rfl

theorem State.startUpStep_tame (s : State) (mv : Nat) (k : StartUpStep) (q : Port) :
    (s.port q).Tame ((s.startUpStep mv k).port q) := by
  cases k with
  | slotChoice => exact .refl _
  | mapLoad =>
    exact State.loadProfiles_tame { s with
      generation := s.startGeneration
      regions := regionIndices.map (fun i => ((s.startImage.regions[i]?).join).map (fun d => ⟨d, freshLease⟩))
      authority := s.startImage.authority } s.startImage.profiles q
  | enables => exact s.enableAll_tame q
  | assessment => exact .refl _
  | ready => exact State.postAll_tame { s with device := .ready, leaseClock := true, startUpSteps := 0 } .deviceEvent q

theorem State.startUpStep_resetLow (s : State) (mv : Nat) (k : StartUpStep) :
    (s.startUpStep mv k).resetLow = s.resetLow := by
  cases k <;> rfl

theorem State.startUpStep_holders (s : State) (mv : Nat) (k : StartUpStep) :
    (s.startUpStep mv k).holders = s.holders := by
  cases k <;> rfl

theorem State.loseEntries_holders (s : State) (p : Port) (i : Nat) : (s.loseEntries p i).holders = s.holders := by
  rw [State.loseEntries_eq]

/-- R177 step 4: the assessed supply has not failed. -/
theorem State.startUpStep_supply (mv : Nat) (k : StartUpStep) (h : s.supply ≠ .failed) :
    (s.startUpStep mv k).supply ≠ .failed := by
  cases k with
  | assessment =>
    show assessSupply mv ≠ .failed
    unfold assessSupply
    split <;> simp
  | _ => exact h

/-- The moves, as far as a port's frame, lines and mailbox, and the read holders, are concerned. -/
inductive TameMove (a : Actor) (s : State) : State → Prop
  | tame {t : State} (h : ∀ q, (s.port q).Tame (t.port q)) (hh : t.holders = s.holders)
      (hlow : t.resetLow = s.resetLow) (hs : t.supply = .failed ↔ s.supply = .failed) : TameMove a s t
  /-- A port that is not INERT becomes DESELECTED or enters a stream, and takes hold of the stream's bank. -/
  | frame {t : State} {p : Port} {f : FrameState} (hf : (s.port p).frame ≠ .inert)
      (h : f = .deselected ∨ ∃ st, f = .readStream st)
      (hl : ({ s.port p with frame := f } : PortState).streamLaw = true)
      (hp : ∀ q, t.port q = if q = p then { s.port p with frame := f } else s.port q)
      (hh : ∀ k, t.holders.get k =
        (s.released p).holders.get k + (({ s.port p with frame := f } : PortState).holds k).toNat)
      (hlow : t.resetLow = s.resetLow) (hs : t.supply = s.supply) : TameMove a s t
  | signal {p d : Port} (v : Byte) (ha : a = .signal p) (hd : d ≠ p) :
      TameMove a s (s.modifyPort d (fun q => { q with mailbox := some ⟨p, v⟩ }))
  | power {x : SupplyState} {f : FrameState}
      (h : x = .failed ∧ f = .inert ∨ x ≠ .failed ∧ f = if s.resetLow then .inert else .deselected) :
      TameMove a s (s.powerOnValues x f)
  | unpowered (b : Bool) (h : s.supply = .failed) : TameMove a s { s with resetLow := b }
  | fall (items : List InterruptedItem) : TameMove a s (s.atReset items)
  | rise (hlow : s.resetLow = true) (h : s.supply ≠ .failed) : TameMove a s { s with resetLow := false }.deselectAll

/-- Where the core of the state stays, RESET# and the supply do. -/
theorem TameMove.of_core (hc : t.core = s.core) (hh : t.holders = s.holders) (h : ∀ q, (s.port q).Tame (t.port q)) :
    TameMove a s t :=
  .tame h hh (congrArg Core.resetLow hc) (by rw [show t.supply = s.supply from congrArg Core.supply hc])

/-- A change of frame after the port's stream has let go of its bank. -/
theorem TameMove.frame_released {u : State} {f : FrameState} (hf : (s.port p).frame ≠ .inert)
    (h : f = .deselected ∨ ∃ st, f = .readStream st)
    (hl : ({ s.port p with frame := f } : PortState).streamLaw = true)
    (hu : ({ u with holders := (s.released p).holders } : State) = s.released p)
    (hh : ∀ k, u.holders.get k =
      (s.released p).holders.get k + (({ s.port p with frame := f } : PortState).holds k).toNat) :
    TameMove a s (u.setFrame p f) := by
  have hports : u.ports = s.ports := (congrArg State.ports hu).trans (s.released_ports p)
  have hport : ∀ q, u.port q = s.port q := fun q => by rw [State.port, State.port, hports]
  have hcore : u.core = s.core := (congrArg State.core hu).trans (s.released_core p)
  refine .frame (p := p) (f := f) hf h hl (fun q => ?_) hh (congrArg Core.resetLow hcore) (congrArg Core.supply hcore)
  unfold State.setFrame
  rw [State.port_modifyPort]
  split
  · next hq => rw [hq, hport]
  · rw [hport]

theorem Move.tameMove (h : Move a s t) : TameMove a s t := by
  have core : t.core = s.core → t.holders = s.holders → (∀ q, (s.port q).Tame (t.port q)) → TameMove a s t :=
    TameMove.of_core
  cases h with
  | taken l is ha => exact core rfl rfl (State.tame_of_ports rfl)
  | unread pages n => exact core rfl rfl (State.tame_of_ports rfl)
  | own ha h => exact core (State.core_modifyPort h.profile) rfl (State.tame_modifyPort h.tame)
  | post p k =>
    exact core (State.core_modifyPort rfl) rfl
      (State.tame_modifyPort (.of_eq rfl rfl rfl (.inl rfl)))
  | signal v ha hd he => exact .signal v ha hd
  | look => exact .tame (State.tame_of_ports s.look_ports) s.look_holders s.look_resetLow (by rw [s.look_supply])
  | clearInterrupted => exact core rfl rfl (State.tame_of_ports rfl)
  | @fill p st b ha hf =>
    refine .frame_released hf (.inr ⟨_, rfl⟩) (by simp [PortState.streamLaw]) rfl fun k => ?_
    simp [PortState.holds]
  | @hold p st ha hf hc =>
    refine .frame_released (u := (s.released p).holdBank (bankOf st.current)) hf (.inr ⟨_, rfl⟩)
      (by simp [PortState.streamLaw]) rfl fun k => ?_
    by_cases hk : k = bankOf st.current
    · subst hk
      simp [State.holdBank, PortState.holds]
    · simp [State.holdBank, PortState.holds, BankCounts.get_set_ne _ _ hk, Ne.symm hk]
  | @close p ha hf =>
    refine .frame_released hf (.inl rfl) rfl rfl fun k => ?_
    simp [PortState.holds]
  | request h =>
    refine core (s.requestSuspend_core _) ?_ (State.tame_of_ports ?_) <;> rw [State.requestSuspend_eq]
  | load b offset data => exact core rfl rfl (State.tame_of_ports rfl)
  | allocate offset data ha hle hnone hfree hown =>
    exact core (State.setHandle_core _ _ _ _) rfl (State.setHandle_tame _ _ _ _)
  | discard ha hle hb =>
    exact core (State.setHandle_core _ _ _ _) rfl (State.setHandle_tame _ _ _ _)
  | program ha hd hok => exact core (s.acceptProgram_core ..) (s.acceptProgram_work ..).2 fun q => s.acceptProgram_tame ..
  | sectorErase hd hok => exact core rfl rfl (State.tame_of_ports rfl)
  | blockErase hd hok => exact core rfl rfl (State.tame_of_ports rfl)
  | @commit p tag hd hok =>
    obtain ⟨m, hm, -⟩ := State.commitChecks_pass hok
    rw [State.acceptCommit_some hm] at core ⊢
    have hc := s.frozen_core m
    have hl : OnlyLeases { s with commitImage := some m } (s.frozen m) := s.frozen_leases m
    generalize s.frozen m = u at hc hl core ⊢
    have htame := fun q => State.tame_of_leases hl q
    exact core ((State.appendEntry_core ..).trans hc) hl.holders htame
  | cancel ha hi he hp => exact core (s.cancelEntry_core _ _) (s.cancelEntry_holders _ _) (s.cancelEntry_tame _ _)
  | lose ha hr hh => exact core (s.loseEntries_core _ _) (s.loseEntries_holders _ _) fun q => s.loseEntries_tame _ _ q
  | resetQueue p => exact core (s.resetQueue_core p) (s.resetQueue_holders p) (s.resetQueue_tame p)
  | @resetHandles p ha =>
    exact core (s.resetHandles_core _) (by rw [State.resetHandles_eq]; rfl) (s.resetHandles_tame _)
  | take hr hm hs => exact core (s.core_modifyLease _ _) rfl (State.tame_of_ports rfl)
  | wait hr hm hs hh hw => exact core (s.core_modifyLease _ _) rfl (State.tame_of_ports rfl)
  | renew hr hh => exact core (s.core_modifyLease _ _) rfl (State.tame_of_ports rfl)
  | leave p i => exact core (s.core_modifyLease _ _) rfl (State.tame_of_ports rfl)
  | endLease hr hh hq => exact core (s.endLease_core _) (OnlyLeases.endLease s _).holders (State.tame_of_leases (OnlyLeases.endLease s _))
  | tick hr hs hn => exact core (s.core_modifyLease _ _) rfl (State.tame_of_ports rfl)
  | stage h => exact core rfl rfl (State.tame_of_ports rfl)
  | endEntry outcome ha hstop hi he =>
    obtain ⟨-, -, hlow, hsupply, -, -⟩ := s.endEntry_device _ _ outcome
    exact .tame (s.endEntry_tame _ _ outcome) (s.endEntry_work _ _ outcome).2 hlow (by rw [hsupply])
  | park hstop heng hi => exact core rfl rfl (State.tame_of_ports rfl)
  | windowStep hw h1 => exact core rfl rfl (State.tame_of_ports rfl)
  | windowClose => exact core rfl rfl (State.tame_of_ports rfl)
  | supply h hx => exact .tame (State.tame_of_ports rfl) rfl rfl (iff_of_false hx h)
  | power ha h => exact .power h
  | fallUnpowered h => exact .unpowered true h
  | fall ha hlow h hi => exact .fall _
  | riseUnpowered h => exact .unpowered false h
  | rise ha hlow h => exact .rise hlow h
  | arrayStops => exact .tame (State.tame_of_ports (by simp)) (by simp) (by simp) (by simp)
  | startUp mv ha hd hlow hs hstop hk =>
    exact .tame (s.startUpStep_tame mv _) (s.startUpStep_holders mv _) (s.startUpStep_resetLow mv _)
      (iff_of_false (State.startUpStep_supply mv _ hs) hs)

/-! ### The laws, move by move -/

theorem allPorts_iff {f : Port → Bool} : allPorts f = true ↔ ∀ p, f p = true := by
  simp only [allPorts, Bool.and_eq_true]
  constructor
  · rintro ⟨⟨ha, hb⟩, hc⟩ p
    cases p
    · exact ha
    · exact hb
    · exact hc
  · exact fun h => ⟨⟨h .a, h .b⟩, h .c⟩

theorem State.inertLaw_iff : s.inertLaw = true ↔
    ∀ p, (s.port p).frame = .inert ↔ (s.resetLow = true ∨ s.supply = .failed) := by
  simp only [State.inertLaw, allPorts_iff, decide_eq_true_eq]
  refine forall_congr' fun p => ?_
  rw [Bool.eq_iff_iff]
  simp

theorem State.mailboxLaw_iff : s.mailboxLaw = true ↔
    ∀ p x, (s.port p).mailbox = some x → x.sender ≠ p := by
  simp only [State.mailboxLaw, allPorts_iff]
  refine forall_congr' fun p => ?_
  cases (s.port p).mailbox <;> simp

theorem State.lineLaw_iff : s.lineLaw = true ↔ ∀ p, (s.port p).lineLaw = true := allPorts_iff

theorem State.powerOnValues_port (s : State) (x : SupplyState) (f : FrameState) (q : Port) :
    (s.powerOnValues x f).port q = (s.port q).powerOn f := by
  cases q <;> rfl

theorem State.atReset_port (s : State) (items : List InterruptedItem) (q : Port) :
    (s.atReset items).port q = (s.port q).atReset := by
  cases q <;> rfl

theorem State.deselectAll_port (s : State) (q : Port) :
    s.deselectAll.port q = { s.port q with frame := .deselected } := by
  cases q <;> rfl

theorem Move.keeps_inertLaw (h : Move a s t) (hs : s.inertLaw = true) : t.inertLaw = true := by
  rw [State.inertLaw_iff] at hs ⊢
  intro q
  obtain htame := h.tameMove
  clear h
  cases htame with
  | tame h hh hlow hsupply => rw [(h q).inert, hlow, hsupply, hs q]
  | @frame t p f hf h hl hp hh hlow hsupply =>
    rw [hp, hlow, hsupply]
    split
    · next hq =>
      subst hq
      rw [← hs q]
      refine iff_of_false ?_ hf
      rcases h with rfl | ⟨st, rfl⟩ <;> simp
    · exact hs q
  | @signal p d v ha hd =>
    rw [State.port_modifyPort]
    split
    · exact hs q
    · exact hs q
  | @power x f h =>
    rw [State.powerOnValues_port]
    show f = .inert ↔ (s.resetLow = true ∨ x = .failed)
    rcases h with ⟨rfl, rfl⟩ | ⟨hx, rfl⟩
    · simp
    · cases s.resetLow <;> simp [hx]
  | unpowered b h =>
    exact iff_of_true ((hs q).2 (.inr h)) (.inr h)
  | fall items =>
    rw [State.atReset_port]
    exact iff_of_true rfl (.inl rfl)
  | rise hlow h =>
    rw [State.deselectAll_port]
    refine iff_of_false (by simp) ?_
    rintro (h1 | h1)
    · exact absurd h1 (by simp [State.deselectAll, State.setFrame])
    · exact h h1

theorem Move.keeps_mailboxLaw (h : Move a s t) (hs : s.mailboxLaw = true) : t.mailboxLaw = true := by
  rw [State.mailboxLaw_iff] at hs ⊢
  intro q x hx
  obtain htame := h.tameMove
  clear h
  cases htame with
  | frame hf h hl hp hh hlow hsupply =>
    rw [hp] at hx
    split at hx
    · next hq =>
      subst hq
      exact hs _ x hx
    · exact hs q x hx
  | tame h hh hlow hsupply =>
    rcases (h q).mailbox with h1 | h1
    · exact hs q x (h1 ▸ hx)
    · rw [h1] at hx
      cases hx
  | @signal p d v ha hd =>
    rw [State.port_modifyPort] at hx
    split at hx
    · next hq =>
      subst hq
      cases hx
      exact hd.symm
    · exact hs q x hx
  | power h =>
    rw [State.powerOnValues_port] at hx
    cases hx
  | unpowered b h => exact hs q x hx
  | fall items =>
    rw [State.atReset_port] at hx
    cases hx
  | rise hlow h =>
    rw [State.deselectAll_port] at hx
    exact hs q x hx

theorem Move.keeps_lineLaw (h : Move a s t) (hs : s.lineLaw = true) : t.lineLaw = true := by
  rw [State.lineLaw_iff] at hs ⊢
  intro q
  obtain htame := h.tameMove
  clear h
  cases htame with
  | tame h hh hlow hsupply => exact (h q).line (hs q)
  | frame hf h hl hp hh hlow hsupply =>
    rw [hp]
    split
    · next hq =>
      subst hq
      have h8 := PortState.shift_of_lineLaw (hs q)
      rcases h with rfl | ⟨st, rfl⟩ <;> simp [PortState.lineLaw, h8]
    · exact hs q
  | @signal p d v ha hd =>
    rw [State.port_modifyPort]
    split
    · exact hs q
    · exact hs q
  | @power x f h =>
    rw [State.powerOnValues_port]
    rcases h with ⟨rfl, rfl⟩ | ⟨hx, rfl⟩
    · rfl
    · cases s.resetLow <;> rfl
  | unpowered b h => exact hs q
  | fall items =>
    rw [State.atReset_port]
    rfl
  | rise hlow h =>
    rw [State.deselectAll_port]
    have hq : (s.port q).shift.length < 8 := PortState.shift_of_lineLaw (hs q)
    exact PortState.lineLaw_of_plain rfl hq

theorem State.clockLaw_iff : s.clockLaw = true ↔ s.leaseClock = decide (s.device = .ready) := by
  simp [State.clockLaw]

/-- The lease clock starts with the last step of start-up and stops at RESET# and with the supply. -/
theorem Move.keeps_clockLaw (h : Move a s t) (hs : s.clockLaw = true) : t.clockLaw = true := by
  rw [State.clockLaw_iff] at hs ⊢
  cases h.coreMove with
  | still h =>
    rw [show t.leaseClock = s.leaseClock from congrArg Core.leaseClock h,
      show t.device = s.device from congrArg Core.device h, hs]
  | look => rw [s.look_leaseClock, s.look_device, hs]
  | endEntry outcome ha hstop hi he =>
    obtain ⟨hdevice, -, -, -, hclock, -⟩ := s.endEntry_device _ _ outcome
    rw [hdevice, hclock, hs]
  | supply h hx => exact hs
  | power ha h => rfl
  | fallUnpowered h => exact hs
  | fall ha hlow h hi => rfl
  | riseUnpowered h => exact hs
  | rise ha hlow h => exact hs
  | arrayStops => rw [s.arrayStops_leaseClock, s.arrayStops_device, hs]
  | @startUp k mv ha hd hlow hsup hstop hk =>
    cases k with
    | ready => rfl
    | _ => exact hs

end Sys2Proof.Machine
end

section
/-! The laws of the engine, its entries, the banks and the read window (R1, R6, R18 to R20, R36, R45, R47, R65, R67,
R72, R150, R182). -/

namespace Sys2Proof.Machine

variable {a : Actor} {p : Port} {s t : State}

/-! ### Counting entries by their states -/

/-- How many entries of a list are RUNNING, SUSPENDING and SUSPENDED (R45). -/
def stateCounts (q : List Entry) : Nat × Nat × Nat :=
  (q.countP (fun e => decide (e.state = .running)), q.countP (fun e => decide (e.state = .suspending)),
    q.countP (fun e => decide (e.state = .suspended)))

/-- What one entry adds. -/
def EntryState.counts : EntryState → Nat × Nat × Nat
  | .queued => (0, 0, 0)
  | .running => (1, 0, 0)
  | .suspending => (0, 1, 0)
  | .suspended => (0, 0, 1)

theorem stateCounts_append (q r : List Entry) : stateCounts (q ++ r) = stateCounts q + stateCounts r := by
  simp [stateCounts]

theorem stateCounts_cons (e : Entry) (q : List Entry) : stateCounts (e :: q) = e.state.counts + stateCounts q := by
  cases h : e.state <;> simp [stateCounts, EntryState.counts, h, Nat.add_comm]

theorem stateCounts_nil : stateCounts [] = 0 := rfl

/-- The entry at a place adds its part. -/
theorem stateCounts_at {q : List Entry} {i : Nat} {e : Entry} (hi : q[i]? = some e) :
    stateCounts q = e.state.counts + stateCounts (q.eraseIdx i) := by
  conv_lhs => rw [split_at hi]
  rw [List.eraseIdx_eq_take_drop_succ, stateCounts_append, stateCounts_append, stateCounts_cons]
  exact add_left_comm _ _ _

theorem stateCounts_map {f : Entry → Entry} (hf : ∀ e, (f e).state = e.state) (q : List Entry) :
    stateCounts (q.map f) = stateCounts q := by
  simp only [stateCounts, List.countP_map, Function.comp_def, hf]

theorem Entry.age_state (c : Nat) (e : Entry) : (e.age c).state = e.state := by
  rw [Entry.age_eq]

/-- A start makes its entry RUNNING. -/
theorem stateCounts_startQueue (q : List Entry) (i : Nat) (e : Entry) :
    stateCounts (startQueue q i e) = EntryState.counts .running + stateCounts (q.eraseIdx i) := by
  rw [startQueue_eq, List.eraseIdx_eq_take_drop_succ, stateCounts_append, stateCounts_append, stateCounts_cons,
    stateCounts_map (Entry.age_state _)]
  exact add_left_comm _ _ _

theorem modify_split {α : Type} {l : List α} {i : Nat} {x : α} (f : α → α) (hi : l[i]? = some x) :
    l.modify i f = l.take i ++ f x :: l.drop (i + 1) := by
  obtain ⟨hlt, rfl⟩ := List.getElem?_eq_some_iff.1 hi
  exact List.modify_eq_take_cons_drop hlt

/-- A change of the entry at a place. -/
theorem stateCounts_modify {q : List Entry} {i : Nat} {e : Entry} (f : Entry → Entry) (hi : q[i]? = some e) :
    stateCounts (q.modify i f) = (f e).state.counts + stateCounts (q.eraseIdx i) := by
  rw [modify_split f hi, List.eraseIdx_eq_take_drop_succ, stateCounts_append, stateCounts_append, stateCounts_cons]
  exact add_left_comm _ _ _

theorem Thinned.stateCounts {q r : List Entry} (h : Thinned q r) : stateCounts r = stateCounts q := by
  induction h with
  | nil => rfl
  | gone he _ ih =>
    rw [ih, stateCounts_cons, of_decide_eq_true he]
    exact (zero_add _).symm
  | kept e b _ ih => rw [stateCounts_cons, stateCounts_cons, ih]

/-- Two entries of a state that one entry has are the same. -/
theorem eq_of_countP_le {α : Type} {f : α → Bool} {l : List α} (h : l.countP f ≤ 1) {x y : α} (hx : x ∈ l) (hy : y ∈ l)
    (hfx : f x = true) (hfy : f y = true) : x = y := by
  have hlen : (l.filter f).length ≤ 1 := by rwa [← List.countP_eq_length_filter]
  have hx' : x ∈ l.filter f := List.mem_filter.2 ⟨hx, hfx⟩
  have hy' : y ∈ l.filter f := List.mem_filter.2 ⟨hy, hfy⟩
  match hl : l.filter f, hlen with
  | [], _ =>
    rw [hl] at hx'
    cases hx'
  | [z], _ =>
    rw [hl, List.mem_singleton] at hx' hy'
    rw [hx', hy']

theorem countP_active (q : List Entry) :
    q.countP Entry.isActive = (stateCounts q).1 + (stateCounts q).2.1 := by
  induction q with
  | nil => rfl
  | cons e q ih =>
    rw [stateCounts_cons, List.countP_cons, ih]
    cases h : e.state <;> simp [EntryState.counts, Entry.isActive, h] <;> omega

theorem countP_parked (q : List Entry) : q.countP Entry.isParked = (stateCounts q).2.2 := rfl

/-! ### The agreement of engine, entries and banks -/

/-- An entry's state is one that its kind and the engine allow (R19, R20, R45). -/
def Entry.fits (g : EngineState) (e : Entry) : Prop :=
  match e.state with
  | .suspending => e.kind.isErase = true
  | .suspended => e.kind.isErase = true
  | .running => g = .busyParked → e.kind.isErase = false
  | .queued => True

/-- R45: the engine state agrees with the entries' states, or with the items of an unfinished cut-off. -/
structure State.Agrees (s : State) : Prop where
  counts : s.stopping = [] → stateCounts s.queue = s.engine.counts
  cut : s.stopping ≠ [] → s.device = .starting ∧ s.queue = [] ∧
    s.stopping.map (fun x => x.suspended) = s.engine.cutOffIndications
  fits : ∀ e ∈ s.queue, e.fits s.engine

theorem State.eraseStates_iff : s.eraseStates = true ↔ ∀ e ∈ s.queue, e.fits s.engine := by
  unfold State.eraseStates
  rw [List.all_eq_true]
  refine forall_congr' fun e => imp_congr_right fun _ => ?_
  unfold Entry.fits
  cases e.state <;> simp [imp_iff_not_or]

theorem State.engineLaw_iff : s.engineLaw = true ↔ s.Agrees := by
  have hparts : s.engineLaw = true ↔ (s.stopping = [] → stateCounts s.queue = s.engine.counts) ∧
      (s.stopping ≠ [] → s.device = .starting ∧ s.queue = [] ∧
        s.stopping.map (fun x => x.suspended) = s.engine.cutOffIndications) ∧
      ∀ e ∈ s.queue, e.fits s.engine := by
    unfold State.engineLaw
    rw [Bool.and_eq_true, State.eraseStates_iff, ← and_assoc]
    refine and_congr_left fun _ => ?_
    by_cases h : s.stopping = []
    · simp only [h, if_true, decide_eq_true_eq, ne_eq, not_true_eq_false, false_implies, and_true, true_implies]
      rfl
    · simp [h, and_assoc]
  exact hparts.trans ⟨fun ⟨h1, h2, h3⟩ => ⟨h1, h2, h3⟩, fun h => ⟨h.counts, h.cut, h.fits⟩⟩

/-- The counts say which entries there are. -/
theorem active_iff_of_counts {q : List Entry} {g : EngineState} (h : stateCounts q = g.counts) :
    q.countP Entry.isActive = g.hasActive.toNat ∧ q.countP Entry.isParked = g.hasParked.toNat := by
  rw [countP_active, countP_parked, h]
  cases g <;> exact ⟨rfl, rfl⟩

namespace State.Agrees

/-- An active entry is the active entry. -/
theorem activeEntry_eq (h : s.Agrees) {e : Entry} (he : e ∈ s.queue) (hactive : e.isActive = true) :
    s.activeEntry = some e := by
  have hstop : s.stopping = [] := by
    by_contra hne
    rw [(h.cut hne).2.1] at he
    cases he
  obtain ⟨hcount, -⟩ := active_iff_of_counts (h.counts hstop)
  have hpos : 0 < s.queue.countP Entry.isActive := List.countP_pos_iff.2 ⟨e, he, hactive⟩
  have hg : s.engine.hasActive = true := by
    cases hg : s.engine.hasActive with
    | true => rfl
    | false =>
      rw [hcount, hg] at hpos
      exact absurd hpos (by decide)
  obtain ⟨x, hx⟩ := State.activeEntry_of_mem hg he hactive
  obtain ⟨-, i, -, hi, hxa⟩ := State.activeEntry_some hx
  rw [hx, eq_of_countP_le (by rw [hcount, hg]; exact le_refl _) (List.mem_of_getElem? hi) he hxa hactive]

/-- A parked entry is the parked erase. -/
theorem parkedErase_eq (h : s.Agrees) {e : Entry} (he : e ∈ s.queue) (hparked : e.isParked = true) :
    s.parkedErase = some e := by
  have hstop : s.stopping = [] := by
    by_contra hne
    rw [(h.cut hne).2.1] at he
    cases he
  obtain ⟨-, hcount⟩ := active_iff_of_counts (h.counts hstop)
  have hpos : 0 < s.queue.countP Entry.isParked := List.countP_pos_iff.2 ⟨e, he, hparked⟩
  have hg : s.engine.hasParked = true := by
    cases hg : s.engine.hasParked with
    | true => rfl
    | false =>
      rw [hcount, hg] at hpos
      exact absurd hpos (by decide)
  obtain ⟨x, hx⟩ := State.parkedErase_of_mem hg he hparked
  obtain ⟨-, i, -, hi, hxp⟩ := State.parkedErase_some hx
  rw [hx, eq_of_countP_le (by rw [hcount, hg]; exact le_refl _) (List.mem_of_getElem? hi) he hxp hparked]

end State.Agrees

theorem State.activeEntry_mem {e : Entry} (h : s.activeEntry = some e) : e ∈ s.queue ∧ e.isActive = true := by
  obtain ⟨-, i, -, hi, he⟩ := State.activeEntry_some h
  exact ⟨List.mem_of_getElem? hi, he⟩

theorem State.parkedErase_mem {e : Entry} (h : s.parkedErase = some e) : e ∈ s.queue ∧ e.isParked = true := by
  obtain ⟨-, i, -, hi, he⟩ := State.parkedErase_some h
  exact ⟨List.mem_of_getElem? hi, he⟩

/-- The engine law, the bank law and the law of work over a parked erase, entry by entry. -/
structure State.Orderly (s : State) : Prop extends s.Agrees where
  bank : ∀ e ∈ s.queue, e.isActive = true → ∀ k, e.bank = some k → s.holders.get k = 0
  outside : ∀ e ∈ s.queue, e.isActive = true → ∀ x ∈ s.queue, x.isParked = true → e.targetInside x = false

theorem State.orderly_iff :
    s.Orderly ↔ s.engineLaw = true ∧ s.bankLaw = true ∧ s.overParkedLaw = true := by
  rw [State.engineLaw_iff]
  constructor
  · intro h
    refine ⟨h.toAgrees, ?_, ?_⟩
    · unfold State.bankLaw State.activeBank
      cases he : s.activeEntry with
      | none => rfl
      | some e =>
        obtain ⟨hmem, hactive⟩ := State.activeEntry_mem he
        cases hk : e.bank with
        | none => simp [hk]
        | some k => simpa [hk] using h.bank e hmem hactive k hk
    · unfold State.overParkedLaw
      split
      · next x e hx he =>
        obtain ⟨hx, hparked⟩ := State.parkedErase_mem hx
        obtain ⟨he, hactive⟩ := State.activeEntry_mem he
        simp [h.outside e he hactive x hx hparked]
      · rfl
  · rintro ⟨h, hbank, hover⟩
    refine ⟨h, fun e he hactive k hk => ?_, fun e he hactive x hx hparked => ?_⟩
    · simpa [State.bankLaw, State.activeBank, h.activeEntry_eq he hactive, hk] using hbank
    · simpa [State.overParkedLaw, h.activeEntry_eq he hactive, h.parkedErase_eq hx hparked] using hover

/-! ### Move by move -/

theorem EngineState.no_active {g : EngineState} (h : g.hasActive = false) (ho : s.Agrees) (hg : s.engine = g) :
    ∀ e ∈ s.queue, e.isActive = false := by
  intro e he
  by_contra hactive
  rw [Bool.not_eq_false] at hactive
  obtain ⟨hg', -⟩ := State.activeEntry_some (ho.activeEntry_eq he hactive)
  rw [hg, h] at hg'
  cases hg'

theorem EngineState.no_parked {g : EngineState} (h : g.hasParked = false) (ho : s.Agrees) (hg : s.engine = g) :
    ∀ e ∈ s.queue, e.isParked = false := by
  intro e he
  by_contra hparked
  rw [Bool.not_eq_false] at hparked
  obtain ⟨hg', -⟩ := State.parkedErase_some (ho.parkedErase_eq he hparked)
  rw [hg, h] at hg'
  cases hg'

/-- Where there is an entry no cut-off is unfinished. -/
theorem State.Agrees.stopping_nil (h : s.Agrees) {e : Entry} (he : e ∈ s.queue) : s.stopping = [] := by
  by_contra hne
  rw [(h.cut hne).2.1] at he
  cases he

theorem stateCounts_ended {g : EngineState} {e : Entry} {r : Nat × Nat × Nat} (hactive : e.isActive = true)
    (hg : g.hasActive = true) (h : e.state.counts + r = g.counts) :
    r = g.ended.counts ∧ (g = .suspending → e.state = .suspending) ∧ (g ≠ .suspending → e.state = .running) := by
  obtain ⟨r1, r2, r3⟩ := r
  have hstate : e.state = .running ∨ e.state = .suspending := by simpa [Entry.isActive] using hactive
  cases g <;> rcases hstate with hs | hs <;>
    simp [EngineState.hasActive, EngineState.counts, EntryState.counts, EngineState.ended, hs] at hg h ⊢ <;> omega

/-- What the active entry's state is, and what is counted without it. -/
theorem State.Agrees.active (h : s.Agrees) {i : Nat} (hi : s.activeIndex = some i) :
    ∃ e, s.queue[i]? = some e ∧ s.activeEntry = some e ∧ s.stopping = [] ∧
      stateCounts (s.queue.eraseIdx i) = s.engine.ended.counts ∧
      (s.engine = .suspending → e.state = .suspending) ∧ (s.engine ≠ .suspending → e.state = .running) := by
  obtain ⟨hg, e, he, hactive, hentry⟩ := State.activeIndex_some hi
  have hstop := h.stopping_nil (List.mem_of_getElem? he)
  have hcounts := h.counts hstop
  rw [stateCounts_at he] at hcounts
  obtain ⟨hr, h1, h2⟩ := stateCounts_ended hactive hg hcounts
  exact ⟨e, he, hentry, hstop, hr, h1, h2⟩

/-- After a start: the started entry, and the others as they were, but for the aging of QUEUED ones. -/
theorem startQueue_mem {q : List Entry} {i : Nat} {e x : Entry} (h : x ∈ startQueue q i e) :
    x = { e with state := .running } ∨ ∃ y ∈ q, x = y ∨ x = y.age e.effectiveClass := by
  rw [startQueue_eq, List.mem_append, List.mem_map, List.mem_cons] at h
  rcases h with ⟨y, hy, rfl⟩ | rfl | hx
  · exact .inr ⟨y, List.mem_of_mem_take hy, .inr rfl⟩
  · exact .inl rfl
  · exact .inr ⟨x, List.mem_of_mem_drop hx, .inl rfl⟩

/-- Aging changes neither state nor kind nor target. -/
theorem startQueue_mem' {q : List Entry} {i : Nat} {e x : Entry} (h : x ∈ startQueue q i e) :
    x = { e with state := .running } ∨ ∃ y ∈ q, ∃ c b, x = { y with effectiveClass := c, bypass := b } := by
  rcases startQueue_mem h with h | ⟨y, hy, rfl | rfl⟩
  · exact .inl h
  · exact .inr ⟨x, hy, x.effectiveClass, x.bypass, rfl⟩
  · exact .inr ⟨y, hy, _, _, Entry.age_eq _ _⟩

theorem modify_mem {α : Type} {l : List α} {i : Nat} {x y : α} {f : α → α} (hi : l[i]? = some x)
    (h : y ∈ l.modify i f) : y = f x ∨ y ∈ l := by
  rw [modify_split f hi, List.mem_append, List.mem_cons] at h
  rcases h with h | h | h
  · exact .inr (List.mem_of_mem_take h)
  · exact .inl h
  · exact .inr (List.mem_of_mem_drop h)

theorem Entry.fits_of_not_running {g k : EngineState} {e : Entry} (h : e.fits g) (hk : e.state ≠ .running) :
    e.fits k := by
  unfold Entry.fits at h ⊢
  revert h
  cases hs : e.state with
  | running => exact absurd hs hk
  | _ => exact id

/-- Only over a parked erase does the engine state matter (R45). -/
theorem Entry.fits_of_ne {g k : EngineState} {e : Entry} (h : e.fits g) (hk : k ≠ .busyParked) : e.fits k := by
  unfold Entry.fits at h ⊢
  revert h
  cases e.state with
  | running => exact fun _ hb => absurd hb hk
  | _ => exact id

theorem Entry.not_active_of_queued {e : Entry} (h : e.state = .queued) : e.isActive = false := by
  simp [Entry.isActive, h]

theorem Entry.not_parked_of_queued {e : Entry} (h : e.state = .queued) : e.isParked = false := by
  simp [Entry.isParked, h]

theorem Entry.targetInside_none {e x : Entry} (h : e.target = none) : e.targetInside x = false := by
  simp [Entry.targetInside, h]

theorem State.targetLaw_iff : s.targetLaw = true ↔ ∀ e ∈ s.queue, e.targetLaw = true := List.all_eq_true

/-- A MAP_COMMIT has no target (R18). -/
theorem Entry.target_of_commit {e : Entry} (h : e.targetLaw = true) (hk : e.kind = .mapCommit) : e.target = none := by
  unfold Entry.targetLaw at h
  cases ht : e.target with
  | none => rfl
  | some x => simp [hk, ht] at h

/-- What eligibility says (R49). -/
theorem State.eligible_iff {e : Entry} : s.eligible e = true ↔ e.state = .queued ∧ s.supply = .normal ∧
    (∀ k, e.bank = some k → s.holders.get k = 0) ∧
    (∀ x, s.parkedErase = some x → e.kind.isErase = false ∧ (e.kind = .program → e.targetInside x = false)) := by
  unfold State.eligible
  simp only [Bool.and_eq_true, Entry.isQueued, decide_eq_true_eq, and_assoc]
  refine and_congr_right fun _ => and_congr_right fun _ => and_congr ?_ ?_
  · cases e.bank <;> simp
  · cases s.parkedErase with
    | none => simp
    | some x =>
      by_cases hk : e.kind = .program <;> simp [hk]

/-- What an eligible entry meets in the target of the parked erase. -/
theorem State.eligible_outside {e x : Entry} (h : s.eligible e = true) (ht : e.targetLaw = true)
    (hx : s.parkedErase = some x) : e.targetInside x = false := by
  obtain ⟨-, -, -, hover⟩ := State.eligible_iff.1 h
  obtain ⟨herase, hprogram⟩ := hover x hx
  cases hk : e.kind with
  | program => exact hprogram hk
  | mapCommit => exact Entry.targetInside_none (Entry.target_of_commit ht hk)
  | sectorErase => simp [hk, EntryKind.isErase] at herase
  | blockErase => simp [hk, EntryKind.isErase] at herase

theorem State.startEntry_work {i : Nat} {e : Entry} (hi : s.queue[i]? = some e) :
    (s.startEntry i).work = { s.work with queue := startQueue s.queue i e, engine := s.engine.started } ∧
      (s.startEntry i).holders = s.holders := by
  rw [State.startEntry_eq hi]
  exact ⟨rfl, rfl⟩

/-- A start of an eligible entry, in IDLE or over a parked erase (R49 to R52). -/
theorem State.startEntry_orderly {i : Nat} {e : Entry} (ho : s.Orderly) (ht : s.targetLaw = true)
    (hi : s.queue[i]? = some e) (he : s.eligible e = true)
    (hg : s.engine = .idle ∨ s.engine = .parked ∧ e.kind.isErase = false) : (s.startEntry i).Orderly := by
  have hmem := List.mem_of_getElem? hi
  have hstop := ho.stopping_nil hmem
  obtain ⟨hwork, hholders⟩ := State.startEntry_work hi
  obtain ⟨hqueue, hengine, -, -, hstop'⟩ := (State.work_iff _ _).1 hwork
  obtain ⟨hqueued, -, hbank, -⟩ := State.eligible_iff.1 he
  have hnone : ∀ x ∈ s.queue, x.isActive = false := by
    rcases hg with hg | ⟨hg, -⟩ <;> exact EngineState.no_active rfl ho.toAgrees hg
  have hcounts : stateCounts (startQueue s.queue i e) = s.engine.started.counts := by
    have h := ho.counts hstop
    rw [stateCounts_at hi, hqueued] at h
    rw [stateCounts_startQueue]
    rcases hg with hg | ⟨hg, -⟩ <;> rw [hg] at h ⊢ <;>
      exact (congrArg (EntryState.counts .running + ·) ((zero_add _).symm.trans h)).trans rfl
  refine ⟨⟨fun _ => ?_, fun h => absurd (hstop'.trans hstop) h, fun x hx => ?_⟩, fun x hx hactive => ?_,
    fun x hx hactive y hy hparked => ?_⟩
  · rw [hqueue, hengine]
    exact hcounts
  · rw [hqueue] at hx
    rw [hengine]
    rcases startQueue_mem' hx with rfl | ⟨y, hy, c, b, rfl⟩
    · intro hbp
      rcases hg with hg | ⟨hg, herase⟩
      · simp [hg, EngineState.started] at hbp
      · exact herase
    · have hfit := ho.fits y hy
      have hidle := hnone y hy
      exact Entry.fits_of_not_running (e := { y with effectiveClass := c, bypass := b }) hfit (by
        simp only [Entry.isActive, Bool.or_eq_false_iff, decide_eq_false_iff_not] at hidle
        exact hidle.1)
  · rw [hqueue] at hx
    rcases startQueue_mem' hx with rfl | ⟨y, hy, c, b, rfl⟩
    · rw [hholders]
      exact hbank
    · have hidle := hnone y hy
      exact absurd hactive (by simpa [Entry.isActive] using hidle)
  · rw [hqueue] at hx hy
    rcases startQueue_mem' hx with rfl | ⟨z, hz, c, b, rfl⟩
    · rcases startQueue_mem' hy with rfl | ⟨z, hz, c, b, rfl⟩
      · cases hparked
      · have hz' := ho.parkedErase_eq hz hparked
        have hout := State.eligible_outside he (State.targetLaw_iff.1 ht e hmem) hz'
        exact hout
    · have hidle := hnone z hz
      exact absurd hactive (by simpa [Entry.isActive] using hidle)

/-- R60, R61: a RUNNING erase is ordered to suspend. -/
theorem State.orderSuspend_orderly {x : Entry} (ho : s.Orderly) (hg : s.engine = .busy)
    (hx : s.activeEntry = some x) (herase : x.kind.isErase = true) : s.orderSuspend.Orderly := by
  obtain ⟨-, i, hindex, hi, hactive⟩ := State.activeEntry_some hx
  obtain ⟨e, he, hentry, hstop, hcounts, -, hrunning⟩ := ho.active hindex
  have heq : s.orderSuspend =
      { s.modifyEntry i (fun e => { e with state := .suspending }) with engine := .suspending } := by
    unfold State.orderSuspend
    rw [hindex]
  have hstop' : s.orderSuspend.stopping = [] := by rw [heq]; exact hstop
  have hmem := List.mem_of_getElem? hi
  have hcases : ∀ y ∈ s.orderSuspend.queue, y = { x with state := .suspending } ∨ y ∈ s.queue := by
    rw [heq]
    exact fun y hy => modify_mem hi hy
  have hagrees : s.orderSuspend.Agrees := by
    refine ⟨fun _ => ?_, fun h => absurd hstop' h, fun y hy => ?_⟩
    · rw [heq]
      show stateCounts (s.queue.modify i _) = _
      rw [stateCounts_modify _ hi, hcounts, hg]
      rfl
    · have hengine : s.orderSuspend.engine = .suspending := by rw [heq]
      rw [hengine]
      rcases hcases y hy with rfl | hy
      · exact herase
      · exact Entry.fits_of_ne (ho.fits y hy) (by simp)
  have hholders : s.orderSuspend.holders = s.holders := by rw [heq]; rfl
  refine ⟨hagrees, fun y hy hya => ?_, fun y hy hya z hz hparked => ?_⟩
  · rw [hholders]
    rcases hcases y hy with rfl | hy
    · exact ho.bank x hmem hactive
    · exact ho.bank y hy hya
  · have hnone := EngineState.no_parked (g := .suspending) rfl hagrees (by rw [heq]) z hz
    rw [hnone] at hparked
    cases hparked

/-- R68: the parked erase runs again. -/
theorem State.resumeErase_orderly (ho : s.Orderly) (hg : s.engine = .parked) (hr : s.resumeTest = true) :
    s.resumeErase.Orderly := by
  cases hx : s.parkedErase with
  | none => simp [State.resumeTest, hx] at hr
  | some x =>
    obtain ⟨-, i, hindex, hi, hparked⟩ := State.parkedErase_some hx
    have hmem := List.mem_of_getElem? hi
    have hstop := ho.stopping_nil hmem
    have heq : s.resumeErase =
        { s.modifyEntry i (fun e => { e with state := .running }) with engine := .busy } := by
      unfold State.resumeErase
      rw [hindex]
    have hcases : ∀ y ∈ s.resumeErase.queue, y = { x with state := .running } ∨ y ∈ s.queue := by
      rw [heq]
      exact fun y hy => modify_mem hi hy
    have hstop' : s.resumeErase.stopping = [] := by rw [heq]; exact hstop
    have hagrees : s.resumeErase.Agrees := by
      refine ⟨fun _ => ?_, fun h => absurd hstop' h, fun y hy => ?_⟩
      · have hcounts := ho.counts hstop
        rw [stateCounts_at hi, hg, of_decide_eq_true hparked] at hcounts
        rw [heq]
        show stateCounts (s.queue.modify i _) = _
        rw [stateCounts_modify _ hi]
        generalize stateCounts (s.queue.eraseIdx i) = r at hcounts
        obtain ⟨r1, r2, r3⟩ := r
        simp only [EntryState.counts, EngineState.counts, Prod.mk_add_mk, Prod.mk.injEq] at hcounts ⊢
        omega
      · have hengine : s.resumeErase.engine = .busy := by rw [heq]
        rw [hengine]
        rcases hcases y hy with rfl | hy
        · exact fun h => by cases h
        · exact Entry.fits_of_ne (ho.fits y hy) (by simp)
    have hholders : s.resumeErase.holders = s.holders := by rw [heq]; rfl
    refine ⟨hagrees, fun y hy hya k hk => ?_, fun y hy hya z hz hp => ?_⟩
    · rw [hholders]
      rcases hcases y hy with rfl | hy
      · have hkx : x.bank = some k := hk
        simpa [State.resumeTest, hx, hkx] using (Bool.and_eq_true_iff.1 hr).2
      · exact ho.bank y hy hya k hk
    · have hnone := EngineState.no_parked (g := .busy) rfl hagrees (by rw [heq]) z hz
      rw [hnone] at hp
      cases hp

/-- What the tests of a look say of the entry they choose. -/
theorem State.selectAny_some {i : Nat} (h : s.selectAny = some i) :
    ∃ e, s.queue[i]? = some e ∧ s.eligible e = true := by
  unfold State.selectAny at h
  obtain ⟨⟨j, c⟩, hj, rfl⟩ := Option.map_eq_some_iff.1 h
  obtain ⟨e, he, hok, -⟩ := firstHighest_eq_some hj
  exact ⟨e, he, hok⟩

theorem State.selectOver_some {i : Nat} (h : s.selectOver = some i) :
    ∃ e, s.queue[i]? = some e ∧ s.eligible e = true ∧ e.kind.isErase = false := by
  unfold State.selectOver at h
  split at h
  · obtain ⟨⟨j, c⟩, hj, rfl⟩ := Option.map_eq_some_iff.1 h
    obtain ⟨e, he, hok, -⟩ := firstHighest_eq_some hj
    simp only [State.mayRunOver, Bool.and_eq_true, Bool.not_eq_true'] at hok
    exact ⟨e, he, hok.1.1, hok.1.2⟩
  · cases h

theorem State.pressureTest_active (h : s.pressureTest = true) :
    ∃ x, s.activeEntry = some x ∧ x.kind.isErase = true ∧ x.suspendCount < 16 := by
  unfold State.pressureTest at h
  split at h
  · next x hx =>
    simp only [Bool.and_eq_true, decide_eq_true_eq] at h
    exact ⟨x, hx, h.1.1, h.1.2⟩
  · cases h

theorem State.raisesRequest_active {x : Addr} (h : s.raisesRequest p x = true) :
    s.engine = .busy ∧ (s.port p).profile.window ≠ 0 ∧
      ∃ e, s.activeEntry = some e ∧ e.kind.isErase = true ∧ e.suspendCount < 16 := by
  unfold State.raisesRequest at h
  split at h
  · next e he =>
    simp only [Bool.and_eq_true, decide_eq_true_eq] at h
    obtain ⟨⟨⟨⟨⟨⟨hg, herase⟩, -⟩, -⟩, hwindow⟩, -⟩, hcount⟩ := h
    exact ⟨hg, hwindow, e, he, herase, hcount⟩
  · cases h

theorem State.look_orderly (ho : s.Orderly) (ht : s.targetLaw = true) : s.look.Orderly := by
  rcases s.look_cases with h | ⟨hg, i, hi, h⟩ | ⟨hg, i, hi, h⟩ | ⟨hg, hp, h⟩ | ⟨hg, -, hr, h⟩ <;> rw [h]
  · exact ho
  · obtain ⟨e, he, hok⟩ := State.selectAny_some hi
    exact State.startEntry_orderly ho ht he hok (.inl hg)
  · obtain ⟨e, he, hok, herase⟩ := State.selectOver_some hi
    exact State.startEntry_orderly ho ht he hok (.inr ⟨hg, herase⟩)
  · obtain ⟨x, hx, herase, -⟩ := State.pressureTest_active hp
    exact State.orderSuspend_orderly ho hg hx herase
  · exact State.resumeErase_orderly ho hg hr

/-- What depends on work, counts and, with a cut-off unfinished, on the device alone. -/
theorem State.Orderly.of_work {w : Work} (hw : t.work = w) (hcounts : w.stopping = [] → stateCounts w.queue = w.engine.counts)
    (hcut : w.stopping ≠ [] → t.device = .starting ∧ w.queue = [] ∧
      w.stopping.map (fun x => x.suspended) = w.engine.cutOffIndications)
    (hfits : ∀ e ∈ w.queue, e.fits w.engine)
    (hbank : ∀ e ∈ w.queue, e.isActive = true → ∀ k, e.bank = some k → t.holders.get k = 0)
    (hout : ∀ e ∈ w.queue, e.isActive = true → ∀ x ∈ w.queue, x.isParked = true → e.targetInside x = false) :
    t.Orderly := by
  subst hw
  exact ⟨⟨hcounts, hcut, hfits⟩, hbank, hout⟩

theorem EngineState.cutOffItems_indications (ho : s.Agrees) (hstop : s.stopping = []) :
    s.cutOffItems.map (fun x => x.suspended) = s.engine.cutOffIndications := by
  obtain ⟨ha, hp⟩ := active_iff_of_counts (ho.counts hstop)
  have hactive : s.activeEntry.isSome = s.engine.hasActive := by
    cases hg : s.engine.hasActive with
    | true =>
      rw [hg] at ha
      obtain ⟨e, he, hea⟩ := List.countP_pos_iff.1 (by rw [ha]; decide : 0 < s.queue.countP Entry.isActive)
      rw [ho.activeEntry_eq he hea]
      rfl
    | false =>
      cases he : s.activeEntry with
      | none => rfl
      | some e =>
        rw [(State.activeEntry_some he).1] at hg
        cases hg
  have hparked : s.parkedErase.isSome = s.engine.hasParked := by
    cases hg : s.engine.hasParked with
    | true =>
      rw [hg] at hp
      obtain ⟨e, he, hep⟩ := List.countP_pos_iff.1 (by rw [hp]; decide : 0 < s.queue.countP Entry.isParked)
      rw [ho.parkedErase_eq he hep]
      rfl
    | false =>
      cases he : s.parkedErase with
      | none => rfl
      | some e =>
        rw [(State.parkedErase_some he).1] at hg
        cases hg
  unfold State.cutOffItems
  cases hg : s.engine <;> rw [hg] at hactive hparked <;>
    cases h1 : s.activeEntry <;> cases h2 : s.parkedErase <;>
    simp [h1, h2, EngineState.hasActive, EngineState.hasParked] at hactive hparked ⊢ <;> rfl

/-- A cut-off that stays unfinished leaves the device STARTING. -/
theorem Move.starting_of_stopping (h : Move a s t) (hs : s.stopping ≠ []) (hd : s.device = .starting) :
    t.stopping ≠ [] → t.device = .starting := by
  cases h.coreMove with
  | still h =>
    intro _
    rw [show t.device = s.device from congrArg Core.device h, hd]
  | look => exact fun _ => s.look_device.trans hd
  | endEntry outcome ha hstop hi he => exact absurd hstop hs
  | supply h hx => exact fun _ => hd
  | power ha h => exact fun _ => rfl
  | fallUnpowered h => exact fun _ => hd
  | fall ha hlow h hi => exact fun _ => rfl
  | riseUnpowered h => exact fun _ => hd
  | rise ha hlow h => exact fun _ => hd
  | arrayStops => exact fun h => absurd s.arrayStops_stopping h
  | startUp mv ha hd hlow hs' hstop hk => exact absurd hstop hs

theorem Move.keeps_orderly (h : Move a s t) (ho : s.Orderly) (ht : s.targetLaw = true) : t.Orderly := by
  have cut : t.stopping = s.stopping → s.stopping ≠ [] → t.device = .starting := fun heq hne =>
    h.starting_of_stopping hne (ho.cut hne).1 (heq ▸ hne)
  obtain hmove := h.workMove
  clear h
  cases hmove with
  | still hw hh =>
    obtain ⟨-, -, -, -, hstop⟩ := (State.work_iff _ _).1 hw
    refine .of_work hw ho.counts (fun hne => ⟨cut hstop hne, (ho.cut hne).2⟩) ho.fits (fun e he hactive k hk => ?_)
      ho.outside
    exact hh k (by simp [State.activeBank, ho.activeEntry_eq he hactive, hk]) (ho.bank e he hactive k hk)
  | look => exact State.look_orderly ho ht
  | request h =>
    obtain ⟨hg, -, e, he, herase, -⟩ := State.raisesRequest_active h
    have ho' := State.orderSuspend_orderly ho hg he herase
    exact ⟨⟨ho'.counts, ho'.cut, ho'.fits⟩, ho'.bank, ho'.outside⟩
  | append e hw hh hd hq hrange htarget =>
    obtain ⟨hqueue, -, -, -, hstop⟩ := (State.work_iff _ _).1 hw
    have hnil : s.stopping = [] := by
      by_contra hne
      rw [(ho.cut hne).1] at hd
      cases hd
    have old : ∀ x ∈ s.queue ++ [e], x ∈ s.queue ∨ x = e := fun x hx => by
      simpa using hx
    refine .of_work hw (fun h => ?_) (fun h => absurd hnil h) (fun x hx => ?_) (fun x hx hactive => ?_)
      (fun x hx hactive y hy hparked => ?_)
    · show stateCounts (s.queue ++ [e]) = s.engine.counts
      rw [stateCounts_append, ho.counts hnil, stateCounts_cons, hq]
      rfl
    · rcases old x hx with hx | rfl
      · exact ho.fits x hx
      · simp [Entry.fits, hq]
    · rw [hh]
      rcases old x hx with hx | rfl
      · exact ho.bank x hx hactive
      · rw [Entry.not_active_of_queued hq] at hactive
        cases hactive
    · rcases old x hx with hx | rfl
      · rcases old y hy with hy | rfl
        · exact ho.outside x hx hactive y hy hparked
        · rw [Entry.not_parked_of_queued hq] at hparked
          cases hparked
      · rw [Entry.not_active_of_queued hq] at hactive
        cases hactive
  | thin q hw hh hthin =>
    obtain ⟨hqueue, -, -, -, hstop⟩ := (State.work_iff _ _).1 hw
    refine .of_work hw (fun h => ?_) (fun hne => ?_) (fun x hx => ?_) (fun x hx hactive => ?_)
      (fun x hx hactive y hy hparked => ?_)
    · exact hthin.stateCounts.trans (ho.counts h)
    · obtain ⟨hd, hempty, hmap⟩ := ho.cut hne
      rw [hempty] at hthin
      cases hthin
      exact ⟨cut hstop hne, rfl, hmap⟩
    · obtain ⟨y, hy, b, rfl⟩ := hthin.mem hx
      exact ho.fits y hy
    · obtain ⟨y, hy, b, rfl⟩ := hthin.mem hx
      rw [hh]
      exact ho.bank y hy hactive
    · obtain ⟨x', hx', b, rfl⟩ := hthin.mem hx
      obtain ⟨y', hy', c, rfl⟩ := hthin.mem hy
      exact ho.outside x' hx' hactive y' hy' hparked
  | @endEntry t i e hstop hi he hw hh =>
    obtain ⟨e', he', -, -, hcounts, -⟩ := ho.active hi
    have old : ∀ x ∈ s.queue.eraseIdx i, x ∈ s.queue := fun x hx => List.mem_of_mem_eraseIdx hx
    refine .of_work hw (fun _ => hcounts) (fun h => absurd hstop h) (fun x hx => ?_) (fun x hx hactive => ?_)
      (fun x hx hactive y hy => ho.outside x (old x hx) hactive y (old y hy))
    · refine Entry.fits_of_ne (ho.fits x (old x hx)) ?_
      obtain ⟨hg, -⟩ := State.activeIndex_some hi
      cases hs : s.engine <;> simp [hs, EngineState.hasActive, EngineState.ended] at hg ⊢
    · rw [hh]
      exact ho.bank x (old x hx) hactive
  | @park i hstop heng hi =>
    obtain ⟨e, he, -, -, hcounts, hsus, -⟩ := ho.active hi
    have hcases : ∀ y ∈ (s.parkErase i).queue,
        y = { e with state := .suspended, suspendCount := e.suspendCount + 1 } ∨ y ∈ s.queue :=
      fun y hy => modify_mem he hy
    have hagrees : (s.parkErase i).Agrees := by
      refine ⟨fun _ => ?_, fun h => absurd hstop h, fun y hy => ?_⟩
      · show stateCounts (s.queue.modify i _) = _
        rw [stateCounts_modify _ he, hcounts, heng]
        rfl
      · rcases hcases y hy with rfl | hy
        · have hfit := ho.fits e (List.mem_of_getElem? he)
          simpa [Entry.fits, hsus heng] using hfit
        · exact Entry.fits_of_ne (ho.fits y hy) (by simp [State.parkErase])
    have hnone := EngineState.no_active (g := .parked) rfl hagrees rfl
    refine ⟨hagrees, fun y hy hactive => ?_, fun y hy hactive => ?_⟩
    · rw [hnone y hy] at hactive
      cases hactive
    · rw [hnone y hy] at hactive
      cases hactive
  | window w hw hh hopen =>
    obtain ⟨-, -, -, -, hstop⟩ := (State.work_iff _ _).1 hw
    refine .of_work hw ho.counts (fun hne => ⟨cut hstop hne, (ho.cut hne).2⟩) ho.fits (fun e he hactive => ?_) ho.outside
    rw [hh]
    exact ho.bank e he hactive
  | power hw =>
    exact .of_work hw (fun _ => rfl) (fun h => absurd rfl h) (fun x hx => by cases hx) (fun x hx => by cases hx)
      (fun x hx => by cases hx)
  | @fall items hi =>
    refine ⟨⟨fun h => ?_, fun h => ⟨rfl, rfl, ?_⟩, fun x hx => by cases hx⟩, fun x hx => (by cases hx), fun x hx => by cases hx⟩
    · have hnil : items = [] := h
      subst hnil
      rfl
    · have hne : items ≠ [] := h
      have hitems : items.map (fun x => x.suspended) = s.engine.cutOffIndications := by
        rcases hi with ⟨h1, rfl⟩ | ⟨h1, rfl⟩
        · exact (ho.cut h1).2.2
        · exact EngineState.cutOffItems_indications ho.toAgrees h1
      show items.map _ = (if items.isEmpty then .idle else s.engine : EngineState).cutOffIndications
      rw [if_neg (by simpa using hne), hitems]
  | arrayStops =>
    by_cases hstop : s.stopping = []
    · rw [State.arrayStops_of_nil hstop]
      exact ho
    · obtain ⟨-, hempty, -⟩ := ho.cut hstop
      rw [State.arrayStops_of_ne_nil hstop]
      refine .of_work (w := ⟨[], .idle, s.window, s.noted, []⟩) ?_ (fun _ => rfl) (fun h => absurd rfl h)
        (fun x hx => by cases hx) (fun x hx => by cases hx) (fun x hx => by cases hx)
      simp [State.work, hempty]

end Sys2Proof.Machine
end

section
/-! The ranges: targets, classes and counts of the entries, the read window, the profiles (R1, R18, R35, R36, R47, R65,
R150). -/

namespace Sys2Proof.Machine

variable {a : Actor} {p : Port} {s t : State}

/-! ### Targets -/

theorem State.targetLaw_map : s.targetLaw = true ↔ ∀ b ∈ s.queue.map Entry.targetLaw, b = true := by
  rw [State.targetLaw_iff]
  simp

theorem Move.keeps_targetLaw (h : Move a s t) (hs : s.targetLaw = true) : t.targetLaw = true := by
  have same : t.queue.map Entry.targetLaw = s.queue.map Entry.targetLaw → t.targetLaw = true := fun heq => by
    rw [State.targetLaw_map] at hs ⊢
    rwa [heq]
  have hmove := h.workMove
  clear h
  cases hmove with
  | still hw hh => exact same (by rw [((State.work_iff _ _).1 hw).1]; rfl)
  | look => exact same (s.look_map _ fun _ _ _ _ => rfl)
  | request h => exact same (s.requestSuspend_map _ _ fun _ _ => rfl)
  | append e hw hh hd hq hrange htarget =>
    rw [State.targetLaw_iff] at hs ⊢
    rw [((State.work_iff _ _).1 hw).1]
    intro x hx
    rcases List.mem_append.1 hx with hx | hx
    · exact hs x hx
    · rw [List.mem_singleton.1 hx]
      exact htarget
  | thin q hw hh hthin =>
    rw [State.targetLaw_iff] at hs ⊢
    rw [((State.work_iff _ _).1 hw).1]
    intro x hx
    obtain ⟨y, hy, b, rfl⟩ := hthin.mem hx
    exact hs y hy
  | endEntry hstop hi he hw hh =>
    rw [State.targetLaw_iff] at hs ⊢
    rw [((State.work_iff _ _).1 hw).1]
    exact fun x hx => hs x (List.mem_of_mem_eraseIdx hx)
  | park hstop heng hi => exact same (modify_map _ fun _ => rfl)
  | window w hw hh hopen => exact same (by rw [((State.work_iff _ _).1 hw).1]; rfl)
  | power hw =>
    rw [State.targetLaw_iff, ((State.work_iff _ _).1 hw).1]
    simp
  | fall hi => exact State.targetLaw_iff.2 fun x hx => by cases hx
  | arrayStops => exact same (by rw [s.arrayStops_queue])

/-! ### The read window -/

theorem State.windowLaw_iff : s.windowLaw = true ↔
    (s.stopping ≠ [] → s.noted = none ∧ s.window = none) ∧
    (∀ w, s.noted = some w → s.engine = .suspending ∧ 1 ≤ w ∧ w ≤ 15) ∧
    (∀ w, s.window = some w → s.engine.hasParked = true ∧ 1 ≤ w ∧ w ≤ 15) := by
  unfold State.windowLaw
  simp only [Bool.and_eq_true, and_assoc]
  refine and_congr ?_ (and_congr ?_ ?_)
  · by_cases h : s.stopping = [] <;> simp [h]
  · cases s.noted <;> simp [and_assoc]
  · cases s.window with
    | none => simp
    | some w => cases s.engine <;> simp [EngineState.hasParked]

theorem Move.keeps_windowLaw (h : Move a s t) (ho : s.Agrees) (hp : s.profileLaw = true) (hs : s.windowLaw = true) :
    t.windowLaw = true := by
  rw [State.windowLaw_iff] at hs ⊢
  obtain ⟨hstop, hnoted, hwindow⟩ := hs
  have noted_none : s.engine ≠ .suspending → s.noted = none := fun hg => by
    cases hn : s.noted with
    | none => rfl
    | some w => exact absurd (hnoted w hn).1 hg
  have window_none : s.engine.hasParked = false → s.window = none := fun hg => by
    cases hw : s.window with
    | none => rfl
    | some w =>
      rw [(hwindow w hw).1] at hg
      cases hg
  have hmove := h.workMove
  clear h
  cases hmove with
  | still hw hh =>
    obtain ⟨-, hg, hw, hn, hst⟩ := (State.work_iff _ _).1 hw
    rw [hg, hw, hn, hst]
    exact ⟨hstop, hnoted, hwindow⟩
  | look =>
    have hst : s.look.stopping = s.stopping := by rw [State.look_eq]
    rw [hst, s.look_noted, s.look_window]
    have closed : s.noted = none → s.window = none → (s.stopping ≠ [] → s.noted = none ∧ s.window = none) ∧
        (∀ w, s.noted = some w → s.look.engine = .suspending ∧ 1 ≤ w ∧ w ≤ 15) ∧
        (∀ w, s.window = some w → s.look.engine.hasParked = true ∧ 1 ≤ w ∧ w ≤ 15) := fun h1 h2 => by
      rw [h1, h2]
      exact ⟨fun _ => ⟨rfl, rfl⟩, nofun, nofun⟩
    rcases s.look_cases with h | ⟨hg, i, hi, h⟩ | ⟨hg, i, hi, h⟩ | ⟨hg, hpt, h⟩ | ⟨hg, -, hr, h⟩
    · rw [h]
      exact ⟨hstop, hnoted, hwindow⟩
    · exact closed (noted_none (by simp [hg])) (window_none (by simp [hg, EngineState.hasParked]))
    · obtain ⟨e, he, -⟩ := State.selectOver_some hi
      have hengine : s.look.engine = .busyParked := by
        rw [h, ((State.work_iff _ _).1 (State.startEntry_work he).1).2.1]
        show s.engine.started = _
        rw [hg]
        rfl
      refine ⟨hstop, fun w hw => ?_, fun w hw => ?_⟩
      · rw [noted_none (by simp [hg])] at hw
        cases hw
      · rw [hengine]
        exact ⟨rfl, (hwindow w hw).2⟩
    · exact closed (noted_none (by simp [hg])) (window_none (by simp [hg, EngineState.hasParked]))
    · refine closed (noted_none (by simp [hg])) ?_
      simp only [State.resumeTest, Bool.and_eq_true, decide_eq_true_eq] at hr
      exact hr.1.1
  | @request p x h =>
    obtain ⟨hg, hne, e, he, -, -⟩ := State.raisesRequest_active h
    obtain ⟨-, i, hindex, hi, -⟩ := State.activeEntry_some he
    have hnil := ho.stopping_nil (List.mem_of_getElem? hi)
    have heq : s.orderSuspend =
        { s.modifyEntry i (fun e => { e with state := .suspending }) with engine := .suspending } := by
      unfold State.orderSuspend
      rw [hindex]
    unfold State.requestSuspend
    rw [heq]
    refine ⟨fun h => absurd hnil h, fun w hw => ?_, fun w hw => ?_⟩
    · simp only [Option.some.injEq] at hw
      subst hw
      exact ⟨rfl, Nat.one_le_iff_ne_zero.2 hne, State.window_le hp p⟩
    · have hw' : s.window = some w := hw
      rw [window_none (by simp [hg, EngineState.hasParked])] at hw'
      cases hw'
  | append e hw hh hd hq hrange htarget =>
    obtain ⟨-, hg, hw, hn, hst⟩ := (State.work_iff _ _).1 hw
    rw [hg, hw, hn, hst]
    exact ⟨hstop, hnoted, hwindow⟩
  | thin q hw hh hthin =>
    obtain ⟨-, hg, hw, hn, hst⟩ := (State.work_iff _ _).1 hw
    rw [hg, hw, hn, hst]
    exact ⟨hstop, hnoted, hwindow⟩
  | endEntry hnil hi he hw hh =>
    obtain ⟨-, hg, hw, hn, hst⟩ := (State.work_iff _ _).1 hw
    obtain ⟨hactive, -⟩ := State.activeIndex_some hi
    rw [hg, hw, hn, hst]
    refine ⟨fun h => absurd hnil h, fun w hw => ?_, fun w hw => ?_⟩
    · by_cases hsus : s.engine = .suspending
      · simp [hsus] at hw
      · simp only [hsus, if_false] at hw
        rw [noted_none hsus] at hw
        cases hw
    · obtain ⟨hparked, hrange⟩ := hwindow w hw
      refine ⟨?_, hrange⟩
      cases hs : s.engine <;> simp [hs, EngineState.hasActive, EngineState.hasParked] at hactive hparked
      rfl
  | @park i hnil heng hi =>
    refine ⟨fun h => absurd hnil h, nofun, fun w hw => ⟨rfl, ?_⟩⟩
    have hw' : (if s.noted.isSome then s.noted else s.window) = some w := hw
    rw [window_none (by simp [heng, EngineState.hasParked])] at hw'
    cases hn : s.noted with
    | none => simp [hn] at hw'
    | some v =>
      simp only [hn, Option.isSome_some, if_true, Option.some.injEq] at hw'
      subst hw'
      exact (hnoted _ hn).2
  | window w hw hh hopen =>
    obtain ⟨-, hg, hw, hn, hst⟩ := (State.work_iff _ _).1 hw
    rw [hg, hw, hn, hst]
    refine ⟨fun h => ⟨(hstop h).1, ?_⟩, hnoted, fun v hv => ?_⟩
    · rcases hopen with rfl | ⟨v, hv, -⟩
      · rfl
      · rw [(hstop h).2] at hv
        cases hv
    · have hv' : w = some v := hv
      rcases hopen with rfl | ⟨u, hu, h1, rfl⟩
      · cases hv'
      · simp only [Option.some.injEq] at hv'
        subst hv'
        obtain ⟨hparked, -, hle⟩ := hwindow u hu
        exact ⟨hparked, by omega, by omega⟩
  | power hw =>
    obtain ⟨-, -, hw, hn, -⟩ := (State.work_iff _ _).1 hw
    rw [hw, hn]
    exact ⟨fun _ => ⟨rfl, rfl⟩, nofun, nofun⟩
  | fall hi => exact ⟨fun _ => ⟨rfl, rfl⟩, nofun, nofun⟩
  | arrayStops =>
    by_cases hnil : s.stopping = []
    · rw [State.arrayStops_of_nil hnil]
      exact ⟨hstop, hnoted, hwindow⟩
    · obtain ⟨h1, h2⟩ := hstop hnil
      rw [s.arrayStops_noted, s.arrayStops_window, h1, h2]
      exact ⟨fun _ => ⟨rfl, rfl⟩, nofun, nofun⟩

/-! ### The ranges of an entry's fields -/

theorem Entry.rangeLaw_iff {e : Entry} : e.rangeLaw = true ↔
    e.requestedClass ≤ 3 ∧ e.effectiveClass ≤ 3 ∧ e.bypass ≤ 7 ∧ e.suspendCount ≤ 16 ∧
      (e.kind.isErase = true ∨ e.suspendCount = 0) ∧ (e.state = .suspending → e.suspendCount < 16) ∧
      (e.state = .queued → e.suspendCount = 0) := by
  simp only [Entry.rangeLaw, Bool.and_eq_true, Bool.or_eq_true, decide_eq_true_eq, and_assoc, Entry.isQueued,
    Bool.not_eq_true', decide_eq_false_iff_not, imp_iff_not_or, ne_eq]

theorem Entry.rangeLaw_age {e : Entry} {c : Nat} (h : e.rangeLaw = true) (hc : c ≤ 3) : (e.age c).rangeLaw = true := by
  rw [Entry.rangeLaw_iff] at h
  obtain ⟨h1, h2, h3, h4⟩ := h
  unfold Entry.age
  split
  · next hq =>
    simp only [Bool.and_eq_true, decide_eq_true_eq] at hq
    have hlt := hq.2
    split
    · exact Entry.rangeLaw_iff.2 ⟨h1, by simp only; omega, by simp, h4⟩
    · next hb =>
      simp only [Config.bypassLimit] at hb
      exact Entry.rangeLaw_iff.2 ⟨h1, h2, by simp only; omega, h4⟩
  · exact Entry.rangeLaw_iff.2 ⟨h1, h2, h3, h4⟩

theorem State.entryLaw_iff : s.entryLaw = true ↔ ∀ e ∈ s.queue, e.rangeLaw = true := List.all_eq_true

theorem State.startEntry_entryLaw {i : Nat} {e : Entry} (hi : s.queue[i]? = some e)
    (hs : s.entryLaw = true) : (s.startEntry i).entryLaw = true := by
  rw [State.entryLaw_iff] at hs ⊢
  rw [((State.work_iff _ _).1 (State.startEntry_work hi).1).1]
  obtain ⟨h1, h2, h3, h4, h5, -, h7⟩ := Entry.rangeLaw_iff.1 (hs e (List.mem_of_getElem? hi))
  intro x hx
  rcases startQueue_mem hx with rfl | ⟨y, hy, rfl | rfl⟩
  · exact Entry.rangeLaw_iff.2 ⟨h1, h2, h3, h4, h5, nofun, nofun⟩
  · exact hs _ hy
  · exact Entry.rangeLaw_age (hs _ hy) h2

theorem State.orderSuspend_entryLaw {x : Entry} (hx : s.activeEntry = some x) (hcount : x.suspendCount < 16)
    (hs : s.entryLaw = true) : s.orderSuspend.entryLaw = true := by
  obtain ⟨-, i, hindex, hi, -⟩ := State.activeEntry_some hx
  rw [State.entryLaw_iff] at hs ⊢
  obtain ⟨h1, h2, h3, h4, h5, -⟩ := Entry.rangeLaw_iff.1 (hs x (List.mem_of_getElem? hi))
  unfold State.orderSuspend
  rw [hindex]
  intro y hy
  rcases modify_mem hi hy with rfl | hy
  · exact Entry.rangeLaw_iff.2 ⟨h1, h2, h3, h4, h5, fun _ => hcount, nofun⟩
  · exact hs y hy

theorem State.resumeErase_entryLaw (hs : s.entryLaw = true) : s.resumeErase.entryLaw = true := by
  unfold State.resumeErase
  split
  · next i hindex =>
    obtain ⟨-, x, hi, -⟩ := State.parkedIndex_some hindex
    rw [State.entryLaw_iff] at hs ⊢
    obtain ⟨h1, h2, h3, h4, h5, -⟩ := Entry.rangeLaw_iff.1 (hs x (List.mem_of_getElem? hi))
    intro y hy
    rcases modify_mem hi hy with rfl | hy
    · exact Entry.rangeLaw_iff.2 ⟨h1, h2, h3, h4, h5, nofun, nofun⟩
    · exact hs y hy
  · exact hs

theorem State.look_entryLaw (hs : s.entryLaw = true) : s.look.entryLaw = true := by
  rcases s.look_cases with h | ⟨-, i, hi, h⟩ | ⟨-, i, hi, h⟩ | ⟨-, hp, h⟩ | ⟨-, -, -, h⟩ <;> rw [h]
  · exact hs
  · obtain ⟨e, he, hok⟩ := State.selectAny_some hi
    exact State.startEntry_entryLaw he hs
  · obtain ⟨e, he, hok, -⟩ := State.selectOver_some hi
    exact State.startEntry_entryLaw he hs
  · obtain ⟨x, hx, -, hcount⟩ := State.pressureTest_active hp
    exact State.orderSuspend_entryLaw hx hcount hs
  · exact State.resumeErase_entryLaw hs

theorem Move.keeps_entryLaw (h : Move a s t) (ho : s.Agrees) (hp : s.profileLaw = true) (hs : s.entryLaw = true) :
    t.entryLaw = true := by
  have hmove := h.workMove
  clear h
  cases hmove with
  | look => exact State.look_entryLaw hs
  | request h =>
    obtain ⟨-, -, e, he, -, hcount⟩ := State.raisesRequest_active h
    exact State.orderSuspend_entryLaw he hcount hs
  | @park i hnil heng hi =>
    obtain ⟨e, he, -, -, -, hsus, -⟩ := ho.active hi
    have hmem := List.mem_of_getElem? he
    rw [State.entryLaw_iff] at hs ⊢
    obtain ⟨h1, h2, h3, -, -, h6, -⟩ := Entry.rangeLaw_iff.1 (hs e hmem)
    have hlt := h6 (hsus heng)
    have hfit := ho.fits e hmem
    simp only [Entry.fits, hsus heng] at hfit
    intro y hy
    rcases modify_mem he hy with rfl | hy
    · exact Entry.rangeLaw_iff.2 ⟨h1, h2, h3, hlt, .inl hfit, nofun, nofun⟩
    · exact hs y hy
  | append e hw hh hd hq hrange htarget =>
    rw [State.entryLaw_iff] at hs ⊢
    rw [((State.work_iff _ _).1 hw).1]
    intro x hx
    rcases List.mem_append.1 hx with hx | hx
    · exact hs x hx
    · rw [List.mem_singleton.1 hx]
      exact hrange hp
  | thin q hw hh hthin =>
    rw [State.entryLaw_iff] at hs ⊢
    rw [((State.work_iff _ _).1 hw).1]
    intro x hx
    obtain ⟨y, hy, b, rfl⟩ := hthin.mem hx
    exact hs y hy
  | endEntry hstop hi he hw hh =>
    rw [State.entryLaw_iff] at hs ⊢
    rw [((State.work_iff _ _).1 hw).1]
    exact fun x hx => hs x (List.mem_of_mem_eraseIdx hx)
  | still hw hh =>
    rw [State.entryLaw, ((State.work_iff _ _).1 hw).1]
    exact hs
  | window w hw hh hopen =>
    rw [State.entryLaw, ((State.work_iff _ _).1 hw).1]
    exact hs
  | power hw =>
    rw [State.entryLaw, ((State.work_iff _ _).1 hw).1]
    rfl
  | fall hi => rfl
  | arrayStops =>
    rw [State.entryLaw, s.arrayStops_queue]
    exact hs

/-! ### The profiles -/

theorem State.profileLaw_iff : s.profileLaw = true ↔
    (∀ q, (s.profiles.get q).inRange = true) ∧ (∀ n, (s.slot n).image.profileLaw = true) ∧
      s.staged.all MapImage.profileLaw = true ∧ s.commitImage.all MapImage.profileLaw = true := by
  simp only [State.profileLaw, Bool.and_eq_true, allPorts_iff, and_assoc, State.profiles_get]
  refine and_congr_right fun _ => ?_
  constructor
  · rintro ⟨hx, hy, hrest⟩
    refine ⟨fun n => ?_, hrest⟩
    cases n
    · exact hx
    · exact hy
  · exact fun ⟨hslot, hrest⟩ => ⟨hslot .x, hslot .y, hrest⟩

/-- The images change only as a command on the map or the end of a commit says (R160). -/
structure State.Images (s t : State) : Prop where
  staged : t.staged = s.staged ∨ t.staged = none ∨ (s.profileLaw = true → t.staged.all MapImage.profileLaw = true)
  commit : t.commitImage = s.commitImage ∨ t.commitImage = none ∨ t.commitImage = s.staged

theorem State.Images.of_eq (hs : t.staged = s.staged) (hc : t.commitImage = s.commitImage) : s.Images t :=
  ⟨.inl hs, .inl hc⟩

theorem State.Images.drop (hs : t.staged = s.staged ∨ t.staged = none) (hc : t.commitImage = none) : s.Images t :=
  ⟨hs.imp_right .inl, .inr (.inl hc)⟩

theorem OnlyLeases.staged (h : OnlyLeases s t) : t.staged = s.staged := by rw [h.eq]

theorem OnlyLeases.commitImage (h : OnlyLeases s t) : t.commitImage = s.commitImage := by rw [h.eq]

theorem State.freeEntryBuffer_images (s : State) (e : Entry) :
    (s.freeEntryBuffer e).staged = s.staged ∧ (s.freeEntryBuffer e).commitImage = s.commitImage := by
  rw [State.freeEntryBuffer_eq]
  exact ⟨rfl, rfl⟩

theorem State.dropCommit_images (s : State) : s.dropCommit.staged = s.staged ∧ s.dropCommit.commitImage = none :=
  ⟨s.dropCommit_leases.staged, s.dropCommit_leases.commitImage⟩

theorem State.cancelEntry_images (s : State) (i : Nat) (e : Entry) : s.Images (s.cancelEntry i e) := by
  obtain ⟨hs, hc⟩ := ({ s with queue := s.queue.eraseIdx i } : State).freeEntryBuffer_images e
  unfold State.cancelEntry
  dsimp only
  split
  · obtain ⟨hs', hc'⟩ := State.dropCommit_images
      ((({ s with queue := s.queue.eraseIdx i } : State).freeEntryBuffer e).postRecord e .cancelled)
    exact .drop (.inl (hs'.trans hs)) hc'
  · exact .of_eq hs hc

theorem State.resetQueue_images (s : State) (p : Port) : s.Images (s.resetQueue p) := by
  have hfreed := s.resetFreed_eq p
  rw [State.resetQueue_eq]
  split
  · obtain ⟨hs, hc⟩ := (s.resetFreed p).dropCommit_images
    refine .drop (.inl ?_) hc
    rw [hs, hfreed]
  · rw [hfreed]
    exact .of_eq rfl rfl

theorem State.commitDone_images (s : State) :
    s.commitDone.commitImage = none ∧ (s.commitDone.staged = s.staged ∨ s.commitDone.staged = none) := by
  cases h : s.commitImage with
  | none =>
    rw [State.commitDone_none h]
    exact ⟨h, .inl rfl⟩
  | some m =>
    rw [State.commitDone_some h]
    exact ⟨rfl, .inr rfl⟩

theorem State.endInNeighbours_images (s : State) (e : Entry) (outcome : EndOutcome) :
    s.Images (s.endInNeighbours e outcome) := by
  unfold State.endInNeighbours
  split
  · cases outcome with
    | done => exact .drop s.commitDone_images.2 s.commitDone_images.1
    | failed => exact .drop (.inl s.commitFailed_leases.staged) s.commitFailed_leases.commitImage
  · split
    · exact .of_eq (OnlyLeases.drainDown s _).staged (OnlyLeases.drainDown s _).commitImage
    · exact .of_eq rfl rfl

theorem State.endEntry_images (s : State) (i : Nat) (e : Entry) (outcome : EndOutcome) :
    s.Images (s.endEntry i e outcome) := by
  have harray := s.endedArray_eq i e outcome
  have hended : s.Images (s.ended i e outcome) := by
    rw [State.ended_eq]
    generalize s.endedArray i e outcome = u at harray
    have hstaged : u.staged = s.staged := by rw [harray]
    have hcommit : u.commitImage = s.commitImage := by rw [harray]
    have hlaw : u.profileLaw = s.profileLaw := by
      rw [harray]
      rfl
    obtain ⟨hs, hc⟩ := u.endInNeighbours_images e outcome
    rw [hstaged, hlaw] at hs
    rw [hstaged, hcommit] at hc
    exact ⟨hs, hc⟩
  have hrec : s.Images (if e.orphaned then s.ended i e outcome
      else (s.ended i e outcome).postRecord e (endStatus e.kind outcome)) := by
    split
    · exact hended
    · exact ⟨hended.staged, hended.commit⟩
  rw [State.endEntry_eq]
  exact ⟨hrec.staged, hrec.commit⟩

theorem Move.images (h : Move a s t) : s.Images t := by
  cases h with
  | taken l is ha => exact .of_eq rfl rfl
  | unread pages n => exact .of_eq rfl rfl
  | own ha h => exact .of_eq rfl rfl
  | post p k => exact .of_eq rfl rfl
  | signal v ha hd he => exact .of_eq rfl rfl
  | look => exact .of_eq s.look_staged s.look_commitImage
  | clearInterrupted => exact .of_eq rfl rfl
  | @fill p st b ha hf =>
    rw [State.released_eq]
    exact .of_eq rfl rfl
  | @hold p st ha hf hc =>
    rw [State.released_eq]
    exact .of_eq rfl rfl
  | @close p ha hf =>
    rw [State.released_eq]
    exact .of_eq rfl rfl
  | request h =>
    rw [State.requestSuspend_eq]
    exact .of_eq rfl rfl
  | load b offset data => exact .of_eq rfl rfl
  | allocate offset data ha hle hnone hfree hown => exact .of_eq rfl rfl
  | discard ha hle hb => exact .of_eq rfl rfl
  | program ha hd hok =>
    unfold State.acceptProgram
    dsimp only
    split <;> exact .of_eq rfl rfl
  | sectorErase hd hok => exact .of_eq rfl rfl
  | blockErase hd hok => exact .of_eq rfl rfl
  | @commit p tag hd hok =>
    obtain ⟨m, hm, -⟩ := State.commitChecks_pass hok
    have hl := s.frozen_leases m
    rw [State.acceptCommit_some hm]
    generalize s.frozen m = u at hl
    exact ⟨.inl hl.staged, .inr (.inr (hl.commitImage.trans hm.symm))⟩
  | cancel ha hi he hp => exact s.cancelEntry_images _ _
  | @lose p i r ha hr hh =>
    rw [State.loseEntries_eq]
    exact .of_eq rfl rfl
  | resetQueue p => exact s.resetQueue_images p
  | @resetHandles p ha =>
    rw [State.resetHandles_eq]
    exact .of_eq rfl rfl
  | take hr hm hs => exact .of_eq rfl rfl
  | wait hr hm hs hh hw => exact .of_eq rfl rfl
  | renew hr hh => exact .of_eq rfl rfl
  | leave p i => exact .of_eq rfl rfl
  | @endLease p i r hr hh hq => exact .of_eq (OnlyLeases.endLease s i).staged (OnlyLeases.endLease s i).commitImage
  | tick hr hs hn => exact .of_eq rfl rfl
  | stage h => exact ⟨.inr (.inr h), .inl rfl⟩
  | endEntry outcome ha hstop hi he => exact s.endEntry_images _ _ outcome
  | park hstop heng hi => exact .of_eq rfl rfl
  | windowStep hw h1 => exact .of_eq rfl rfl
  | windowClose => exact .of_eq rfl rfl
  | supply h hx => exact .of_eq rfl rfl
  | power ha h => exact .drop (.inr rfl) rfl
  | fallUnpowered h => exact .of_eq rfl rfl
  | fall ha hlow h hi => exact .drop (.inr rfl) rfl
  | riseUnpowered h => exact .of_eq rfl rfl
  | rise ha hlow h => exact .of_eq rfl rfl
  | arrayStops => exact .of_eq s.arrayStops_staged s.arrayStops_commitImage
  | @startUp k mv ha hd hlow hs hstop hk => cases k <;> exact .of_eq rfl rfl

/-- R150: the factory map's profiles are in range. -/
theorem factoryMap_profileLaw : factoryMap.profileLaw = true := by decide

/-- The image that start-up loads has profiles in range. -/
theorem State.startImage_profileLaw (h : ∀ n, (s.slot n).image.profileLaw = true) : s.startImage.profileLaw = true := by
  unfold State.startImage
  split
  · exact h _
  · exact factoryMap_profileLaw

theorem State.slot_of_eq (hx : t.slotX = s.slotX) (hy : t.slotY = s.slotY) (n : SlotName) : t.slot n = s.slot n := by
  cases n
  · exact hx
  · exact hy

theorem Move.keeps_profileLaw (h : Move a s t) (hs : s.profileLaw = true) : t.profileLaw = true := by
  obtain ⟨hprofiles, hslots, hstaged, hcommit⟩ := State.profileLaw_iff.1 hs
  have himages : t.staged.all MapImage.profileLaw = true ∧ t.commitImage.all MapImage.profileLaw = true := by
    have h2 := h.images
    constructor
    · rcases h2.staged with h3 | h3 | h3
      · rw [h3]
        exact hstaged
      · rw [h3]
        rfl
      · exact h3 hs
    · rcases h2.commit with h3 | h3 | h3 <;> rw [h3]
      · exact hcommit
      · rfl
      · exact hstaged
  refine State.profileLaw_iff.2 ⟨?_, ?_, himages⟩
  · have hmove := h.coreMove
    clear h himages
    cases hmove with
    | still h =>
      rw [show t.profiles = s.profiles from congrArg Core.profiles h]
      exact hprofiles
    | look =>
      rw [show s.look.profiles = s.profiles from congrArg Core.profiles s.look_core]
      exact hprofiles
    | @endEntry i e outcome ha hstop hi he =>
      rcases s.endEntry_core i e outcome with h | ⟨-, -, m, hm, h⟩
      · rw [show (s.endEntry i e outcome).profiles = s.profiles from congrArg Core.profiles h]
        exact hprofiles
      · rw [show (s.endEntry i e outcome).profiles = m.profiles from congrArg Core.profiles h]
        rw [hm] at hcommit
        exact MapImage.profileLaw_iff.1 hcommit
    | supply h hx => exact hprofiles
    | power ha h =>
      intro q
      cases q <;> rfl
    | fallUnpowered h => exact hprofiles
    | fall ha hlow h hi => exact hprofiles
    | riseUnpowered h => exact hprofiles
    | rise ha hlow h => exact hprofiles
    | arrayStops =>
      unfold State.profiles
      rw [s.arrayStops_ports]
      exact hprofiles
    | @startUp k mv ha hd hlow hsup hstop hk =>
      cases k with
      | mapLoad =>
        have hload : (s.startUpStep mv .mapLoad).profiles = s.startImage.profiles := rfl
        rw [hload]
        exact MapImage.profileLaw_iff.1 (State.startImage_profileLaw hslots)
      | _ => exact hprofiles
  · have hmove := h.coreMove
    clear h himages
    have same : ∀ {u : State}, u.slotX = s.slotX → u.slotY = s.slotY → ∀ n, (u.slot n).image.profileLaw = true :=
      fun hx hy n => by
        rw [State.slot_of_eq hx hy]
        exact hslots n
    cases hmove with
    | still h => exact same (congrArg Core.slotX h) (congrArg Core.slotY h)
    | look =>
      intro n
      rcases s.look_slot n with h | ⟨-, h⟩ <;> rw [h]
      · exact hslots n
      · exact hslots n
    | @endEntry i e outcome ha hstop hi he =>
      rcases s.endEntry_core i e outcome with h | ⟨-, -, m, hm, h⟩
      · exact same (congrArg Core.slotX h) (congrArg Core.slotY h)
      · intro n
        have hslot : (s.endEntry i e outcome).slot n = (s.setSlot s.commitSlot ⟨m, s.generation + 1, true⟩).slot n :=
          State.slot_of_eq (congrArg Core.slotX h) (congrArg Core.slotY h) n
        rw [hslot, State.slot_setSlot]
        split
        · rw [hm] at hcommit
          exact hcommit
        · exact hslots n
    | supply h hx => exact same rfl rfl
    | power ha h => exact same rfl rfl
    | fallUnpowered h => exact same rfl rfl
    | fall ha hlow h hi => exact same rfl rfl
    | riseUnpowered h => exact same rfl rfl
    | rise ha hlow h => exact same rfl rfl
    | arrayStops => exact same s.arrayStops_slotX s.arrayStops_slotY
    | @startUp k mv ha hd hlow hsup hstop hk => cases k <;> exact same rfl rfl

/-- The laws that O53 keeps together. -/
structure State.EngineLaws (s : State) : Prop where
  orderly : s.Orderly
  window : s.windowLaw = true
  entry : s.entryLaw = true
  profile : s.profileLaw = true
  target : s.targetLaw = true

theorem State.engineLaws_iff : s.EngineLaws ↔
    (s.engineLaw && s.bankLaw && s.windowLaw && s.overParkedLaw && s.entryLaw && s.profileLaw && s.targetLaw) = true := by
  simp only [Bool.and_eq_true]
  constructor
  · intro h
    obtain ⟨h1, h2, h3⟩ := State.orderly_iff.1 h.orderly
    exact ⟨⟨⟨⟨⟨⟨h1, h2⟩, h.window⟩, h3⟩, h.entry⟩, h.profile⟩, h.target⟩
  · rintro ⟨⟨⟨⟨⟨⟨h1, h2⟩, hw⟩, h3⟩, he⟩, hp⟩, ht⟩
    exact ⟨State.orderly_iff.2 ⟨h1, h2, h3⟩, hw, he, hp, ht⟩

/-- Settles O53: the engine, its entries, the banks and the read window stay in agreement move by move. -/
theorem stepsKeepTheEngineLaws : Obligations.StepsKeepTheEngineLaws := by
  intro s t hs h
  rw [← State.engineLaws_iff] at hs ⊢
  refine step_keeps (P := State.EngineLaws) (fun _ _ _ hm hl => ?_) h hs
  exact ⟨hm.keeps_orderly hl.orderly hl.target, hm.keeps_windowLaw hl.orderly.toAgrees hl.profile hl.window,
    hm.keeps_entryLaw hl.orderly.toAgrees hl.profile hl.entry, hm.keeps_profileLaw hl.profile,
    hm.keeps_targetLaw hl.target⟩

end Sys2Proof.Machine
end

section
/-! The laws of read holders, device, slots and mailboxes, and of the array (R1 to R3, R6, R7, R90, R129, R135 to R137,
R156, R176 to R178). -/

namespace Sys2Proof.Machine

variable {a : Actor} {p : Port} {s t : State}

/-! ### The read holders -/

/-- How many ports' streams hold a bank. -/
def State.streams (s : State) (k : Fin 4) : Nat :=
  ((s.port .a).holds k).toNat + ((s.port .b).holds k).toNat + ((s.port .c).holds k).toNat

theorem State.holderLaw_iff : s.holderLaw = true ↔ ∀ k, s.holders.get k = s.streams k := by
  simp only [State.holderLaw, allBanks, Bool.and_eq_true, decide_eq_true_eq]
  constructor
  · rintro ⟨⟨⟨h0, h1⟩, h2⟩, h3⟩ k
    fin_cases k
    · exact h0
    · exact h1
    · exact h2
    · exact h3
  · exact fun h => ⟨⟨⟨h 0, h 1⟩, h 2⟩, h 3⟩

theorem State.streamLaw_iff : s.streamLaw = true ↔ ∀ p, (s.port p).streamLaw = true := allPorts_iff

theorem State.streams_congr (h : ∀ q k, (t.port q).holds k = (s.port q).holds k) (k : Fin 4) :
    t.streams k = s.streams k := by
  simp only [State.streams, h]

theorem State.streams_eq_zero {k : Fin 4} (h : ∀ q, (s.port q).holds k = false) : s.streams k = 0 := by
  simp [State.streams, h]

/-- One port's stream changes. -/
theorem State.streams_change {r : PortState} (h : ∀ q, t.port q = if q = p then r else s.port q) (k : Fin 4) :
    t.streams k + ((s.port p).holds k).toNat = s.streams k + (r.holds k).toNat := by
  simp only [State.streams, h]
  cases p <;> simp <;> omega

/-- What is left of a count when the port's stream lets go. -/
theorem State.released_count (s : State) (p : Port) (k : Fin 4) :
    (s.released p).holders.get k = s.holders.get k - ((s.port p).holds k).toNat := by
  unfold State.released State.releaseHeld PortState.holds
  cases hf : (s.port p).frame with
  | readStream st =>
    cases hh : st.held with
    | none => simp [hh]
    | some j =>
      unfold State.releaseBank
      by_cases hk : k = j
      · subst hk
        simp [hh]
      · simp [hh, BankCounts.get_set_ne _ _ hk, Ne.symm hk]
  | _ => simp

theorem State.holds_le_streams (s : State) (p : Port) (k : Fin 4) : ((s.port p).holds k).toNat ≤ s.streams k := by
  unfold State.streams
  cases p <;> omega

theorem holds_of_frame {q : PortState} {f : FrameState} (h : q.frame = f) (hf : ∀ st, f ≠ .readStream st) (k : Fin 4) :
    q.holds k = false := PortState.holds_of_not_stream (fun st => h ▸ hf st) k

theorem PortState.powerOn_not_stream (q : PortState) {f : FrameState} (h : f = .inert ∨ f = .deselected)
    (st : ReadStream) : (q.powerOn f).frame ≠ .readStream st := by
  rcases h with rfl | rfl <;> simp [PortState.powerOn, freshPort]

/-- The frame state that power-on gives a port. -/
theorem power_frame {x : SupplyState} {f : FrameState}
    (h : x = .failed ∧ f = .inert ∨ x ≠ .failed ∧ f = if s.resetLow then .inert else .deselected) :
    f = .inert ∨ f = .deselected := by
  rcases h with ⟨-, rfl⟩ | ⟨-, rfl⟩
  · exact .inl rfl
  · split
    · exact .inl rfl
    · exact .inr rfl

theorem State.powerOnValues_holders (s : State) (x : SupplyState) (f : FrameState) (k : Fin 4) :
    (s.powerOnValues x f).holders.get k = 0 := by
  fin_cases k <;> rfl

theorem State.atReset_holders (s : State) (items : List InterruptedItem) (k : Fin 4) :
    (s.atReset items).holders.get k = 0 := by
  fin_cases k <;> rfl

theorem Move.keeps_holderLaw (h : Move a s t) (hi : s.inertLaw = true) (hs : s.holderLaw = true) :
    t.holderLaw = true := by
  rw [State.holderLaw_iff] at hs ⊢
  intro k
  have hmove := h.tameMove
  clear h
  cases hmove with
  | tame h hh hlow hsupply => rw [hh, hs, State.streams_congr (fun q => (h q).holds)]
  | @frame t p f hf h hl hp hh hlow hsupply =>
    have h1 := State.streams_change hp k
    have h2 := s.holds_le_streams p k
    rw [hh, State.released_count, hs]
    omega
  | @signal p d v ha hd =>
    refine (hs k).trans (State.streams_congr (fun q j => ?_) k).symm
    rw [State.port_modifyPort]
    split <;> rfl
  | power h =>
    rw [State.powerOnValues_holders, State.streams_eq_zero fun q => ?_]
    rw [State.powerOnValues_port]
    exact PortState.holds_of_not_stream (PortState.powerOn_not_stream _ (power_frame h)) k
  | unpowered b h => exact hs k
  | fall items =>
    rw [State.atReset_holders, State.streams_eq_zero fun q => ?_]
    rw [State.atReset_port]
    exact holds_of_frame (f := .inert) rfl (by simp) k
  | rise hlow h =>
    rw [State.streams_eq_zero fun q => ?_]
    · refine (hs k).trans (State.streams_eq_zero fun q => ?_)
      exact holds_of_frame ((State.inertLaw_iff.1 hi q).2 (.inl hlow)) (by simp) k
    · rw [State.deselectAll_port]
      exact holds_of_frame (f := .deselected) rfl (by simp) k

theorem Move.keeps_streamLaw (h : Move a s t) (hs : s.streamLaw = true) : t.streamLaw = true := by
  rw [State.streamLaw_iff] at hs ⊢
  intro q
  have hmove := h.tameMove
  clear h
  cases hmove with
  | tame h hh hlow hsupply => exact (h q).stream (hs q)
  | frame hf h hl hp hh hlow hsupply =>
    rw [hp]
    split
    · exact hl
    · exact hs q
  | @signal p d v ha hd =>
    rw [State.port_modifyPort]
    split <;> exact hs q
  | power h =>
    rw [State.powerOnValues_port]
    exact PortState.streamLaw_of_not_stream (PortState.powerOn_not_stream _ (power_frame h))
  | unpowered b h => exact hs q
  | fall items =>
    rw [State.atReset_port]
    rfl
  | rise hlow h =>
    rw [State.deselectAll_port]
    rfl

/-- Settles O54: a stream takes and lets go of its bank together with the count, move by move. -/
theorem stepsKeepTheReadHolders : Obligations.StepsKeepTheReadHolders := by
  intro s t hs h
  simp only [Bool.and_eq_true] at hs ⊢
  refine step_keeps (P := fun s => (s.holderLaw = true ∧ s.streamLaw = true) ∧ s.inertLaw = true)
    (fun _ _ _ hm hl => ?_) h hs
  obtain ⟨⟨hholder, hstream⟩, hinert⟩ := hl
  exact ⟨⟨hm.keeps_holderLaw hinert hholder, hm.keeps_streamLaw hstream⟩, hm.keeps_inertLaw hinert⟩

/-! ### STARTING -/

theorem State.startingLaw_iff : s.startingLaw = true ↔
    (s.device = .starting → s.queue = [] ∧ (s.engine = .idle ∨ s.stopping ≠ [])) ∧
      (s.device = .ready → s.supply ≠ .failed ∧ s.resetLow = false ∧ s.stopping = []) := by
  unfold State.startingLaw
  cases s.device <;> simp [and_assoc]

/-- While STARTING no move brings work, nor the engine out of IDLE, but for an unfinished cut-off. -/
theorem Move.starting_stays (h : Move a s t) (hd : s.device = .starting) (hq : s.queue = [])
    (hg : s.engine = .idle ∨ s.stopping ≠ []) : t.queue = [] ∧ (t.engine = .idle ∨ t.stopping ≠ []) := by
  have hmove := h.workMove
  clear h
  have hentry : s.activeEntry = none := by
    rw [State.activeEntry, State.activeIndex_of_empty hq]
    rfl
  cases hmove with
  | still hw hh =>
    obtain ⟨h1, h2, -, -, h5⟩ := (State.work_iff _ _).1 hw
    rw [h1, h2, h5]
    exact ⟨hq, hg⟩
  | look =>
    rw [State.look_of_empty hq]
    exact ⟨hq, hg⟩
  | request h =>
    obtain ⟨-, -, e, he, -⟩ := State.raisesRequest_active h
    rw [hentry] at he
    cases he
  | append e hw hh hready hqueued hrange htarget =>
    rw [hd] at hready
    cases hready
  | thin q hw hh hthin =>
    obtain ⟨h1, h2, -, -, h5⟩ := (State.work_iff _ _).1 hw
    rw [h1, h2, h5]
    rw [hq] at hthin
    cases hthin
    exact ⟨rfl, hg⟩
  | endEntry hstop hi he hw hh =>
    rw [State.activeIndex_of_empty hq] at hi
    cases hi
  | park hstop heng hi =>
    rw [State.activeIndex_of_empty hq] at hi
    cases hi
  | window w hw hh hopen =>
    obtain ⟨h1, h2, -, -, h5⟩ := (State.work_iff _ _).1 hw
    rw [h1, h2, h5]
    exact ⟨hq, hg⟩
  | power hw =>
    obtain ⟨h1, h2, -, -, -⟩ := (State.work_iff _ _).1 hw
    exact ⟨h1, .inl h2⟩
  | @fall items hi =>
    refine ⟨rfl, ?_⟩
    cases items with
    | nil => exact .inl rfl
    | cons x xs => exact .inr (by simp [State.atReset])
  | arrayStops =>
    by_cases hstop : s.stopping = []
    · rw [State.arrayStops_of_nil hstop]
      exact ⟨hq, hg⟩
    · rw [State.arrayStops_of_ne_nil hstop]
      exact ⟨hq, .inl rfl⟩

theorem State.atReset_empty (s : State) (items : List InterruptedItem) :
    (s.atReset items).queue = [] ∧ ((s.atReset items).engine = .idle ∨ (s.atReset items).stopping ≠ []) := by
  refine ⟨rfl, ?_⟩
  cases items with
  | nil => exact .inl rfl
  | cons x xs => exact .inr (by simp [State.atReset])

theorem Move.keeps_startingLaw (h : Move a s t) (hs : s.startingLaw = true) : t.startingLaw = true := by
  rw [State.startingLaw_iff] at hs ⊢
  obtain ⟨hstarting, hready⟩ := hs
  have stays : t.device = s.device → t.device = .starting → t.queue = [] ∧ (t.engine = .idle ∨ t.stopping ≠ []) :=
    fun heq hd => by
      rw [heq] at hd
      exact h.starting_stays hd (hstarting hd).1 (hstarting hd).2
  have hmove := h.coreMove
  clear h
  cases hmove with
  | still h =>
    refine ⟨stays (congrArg Core.device h), fun hd => ?_⟩
    rw [show t.supply = s.supply from congrArg Core.supply h, show t.resetLow = s.resetLow from congrArg Core.resetLow h,
      show t.stopping = s.stopping from congrArg Core.stopping h]
    exact hready ((congrArg Core.device h).symm.trans hd)
  | look =>
    have hstop : s.look.stopping = s.stopping := by rw [State.look_eq]
    refine ⟨stays s.look_device, fun hd => ?_⟩
    rw [s.look_supply, s.look_resetLow, hstop]
    exact hready (s.look_device ▸ hd)
  | @endEntry i e outcome ha hstop hi he =>
    obtain ⟨hdevice, -, hlow, hsupply, -, hstop'⟩ := s.endEntry_device i e outcome
    refine ⟨stays hdevice, fun hd => ?_⟩
    rw [hlow, hsupply, hstop']
    exact hready (hdevice ▸ hd)
  | supply h hx => exact ⟨stays rfl, fun hd => ⟨hx, (hready hd).2⟩⟩
  | power ha h => exact ⟨fun _ => ⟨rfl, .inl rfl⟩, nofun⟩
  | fallUnpowered h => exact ⟨stays rfl, fun hd => absurd h (hready hd).1⟩
  | fall ha hlow h hi => exact ⟨fun _ => s.atReset_empty _, nofun⟩
  | riseUnpowered h => exact ⟨stays rfl, fun hd => absurd h (hready hd).1⟩
  | rise ha hlow h =>
    refine ⟨stays rfl, fun hd => ?_⟩
    have hhigh := (hready hd).2.1
    rw [hlow] at hhigh
    cases hhigh
  | arrayStops =>
    refine ⟨stays s.arrayStops_device, fun hd => ?_⟩
    rw [s.arrayStops_supply, s.arrayStops_resetLow, s.arrayStops_stopping]
    obtain ⟨h1, h2, -⟩ := hready (s.arrayStops_device ▸ hd)
    exact ⟨h1, h2, rfl⟩
  | @startUp k mv ha hd hlow hsup hstop hk =>
    cases k with
    | ready => exact ⟨nofun, fun _ => ⟨hsup, hlow, hstop⟩⟩
    | _ =>
      refine ⟨stays rfl, fun hd' => ?_⟩
      have hd'' : s.device = .ready := hd'
      rw [hd] at hd''
      cases hd''

/-! ### The slots -/

/-- R178: the current slot is valid, and MAP_DEFAULTED is set exactly when there is none. -/
def State.slotChosen (s : State) : Prop :=
  (∀ n, s.currentSlot = some n → (s.slot n).mark = true ∧ s.mapDefaulted = false) ∧
    (s.currentSlot = none → s.mapDefaulted = true)

/-- R156, R158: the working generation is the current slot's. -/
def State.mapLoaded (s : State) : Prop :=
  (∀ n, s.currentSlot = some n → (s.slot n).generation = s.generation) ∧
    (s.currentSlot = none → s.generation = 0)

theorem State.slotLaw_iff : s.slotLaw = true ↔
    (s.device = .ready → s.slotChosen ∧ s.mapLoaded ∧ s.startUpSteps = 0) ∧
    (s.device = .starting → (s.startUpSteps ≠ 0 → s.slotChosen ∧ s.currentSlot = chooseSlot s.slotX s.slotY) ∧
      (1 < s.startUpSteps → s.mapLoaded) ∧ s.startUpSteps ≤ 4) := by
  unfold State.slotLaw State.slotChosen State.mapLoaded
  have zero : ∀ (x y : Bool), ((decide (s.startUpSteps = 0) || x && y) = true ↔
      (s.startUpSteps ≠ 0 → x = true ∧ y = true)) := by
    intro x y
    by_cases h : s.startUpSteps = 0 <;> simp [h]
  have one : ∀ x : Bool, ((decide (s.startUpSteps ≤ 1) || x) = true ↔ (1 < s.startUpSteps → x = true)) := by
    intro x
    by_cases h : s.startUpSteps ≤ 1
    · simp [h, Nat.not_lt.2 h]
    · simp [h, Nat.not_le.1 h]
  cases s.device <;> cases s.currentSlot <;>
    simp only [Bool.and_eq_true, zero, one, decide_eq_true_eq] <;> simp [and_assoc]

theorem State.slotChosen_congr {u : State} (hs : ∀ n, u.slot n = s.slot n) (hc : u.currentSlot = s.currentSlot)
    (hd : u.mapDefaulted = s.mapDefaulted) : u.slotChosen ↔ s.slotChosen := by
  simp only [State.slotChosen, hs, hc, hd]

theorem State.mapLoaded_congr {u : State} (hs : ∀ n, u.slot n = s.slot n) (hc : u.currentSlot = s.currentSlot)
    (hg : u.generation = s.generation) : u.mapLoaded ↔ s.mapLoaded := by
  simp only [State.mapLoaded, hs, hc, hg]

theorem State.slotLaw_of_core (h : t.core = s.core) (hs : s.slotLaw = true) : t.slotLaw = true := by
  have hslot := State.slot_of_eq (congrArg Core.slotX h) (congrArg Core.slotY h)
  have h1 : t.slotX = s.slotX := congrArg Core.slotX h
  have h2 : t.slotY = s.slotY := congrArg Core.slotY h
  have h3 : t.currentSlot = s.currentSlot := congrArg Core.currentSlot h
  have h4 : t.mapDefaulted = s.mapDefaulted := congrArg Core.mapDefaulted h
  have h5 : t.generation = s.generation := congrArg Core.generation h
  have h6 : t.device = s.device := congrArg Core.device h
  have h7 : t.startUpSteps = s.startUpSteps := congrArg Core.startUpSteps h
  rw [State.slotLaw_iff] at hs ⊢
  simp only [State.slotChosen, State.mapLoaded, hslot, h1, h2, h3, h4, h5, h6, h7]
  exact hs

theorem State.commitSlot_ne {n : SlotName} (h : s.currentSlot = some n) : n ≠ s.commitSlot := by
  cases n <;> simp [State.commitSlot, h]

/-- The slot that start-up chooses is valid. -/
theorem chooseSlot_mark {n : SlotName} (h : chooseSlot s.slotX s.slotY = some n) : (s.slot n).mark = true := by
  unfold chooseSlot at h
  split at h
  · next hx hy =>
    split at h <;> cases h
    · exact hy
    · exact hx
  · next hx hy =>
    cases h
    exact hx
  · next hx hy =>
    cases h
    exact hy
  · cases h

/-- Where there is an entry the device is READY (R176). -/
theorem State.ready_of_mem (hstart : s.startingLaw = true) {e : Entry} (he : e ∈ s.queue) : s.device = .ready := by
  obtain ⟨hstarting, -⟩ := State.startingLaw_iff.1 hstart
  cases hd : s.device with
  | ready => rfl
  | starting =>
    rw [(hstarting hd).1] at he
    cases he

theorem State.look_slotLaw (hstart : s.startingLaw = true) (hs : s.slotLaw = true) : s.look.slotLaw = true := by
  obtain ⟨hready, hsteps⟩ := State.slotLaw_iff.1 hs
  cases hq : s.queue with
  | nil =>
    rw [State.look_of_empty hq]
    exact hs
  | cons e q =>
    have hd := State.ready_of_mem hstart (e := e) (by simp [hq])
    obtain ⟨⟨hchosen, hnone⟩, ⟨hloaded, hzero⟩, hsteps0⟩ := hready hd
    have hslot : ∀ n, s.currentSlot = some n → s.look.slot n = s.slot n := fun n hn => by
      rcases s.look_slot n with h | ⟨h, -⟩
      · exact h
      · exact absurd h (State.commitSlot_ne hn)
    refine State.slotLaw_iff.2 ⟨fun _ => ⟨⟨fun n hn => ?_, fun hn => ?_⟩, ⟨fun n hn => ?_, fun hn => ?_⟩, ?_⟩,
      fun h => ?_⟩
    · rw [s.look_currentSlot] at hn
      rw [hslot n hn, s.look_mapDefaulted]
      exact hchosen n hn
    · rw [s.look_currentSlot] at hn
      rw [s.look_mapDefaulted]
      exact hnone hn
    · rw [s.look_currentSlot] at hn
      rw [hslot n hn, s.look_generation]
      exact hloaded n hn
    · rw [s.look_currentSlot] at hn
      rw [s.look_generation]
      exact hzero hn
    · rw [s.look_startUpSteps]
      exact hsteps0
    · rw [s.look_device, hd] at h
      cases h

theorem State.endEntry_slotLaw {i : Nat} {e : Entry} (outcome : EndOutcome) (hstart : s.startingLaw = true)
    (he : s.queue[i]? = some e) (hs : s.slotLaw = true) : (s.endEntry i e outcome).slotLaw = true := by
  obtain ⟨hready, hsteps⟩ := State.slotLaw_iff.1 hs
  have hd := State.ready_of_mem hstart (List.mem_of_getElem? he)
  rcases s.endEntry_core i e outcome with h | ⟨-, -, m, hm, h⟩
  · refine State.slotLaw_of_core (s := { s with mem := (s.endEntry i e outcome).mem }) h ?_
    exact hs
  · have hslot : ∀ n, (s.endEntry i e outcome).slot n = (s.setSlot s.commitSlot ⟨m, s.generation + 1, true⟩).slot n :=
      State.slot_of_eq (congrArg Core.slotX h) (congrArg Core.slotY h)
    have hcurrent : (s.endEntry i e outcome).currentSlot = some s.commitSlot := congrArg Core.currentSlot h
    have hdefaulted : (s.endEntry i e outcome).mapDefaulted = false := congrArg Core.mapDefaulted h
    have hgeneration : (s.endEntry i e outcome).generation = s.generation + 1 := congrArg Core.generation h
    have hsteps' : (s.endEntry i e outcome).startUpSteps = s.startUpSteps := congrArg Core.startUpSteps h
    have hdevice : (s.endEntry i e outcome).device = s.device := congrArg Core.device h
    refine State.slotLaw_iff.2 ⟨fun _ => ⟨⟨fun n hn => ?_, fun hn => ?_⟩, ⟨fun n hn => ?_, fun hn => ?_⟩, ?_⟩,
      fun h => ?_⟩
    · rw [hcurrent, Option.some.injEq] at hn
      rw [hslot, State.slot_setSlot, if_pos hn.symm, hdefaulted]
      exact ⟨rfl, rfl⟩
    · rw [hcurrent] at hn
      cases hn
    · rw [hcurrent, Option.some.injEq] at hn
      rw [hslot, State.slot_setSlot, if_pos hn.symm, hgeneration]
    · rw [hcurrent] at hn
      cases hn
    · rw [hsteps']
      exact (hready hd).2.2
    · rw [hdevice, hd] at h
      cases h

/-- While STARTING the law speaks of the steps made. -/
theorem State.slotLaw_starting {u : State} (h1 : u.device = .starting)
    (h2 : u.startUpSteps ≠ 0 → u.slotChosen ∧ u.currentSlot = chooseSlot u.slotX u.slotY)
    (h3 : 1 < u.startUpSteps → u.mapLoaded) (h4 : u.startUpSteps ≤ 4) : u.slotLaw = true :=
  State.slotLaw_iff.2 ⟨fun h => absurd (h1.symm.trans h) (by decide), fun _ => ⟨h2, h3, h4⟩⟩

theorem State.startUpStep_slot (s : State) (mv : Nat) (k : StartUpStep) (n : SlotName) :
    (s.startUpStep mv k).slot n = s.slot n := by
  cases k <;> exact State.slot_of_eq rfl rfl n

theorem State.startUpStep_slotLaw {k : StartUpStep} (mv : Nat) (hd : s.device = .starting)
    (hk : s.startUpSteps = startUpPlace k) (hs : s.slotLaw = true) : (s.startUpStep mv k).slotLaw = true := by
  obtain ⟨hchosen, hloaded, -⟩ := (State.slotLaw_iff.1 hs).2 hd
  cases k with
  | slotChoice =>
    refine State.slotLaw_starting hd (fun _ => ⟨⟨fun n hn => ?_, fun hn => ?_⟩, rfl⟩)
      (fun h => absurd h (Nat.lt_irrefl 1)) (by decide : (1 : Nat) ≤ 4)
    · have hn' : chooseSlot s.slotX s.slotY = some n := hn
      refine ⟨?_, ?_⟩
      · rw [State.startUpStep_slot]
        exact chooseSlot_mark hn'
      · show (chooseSlot s.slotX s.slotY).isNone = false
        rw [hn']
        rfl
    · show (chooseSlot s.slotX s.slotY).isNone = true
      have hn' : chooseSlot s.slotX s.slotY = none := hn
      rw [hn']
      rfl
  | mapLoad =>
    obtain ⟨h1, h3⟩ := hchosen (by rw [hk]; decide)
    have chosen := (State.slotChosen_congr (s.startUpStep_slot mv .mapLoad) rfl rfl).2 h1
    have loaded : (s.startUpStep mv .mapLoad).mapLoaded := by
      refine ⟨fun n hn => ?_, fun hn => ?_⟩
      · rw [State.startUpStep_slot]
        have hn' : s.currentSlot = some n := hn
        show (s.slot n).generation = s.startGeneration
        simp [State.startGeneration, hn']
      · have hn' : s.currentSlot = none := hn
        show s.startGeneration = 0
        simp [State.startGeneration, hn']
    exact State.slotLaw_starting hd (fun _ => ⟨chosen, h3⟩) (fun _ => loaded) (by decide : (2 : Nat) ≤ 4)
  | enables =>
    obtain ⟨h1, h3⟩ := hchosen (by rw [hk]; decide)
    have h4 := hloaded (by rw [hk]; decide)
    have chosen := (State.slotChosen_congr (s.startUpStep_slot mv .enables) rfl rfl).2 h1
    have loaded := (State.mapLoaded_congr (s.startUpStep_slot mv .enables) rfl rfl).2 h4
    exact State.slotLaw_starting hd (fun _ => ⟨chosen, h3⟩) (fun _ => loaded) (by decide : (3 : Nat) ≤ 4)
  | assessment =>
    obtain ⟨h1, h3⟩ := hchosen (by rw [hk]; decide)
    have h4 := hloaded (by rw [hk]; decide)
    have chosen := (State.slotChosen_congr (s.startUpStep_slot mv .assessment) rfl rfl).2 h1
    have loaded := (State.mapLoaded_congr (s.startUpStep_slot mv .assessment) rfl rfl).2 h4
    exact State.slotLaw_starting hd (fun _ => ⟨chosen, h3⟩) (fun _ => loaded) (by decide : (4 : Nat) ≤ 4)
  | ready =>
    obtain ⟨h1, -⟩ := hchosen (by rw [hk]; decide)
    have h4 := hloaded (by rw [hk]; decide)
    have chosen := (State.slotChosen_congr (s.startUpStep_slot mv .ready) rfl rfl).2 h1
    have loaded := (State.mapLoaded_congr (s.startUpStep_slot mv .ready) rfl rfl).2 h4
    exact State.slotLaw_iff.2 ⟨fun _ => ⟨chosen, loaded, rfl⟩, nofun⟩

theorem Move.keeps_slotLaw (h : Move a s t) (hstart : s.startingLaw = true) (hs : s.slotLaw = true) :
    t.slotLaw = true := by
  have hmove := h.coreMove
  clear h
  cases hmove with
  | still h => exact State.slotLaw_of_core h hs
  | look => exact State.look_slotLaw hstart hs
  | endEntry outcome ha hstop hi he => exact State.endEntry_slotLaw outcome hstart he hs
  | supply h hx => exact hs
  | power ha h => exact State.slotLaw_iff.2 ⟨nofun, fun _ => ⟨fun h => absurd rfl h, nofun, Nat.zero_le _⟩⟩
  | fallUnpowered h => exact hs
  | fall ha hlow h hi => exact State.slotLaw_iff.2 ⟨nofun, fun _ => ⟨fun h => absurd rfl h, nofun, Nat.zero_le _⟩⟩
  | riseUnpowered h => exact hs
  | rise ha hlow h => exact hs
  | arrayStops =>
    by_cases hstop : s.stopping = []
    · rw [State.arrayStops_of_nil hstop]
      exact hs
    · rw [State.arrayStops_of_ne_nil hstop]
      exact hs
  | startUp mv ha hd hlow hsup hstop hk => exact State.startUpStep_slotLaw mv hd hk hs

/-- Settles O58: the laws of the device are kept move by move. -/
theorem stepsKeepTheDeviceLaws : Obligations.StepsKeepTheDeviceLaws := by
  intro s t hs h
  simp only [Bool.and_eq_true] at hs ⊢
  refine step_keeps (P := fun s => ((((s.clockLaw = true ∧ s.inertLaw = true) ∧ s.startingLaw = true) ∧
    s.slotLaw = true) ∧ s.mailboxLaw = true) ∧ s.lineLaw = true) (fun _ _ _ hm hl => ?_) h hs
  obtain ⟨⟨⟨⟨⟨hclock, hinert⟩, hstarting⟩, hslot⟩, hmailbox⟩, hline⟩ := hl
  exact ⟨⟨⟨⟨⟨hm.keeps_clockLaw hclock, hm.keeps_inertLaw hinert⟩, hm.keeps_startingLaw hstarting⟩,
    hm.keeps_slotLaw hstarting hslot⟩, hm.keeps_mailboxLaw hmailbox⟩, hm.keeps_lineLaw hline⟩

end Sys2Proof.Machine
end

section
/-! The Program Buffers and the sizes of the tables (R100 to R103): who owns a buffer, and the moves that change it. -/

namespace Sys2Proof.Machine

variable {a : Actor} {p : Port} {s t : State}

/-! ### Owners -/

/-- The state of a buffer. -/
def State.bufferState (s : State) (b : Nat) : Option BufferState := (s.buffers[b]?).map (fun u => u.state)

/-- What the buffer laws read of an entry. -/
def Entry.bufferKey (e : Entry) : Port × EntryKind × Option Nat := (e.port, e.kind, e.buffer)

def State.bufferKeys (s : State) : List (Port × EntryKind × Option Nat) := s.queue.map Entry.bufferKey

/-- The buffers that entries name, and those that handles name. -/
def State.boundNames (s : State) : List Nat := s.bufferKeys.filterMap (fun k => k.2.2)

def State.mappedNames (s : State) : List Nat :=
  ((s.port .a).handles ++ (s.port .b).handles ++ (s.port .c).handles).filterMap id

/-- R102: the buffers of entries are BOUND, those of handles FILLING, no other is either, and none is named twice. -/
structure Owned (bound mapped : List Nat) (st : Nat → Option BufferState) : Prop where
  apart : (bound ++ mapped).Nodup
  bound : ∀ b, b ∈ bound ↔ st b = some .bound
  mapped : ∀ b, b ∈ mapped ↔ st b = some .filling

namespace Owned

variable {es es' hs hs' gone : List Nat} {st st' : Nat → Option BufferState} {b : Nat}

theorem congr (h : Owned es hs st) (hst : ∀ c, st' c = st c) : Owned es hs st' :=
  ⟨h.apart, fun c => by rw [hst, h.bound], fun c => by rw [hst, h.mapped]⟩

theorem perm (h : Owned es hs st) (he : es.Perm es') (hh : hs.Perm hs') : Owned es' hs' st :=
  ⟨((he.append hh).nodup_iff).1 h.apart, fun c => by rw [← h.bound, he.mem_iff], fun c => by rw [← h.mapped, hh.mem_iff]⟩

/-- Entries leave and their buffers go to FREE. -/
theorem release (h : Owned (gone ++ es) hs st)
    (hst : ∀ c, st' c = if c ∈ gone then (st c).map (fun _ => .free) else st c) : Owned es hs st' := by
  have hn := h.apart
  rw [List.append_assoc] at hn
  obtain ⟨-, hrest, hdisj⟩ := List.nodup_append.1 hn
  refine ⟨hrest, fun c => ?_, fun c => ?_⟩
  · rw [hst]
    by_cases hc : c ∈ gone
    · have hne : c ∉ es := fun he => hdisj c hc c (List.mem_append_left _ he) rfl
      have hb := (h.bound c).1 (List.mem_append_left _ hc)
      simp [hc, hne, hb]
    · rw [if_neg hc, ← h.bound, List.mem_append]
      simp [hc]
  · rw [hst]
    by_cases hc : c ∈ gone
    · have hne : c ∉ hs := fun hh => hdisj c hc c (List.mem_append_right _ hh) rfl
      have hb := (h.bound c).1 (List.mem_append_left _ hc)
      simp [hc, hne, hb]
    · rw [if_neg hc, h.mapped]

/-- Handles give their buffers up, which go to FREE. -/
theorem unmap (h : Owned es (gone ++ hs) st)
    (hst : ∀ c, st' c = if c ∈ gone then (st c).map (fun _ => .free) else st c) : Owned es hs st' := by
  obtain ⟨he, hgh, hdisj⟩ := List.nodup_append.1 h.apart
  obtain ⟨-, hhs, hdisj'⟩ := List.nodup_append.1 hgh
  refine ⟨List.nodup_append.2 ⟨he, hhs, fun x hx y hy => hdisj x hx y (List.mem_append_right _ hy)⟩, fun c => ?_,
    fun c => ?_⟩
  · rw [hst]
    by_cases hc : c ∈ gone
    · have hne : c ∉ es := fun he => hdisj c he c (List.mem_append_left _ hc) rfl
      have hb := (h.mapped c).1 (List.mem_append_left _ hc)
      simp [hc, hne, hb]
    · rw [if_neg hc, h.bound]
  · rw [hst]
    by_cases hc : c ∈ gone
    · have hne : c ∉ hs := fun hh => hdisj' c hc c hh rfl
      have hb := (h.mapped c).1 (List.mem_append_left _ hc)
      simp [hc, hne, hb]
    · rw [if_neg hc, ← h.mapped, List.mem_append]
      simp [hc]

/-- A FREE buffer is mapped. -/
theorem map (h : Owned es hs st) (hb : st b = some .free)
    (hst : ∀ c, st' c = if c = b then some .filling else st c) : Owned es (b :: hs) st' := by
  have he : b ∉ es := fun hm => by simp [(h.bound b).1 hm] at hb
  have hh : b ∉ hs := fun hm => by simp [(h.mapped b).1 hm] at hb
  refine ⟨List.perm_middle.nodup_iff.2 (List.nodup_cons.2 ⟨by simp [he, hh], h.apart⟩), fun c => ?_, fun c => ?_⟩
  · rw [hst]
    by_cases hc : c = b
    · subst hc
      simp [he]
    · rw [if_neg hc, h.bound]
  · rw [hst]
    by_cases hc : c = b
    · subst hc
      simp
    · rw [if_neg hc, ← h.mapped]
      simp [hc]

/-- A mapped buffer is bound to an entry. -/
theorem bind (h : Owned es (b :: hs) st) (hst : ∀ c, st' c = if c = b then some .bound else st c) :
    Owned (b :: es) hs st' := by
  have hn := List.perm_middle.nodup_iff.1 h.apart
  obtain ⟨hnot, -⟩ := List.nodup_cons.1 hn
  simp only [List.mem_append, not_or] at hnot
  refine ⟨hn, fun c => ?_, fun c => ?_⟩
  · rw [hst]
    by_cases hc : c = b
    · subst hc
      simp
    · rw [if_neg hc, ← h.bound]
      simp [hc]
  · rw [hst]
    by_cases hc : c = b
    · subst hc
      simp [hnot.2]
    · rw [if_neg hc, ← h.mapped]
      simp [hc]

end Owned

/-! ### The law as ownership -/

/-- The places of the list whose elements satisfy a condition. -/
def places {α : Type} (f : α → Bool) (l : List α) : List Nat := (List.range l.length).filter (fun i => (l[i]?).any f)

theorem mem_places {α : Type} {f : α → Bool} {l : List α} {i : Nat} : i ∈ places f l ↔ ∃ x, l[i]? = some x ∧ f x = true := by
  simp only [places, List.mem_filter, List.mem_range]
  constructor
  · rintro ⟨hlt, h⟩
    rw [List.getElem?_eq_getElem hlt] at h ⊢
    exact ⟨_, rfl, by simpa using h⟩
  · rintro ⟨x, hx, hf⟩
    obtain ⟨hlt, -⟩ := List.getElem?_eq_some_iff.1 hx
    exact ⟨hlt, by simp [hx, hf]⟩

theorem places_nodup {α : Type} (f : α → Bool) (l : List α) : (places f l).Nodup := List.nodup_range.filter _

theorem length_places {α : Type} (f : α → Bool) (l : List α) : (places f l).length = l.countP f := by
  induction l using List.reverseRecOn with
  | nil => rfl
  | append_singleton l x ih =>
    have hold : (List.range l.length).filter (fun i => ((l ++ [x])[i]?).any f) = places f l := by
      refine List.filter_congr fun i hi => ?_
      rw [List.getElem?_append_left (List.mem_range.1 hi)]
    unfold places
    rw [List.length_append, List.length_singleton, List.range_succ, List.filter_append, hold, List.length_append, ih,
      List.countP_append]
    cases hf : f x <;> simp [hf]

theorem State.namedBuffers_eq (s : State) : s.namedBuffers = s.boundNames ++ s.mappedNames := by
  simp only [State.namedBuffers, State.boundNames, State.bufferKeys, List.filterMap_map]
  rfl

theorem State.bufferStates_iff : s.bufferStates = true ↔
    (∀ b ∈ s.boundNames, s.bufferState b = some .bound) ∧ ∀ b ∈ s.mappedNames, s.bufferState b = some .filling := by
  unfold State.bufferStates
  rw [Bool.and_eq_true, List.all_eq_true, List.all_eq_true]
  refine and_congr ?_ ?_
  · simp only [State.boundNames, State.bufferKeys, List.mem_filterMap, List.mem_map, exists_exists_and_eq_and,
      Entry.bufferKey]
    constructor
    · rintro h b ⟨e, he, hb⟩
      simpa [hb, State.bufferState] using h e he
    · intro h e he
      cases hb : e.buffer with
      | none => rfl
      | some b => simpa [State.bufferState] using h b ⟨e, he, hb⟩
  · simp only [State.mappedNames, List.mem_filterMap, id_eq]
    constructor
    · rintro h b ⟨o, ho, rfl⟩
      simpa [State.bufferState] using h _ ho
    · intro h o ho
      cases o with
      | none => rfl
      | some b => simpa [State.bufferState] using h b ⟨_, ho, rfl⟩

/-- R102 as ownership. -/
theorem State.bufferLaw_iff : s.bufferLaw = true ↔ Owned s.boundNames s.mappedNames s.bufferState ∧
    ∀ k ∈ s.bufferKeys, k.2.2.isSome = decide (k.2.1 = .program) := by
  have hkeys : (s.queue.all (fun e => decide (e.buffer.isSome = decide (e.kind = .program)))) = true ↔
      ∀ k ∈ s.bufferKeys, k.2.2.isSome = decide (k.2.1 = .program) := by
    simp [State.bufferKeys, Entry.bufferKey]
  unfold State.bufferLaw
  rw [Bool.and_eq_true, Bool.and_eq_true, Bool.and_eq_true, hkeys, State.bufferStates_iff, decide_eq_true_eq,
    decide_eq_true_eq, State.namedBuffers_eq, ← length_places]
  refine and_congr_left fun _ => ?_
  constructor
  · rintro ⟨⟨⟨hbound, hmapped⟩, hnodup⟩, hlen⟩
    have hsub : (s.boundNames ++ s.mappedNames) ⊆ places (fun u : Buffer => decide (u.state ≠ .free)) s.buffers := by
      intro b hb
      have hst : ∃ x, s.bufferState b = some x ∧ x ≠ .free := by
        rcases List.mem_append.1 hb with h | h
        · exact ⟨_, hbound b h, by simp⟩
        · exact ⟨_, hmapped b h, by simp⟩
      obtain ⟨x, hx, hne⟩ := hst
      obtain ⟨u, hu, rfl⟩ := Option.map_eq_some_iff.1 hx
      exact mem_places.2 ⟨u, hu, by simpa using hne⟩
    have hperm := (hnodup.subperm hsub).perm_of_length_le hlen.ge
    have named : ∀ b x, s.bufferState b = some x → x ≠ .free → b ∈ s.boundNames ∨ b ∈ s.mappedNames := by
      intro b x hx hne
      obtain ⟨u, hu, rfl⟩ := Option.map_eq_some_iff.1 hx
      exact List.mem_append.1 (hperm.mem_iff.2 (mem_places.2 ⟨u, hu, by simpa using hne⟩))
    refine ⟨hnodup, fun b => ⟨hbound b, fun h => ?_⟩, fun b => ⟨hmapped b, fun h => ?_⟩⟩
    · rcases named b _ h (by simp) with h1 | h1
      · exact h1
      · rw [hmapped b h1] at h
        cases h
    · rcases named b _ h (by simp) with h1 | h1
      · rw [hbound b h1] at h
        cases h
      · exact h1
  · intro h
    refine ⟨⟨⟨fun b => (h.bound b).1, fun b => (h.mapped b).1⟩, h.apart⟩, ?_⟩
    refine List.Perm.length_eq ((List.perm_ext_iff_of_nodup h.apart (places_nodup _ _)).2 fun b => ?_)
    rw [List.mem_append, h.bound, h.mapped, mem_places]
    unfold State.bufferState
    cases s.buffers[b]? with
    | none => simp
    | some u => cases hu : u.state <;> simp [hu]

end Sys2Proof.Machine
end

section
/-! The moves that change buffers and handles, and the laws they keep (R100 to R103). -/

namespace Sys2Proof.Machine

variable {a : Actor} {p : Port} {s t : State}

/-! ### Buffers and handles after the operations -/

theorem State.bufferState_modifyBuffer (s : State) (b c : Nat) (f : Buffer → Buffer) :
    (s.modifyBuffer b f).bufferState c =
      if c = b then (s.buffers[c]?).map (fun u => (f u).state) else s.bufferState c := by
  unfold State.bufferState State.modifyBuffer
  rw [List.getElem?_modify]
  by_cases h : b = c
  · subst h
    simp [Option.map_map, Function.comp_def]
  · simp [h, Ne.symm h]

theorem State.bufferState_free (s : State) (b c : Nat) :
    (s.modifyBuffer b (fun u => { u with state := .free })).bufferState c =
      if c = b then (s.bufferState c).map (fun _ => .free) else s.bufferState c := by
  rw [State.bufferState_modifyBuffer]
  unfold State.bufferState
  rw [Option.map_map]
  rfl

theorem State.bufferState_freeEntryBuffer (s : State) (e : Entry) (c : Nat) :
    (s.freeEntryBuffer e).bufferState c =
      if e.buffer = some c then (s.bufferState c).map (fun _ => .free) else s.bufferState c := by
  unfold State.freeEntryBuffer
  cases hb : e.buffer with
  | none => simp
  | some b =>
    simp only [State.bufferState_free, Option.some.injEq]
    by_cases h : c = b
    · simp [h]
    · simp [h, Ne.symm h]

/-- The buffers of the entries that leave go to FREE. -/
theorem State.bufferState_foldl_freeEntryBuffer (c : Nat) (es : List Entry) :
    ∀ s : State, (es.foldl State.freeEntryBuffer s).bufferState c =
      if c ∈ es.filterMap (fun e => e.buffer) then (s.bufferState c).map (fun _ => .free) else s.bufferState c := by
  induction es with
  | nil => simp
  | cons e es ih =>
    intro s
    rw [List.foldl_cons, ih, State.bufferState_freeEntryBuffer]
    cases hb : e.buffer with
    | none => simp [hb]
    | some b =>
      by_cases hc : b = c
      · subst hc
        simp [hb, Function.comp_def]
      · simp [hb, hc, Ne.symm hc]

theorem State.loseEntry_bufferState (s : State) (e : Entry) (c : Nat) :
    (s.loseEntry e).bufferState c = (s.freeEntryBuffer e).bufferState c := rfl

theorem State.bufferState_foldl_loseEntry (c : Nat) (es : List Entry) :
    ∀ s : State, (es.foldl State.loseEntry s).bufferState c =
      if c ∈ es.filterMap (fun e => e.buffer) then (s.bufferState c).map (fun _ => .free) else s.bufferState c := by
  induction es with
  | nil => simp
  | cons e es ih =>
    intro s
    rw [List.foldl_cons, ih, State.loseEntry_bufferState, State.bufferState_freeEntryBuffer]
    cases hb : e.buffer with
    | none => simp [hb]
    | some b =>
      by_cases hc : b = c
      · subst hc
        simp [hb, Function.comp_def]
      · simp [hb, hc, Ne.symm hc]

theorem State.bufferState_foldl_freeHandleBuffer (c : Nat) (hs : List (Option Nat)) :
    ∀ s : State, (hs.foldl State.freeHandleBuffer s).bufferState c =
      if c ∈ hs.filterMap id then (s.bufferState c).map (fun _ => .free) else s.bufferState c := by
  induction hs with
  | nil => simp
  | cons h hs ih =>
    intro s
    rw [List.foldl_cons, ih]
    cases h with
    | none => simp [State.freeHandleBuffer]
    | some b =>
      simp only [State.freeHandleBuffer, State.bufferState_free]
      by_cases hc : c = b
      · subst hc
        simp [Function.comp_def]
      · simp [hc]

/-- A change of regions and notices leaves buffers and handles. -/
theorem OnlyLeases.bufferState (h : OnlyLeases s t) (c : Nat) : t.bufferState c = s.bufferState c := by rw [h.eq]; rfl

theorem OnlyLeases.handles (h : OnlyLeases s t) (q : Port) : (t.port q).handles = (s.port q).handles := by
  rw [h.port_eq q]

theorem OnlyLeases.bufferKeys (h : OnlyLeases s t) : t.bufferKeys = s.bufferKeys := by rw [h.eq]; rfl

theorem State.handles_modifyPort {f : PortState → PortState} (h : (f (s.port p)).handles = (s.port p).handles)
    (q : Port) : ((s.modifyPort p f).port q).handles = (s.port q).handles := by
  rw [State.port_modifyPort]
  split
  · next hq => rw [hq, h]
  · rfl

theorem State.handles_of_ports (h : t.ports = s.ports) (q : Port) : (t.port q).handles = (s.port q).handles := by
  rw [State.port, State.port, h]

theorem State.postRecord_handles (s : State) (e : Entry) (x : Status) (q : Port) :
    ((s.postRecord e x).port q).handles = (s.port q).handles := by
  unfold State.postRecord
  exact State.handles_modifyPort (by rfl) q

theorem State.foldl_loseEntry_handles (q : Port) (es : List Entry) :
    ∀ s : State, ((es.foldl State.loseEntry s).port q).handles = (s.port q).handles := by
  induction es with
  | nil => exact fun _ => rfl
  | cons e es ih =>
    intro s
    rw [List.foldl_cons, ih]
    exact (State.postRecord_handles _ _ _ q).trans (State.handles_of_ports (s.freeEntryBuffer_ports e) q)

/-! ### The moves -/

/-- The moves, as far as buffers, handles and the entries' buffers are concerned. -/
inductive BufferMove (s : State) : State → Prop
  | still {t : State} (hq : t.bufferKeys = s.bufferKeys) (hh : ∀ q, (t.port q).handles = (s.port q).handles)
      (hb : ∀ b, t.bufferState b = s.bufferState b) : BufferMove s t
  | map {t : State} {p : Port} {h : Byte} {b : Nat} (hle : h.toNat ≤ 3) (hnone : (s.port p).handle h = none)
      (hfree : s.bufferState b = some .free) (hown : s.ownedBuffers p < 4) (hq : t.bufferKeys = s.bufferKeys)
      (hh : ∀ q, (t.port q).handles = if q = p then (s.port q).handles.set h.toNat (some b) else (s.port q).handles)
      (hb : ∀ c, t.bufferState c = if c = b then some .filling else s.bufferState c) : BufferMove s t
  | unmap {t : State} {p : Port} {h : Byte} {b : Nat} (hle : h.toNat ≤ 3) (hmap : (s.port p).handle h = some b)
      (hq : t.bufferKeys = s.bufferKeys)
      (hh : ∀ q, (t.port q).handles = if q = p then (s.port q).handles.set h.toNat none else (s.port q).handles)
      (hb : ∀ c, t.bufferState c = if c = b then (s.bufferState c).map (fun _ => .free) else s.bufferState c) :
      BufferMove s t
  | bind {t : State} {p : Port} {h : Byte} {b : Nat} (hle : h.toNat ≤ 3) (hmap : (s.port p).handle h = some b)
      (hq : t.bufferKeys = s.bufferKeys ++ [(p, .program, some b)])
      (hh : ∀ q, (t.port q).handles = if q = p then (s.port q).handles.set h.toNat none else (s.port q).handles)
      (hb : ∀ c, t.bufferState c = if c = b then (s.bufferState c).map (fun _ => .bound) else s.bufferState c) :
      BufferMove s t
  | append {t : State} (p : Port) (k : EntryKind) (hk : k ≠ .program) (hq : t.bufferKeys = s.bufferKeys ++ [(p, k, none)])
      (hh : ∀ q, (t.port q).handles = (s.port q).handles) (hb : ∀ c, t.bufferState c = s.bufferState c) :
      BufferMove s t
  | leave {t : State} (gone : List (Port × EntryKind × Option Nat)) (hq : s.bufferKeys.Perm (gone ++ t.bufferKeys))
      (hh : ∀ q, (t.port q).handles = (s.port q).handles)
      (hb : ∀ c, t.bufferState c = if c ∈ gone.filterMap (fun k => k.2.2) then (s.bufferState c).map (fun _ => .free)
        else s.bufferState c) : BufferMove s t
  | clear {t : State} (p : Port) (hq : t.bufferKeys = s.bufferKeys)
      (hh : ∀ q, (t.port q).handles = if q = p then (s.port q).handles.map (fun _ => none) else (s.port q).handles)
      (hb : ∀ c, t.bufferState c = if c ∈ (s.port p).handles.filterMap id then (s.bufferState c).map (fun _ => .free)
        else s.bufferState c) : BufferMove s t
  | empty {t : State} (hq : t.bufferKeys = []) (hh : ∀ q, (t.port q).handles = List.replicate 4 none)
      (hb : ∀ c, t.bufferState c = none ∨ t.bufferState c = some .free) : BufferMove s t

theorem BufferMove.of_ports (hq : t.bufferKeys = s.bufferKeys) (hp : t.ports = s.ports) (hb : t.buffers = s.buffers) :
    BufferMove s t :=
  .still hq (State.handles_of_ports hp) fun b => by rw [State.bufferState, State.bufferState, hb]

theorem BufferMove.of_leases (h : OnlyLeases s t) : BufferMove s t := .still h.bufferKeys h.handles h.bufferState

/-- Entries leave, with or without records, and regions may change. -/
theorem BufferMove.leave_eraseIdx {i : Nat} {e : Entry} (he : s.queue[i]? = some e) (hq : t.queue = s.queue.eraseIdx i)
    (hh : ∀ q, (t.port q).handles = (s.port q).handles)
    (hb : ∀ c, t.bufferState c = if e.buffer = some c then (s.bufferState c).map (fun _ => .free) else s.bufferState c) :
    BufferMove s t := by
  refine .leave [e.bufferKey] ?_ hh fun c => ?_
  · have hperm : s.queue.Perm (e :: s.queue.eraseIdx i) := by
      obtain ⟨hlt, rfl⟩ := List.getElem?_eq_some_iff.1 he
      exact (List.getElem_cons_eraseIdx_perm hlt).symm
    have hmap := hperm.map Entry.bufferKey
    rw [List.map_cons, ← hq] at hmap
    exact hmap
  · rw [hb]
    cases hbuf : e.buffer with
    | none => simp [Entry.bufferKey, hbuf]
    | some b => simp [Entry.bufferKey, hbuf, eq_comm]

theorem State.cancelEntry_buffers (s : State) (i : Nat) (e : Entry) (c : Nat) :
    (s.cancelEntry i e).bufferState c =
        (if e.buffer = some c then (s.bufferState c).map (fun _ => .free) else s.bufferState c) ∧
      ∀ q, ((s.cancelEntry i e).port q).handles = (s.port q).handles := by
  have hfree := State.bufferState_freeEntryBuffer { s with queue := s.queue.eraseIdx i } e c
  have hports := State.freeEntryBuffer_ports { s with queue := s.queue.eraseIdx i } e
  have hhandles : ∀ q, (((({ s with queue := s.queue.eraseIdx i } : State).freeEntryBuffer e).postRecord e
      .cancelled).port q).handles = (s.port q).handles := fun q =>
    (State.postRecord_handles _ _ _ q).trans (State.handles_of_ports hports q)
  have hstate : ((({ s with queue := s.queue.eraseIdx i } : State).freeEntryBuffer e).postRecord e
      .cancelled).bufferState c =
        (if e.buffer = some c then (s.bufferState c).map (fun _ => .free) else s.bufferState c) := hfree
  unfold State.cancelEntry
  dsimp only
  split
  · have hl := State.dropCommit_leases
      ((({ s with queue := s.queue.eraseIdx i } : State).freeEntryBuffer e).postRecord e .cancelled)
    exact ⟨(hl.bufferState c).trans hstate, fun q => (hl.handles q).trans (hhandles q)⟩
  · exact ⟨hstate, hhandles⟩

theorem State.endInNeighbours_buffers (s : State) (e : Entry) (outcome : EndOutcome) :
    (s.endInNeighbours e outcome).buffers = s.buffers ∧
      ∀ q, ((s.endInNeighbours e outcome).port q).handles = (s.port q).handles := by
  have leases : ∀ {u : State}, OnlyLeases s u → u.buffers = s.buffers ∧ ∀ q, (u.port q).handles = (s.port q).handles :=
    fun h => ⟨by rw [h.eq], h.handles⟩
  unfold State.endInNeighbours
  split
  · cases outcome with
    | done =>
      refine ⟨?_, fun q => by rw [State.commitDone_port]⟩
      cases h : s.commitImage with
      | none => rw [State.commitDone_none h]
      | some m => rw [State.commitDone_some h]
    | failed =>
      have hl := s.commitFailed_leases
      exact ⟨by rw [hl.eq], hl.handles⟩
  · split
    · exact leases (OnlyLeases.drainDown s _)
    · exact leases (.refl s)

theorem State.endedArray_ports (s : State) (i : Nat) (e : Entry) (outcome : EndOutcome) :
    (s.endedArray i e outcome).ports = s.ports := by rw [State.endedArray_eq]

theorem State.endedArray_bufferState (s : State) (i : Nat) (e : Entry) (outcome : EndOutcome) (c : Nat) :
    (s.endedArray i e outcome).bufferState c =
      if e.buffer = some c then (s.bufferState c).map (fun _ => .free) else s.bufferState c := by
  unfold State.endedArray
  rw [State.bufferState_freeEntryBuffer, State.endInArray_eq]
  rfl

theorem State.endEntry_buffers (s : State) (i : Nat) (e : Entry) (outcome : EndOutcome) :
    (s.endEntry i e outcome).buffers = (s.endedArray i e outcome).buffers ∧
      ∀ q, ((s.endEntry i e outcome).port q).handles = (s.port q).handles := by
  obtain ⟨hb, hh⟩ := (s.endedArray i e outcome).endInNeighbours_buffers e outcome
  have hended : ∀ q, ((s.ended i e outcome).port q).handles = (s.port q).handles := fun q =>
    (hh q).trans (State.handles_of_ports (s.endedArray_ports i e outcome) q)
  constructor
  · have hrec : (if e.orphaned then s.ended i e outcome
        else (s.ended i e outcome).postRecord e (endStatus e.kind outcome)).buffers =
          (s.endedArray i e outcome).buffers := by
      split <;> exact hb
    rw [State.endEntry_eq]
    exact hrec
  · intro q
    rw [State.endEntry_port]
    split
    · exact hended q
    · exact (State.postRecord_handles _ _ _ q).trans (hended q)

theorem State.resetQueue_buffers (s : State) (p : Port) :
    (∀ c, (s.resetQueue p).bufferState c = if c ∈ (s.resetGone p).filterMap (fun e => e.buffer) then
        (s.bufferState c).map (fun _ => .free) else s.bufferState c) ∧
      ∀ q, ((s.resetQueue p).port q).handles = (s.port q).handles := by
  have hfreed : ∀ c, (s.resetFreed p).bufferState c = if c ∈ (s.resetGone p).filterMap (fun e => e.buffer) then
      (s.bufferState c).map (fun _ => .free) else s.bufferState c := fun c =>
    State.bufferState_foldl_freeEntryBuffer c (s.resetGone p) { s with queue := (s.resetQueue p).queue }
  have hports : (s.resetFreed p).ports = s.ports := by rw [State.resetFreed_eq]
  obtain ⟨image, hl⟩ := s.resetQueue_leases p
  refine ⟨fun c => (hl.bufferState c).trans (hfreed c), fun q => hl.handles q⟩

theorem perm_filter {α : Type} (f : α → Bool) (l : List α) : l.Perm (l.filter f ++ l.filter (fun x => !f x)) :=
  (List.filter_append_perm f l).symm

theorem State.resetQueue_perm (s : State) (p : Port) :
    s.bufferKeys.Perm ((s.resetGone p).map Entry.bufferKey ++ (s.resetQueue p).bufferKeys) := by
  have hperm := (perm_filter (fun e : Entry => decide (e.port = p) && e.isQueued) s.queue).map Entry.bufferKey
  rw [List.map_append] at hperm
  have hrest : (s.resetQueue p).bufferKeys =
      (s.queue.filter (fun e => !(decide (e.port = p) && e.isQueued))).map Entry.bufferKey := by
    rw [State.bufferKeys, State.resetQueue_queue, List.map_map]
    refine List.map_congr_left fun e _ => ?_
    by_cases h : e.port = p <;> simp [h, Entry.bufferKey]
  rw [hrest]
  exact hperm

theorem State.acceptProgram_buffers {b : Nat} {handle : Byte} {addr : Addr} {tag cls : Byte}
    (hb : (s.port p).handle handle = some b) :
    (s.acceptProgram p handle addr tag cls).bufferKeys = s.bufferKeys ++ [(p, .program, some b)] ∧
      ∀ c, (s.acceptProgram p handle addr tag cls).bufferState c =
        if c = b then (s.bufferState c).map (fun _ => .bound) else s.bufferState c := by
  refine ⟨?_, fun c => ?_⟩
  · rw [State.bufferKeys, State.acceptProgram_queue, List.map_append, hb]
    rfl
  · unfold State.acceptProgram
    simp only [hb]
    have hmodify := State.bufferState_modifyBuffer (s.appendEntry p tag .program (some (.page (pageOf addr)))
      (s.regionOfBlock (blockOf addr)) (some b) cls.toNat (s.cappedClass p cls)) b c (fun x => { x with state := .bound })
    refine Eq.trans ?_ (hmodify.trans ?_)
    · rfl
    · unfold State.bufferState
      rw [Option.map_map]
      rfl

theorem State.lowestFree_some {b : Nat} (h : s.lowestFree = some b) : s.bufferState b = some .free := by
  obtain ⟨u, hu, hfree⟩ := findIdx?_some h
  simp [State.bufferState, hu, of_decide_eq_true hfree]

theorem State.startUpStep_buffers (s : State) (mv : Nat) (k : StartUpStep) :
    (s.startUpStep mv k).buffers = s.buffers := by
  cases k <;> rfl

theorem State.startUpStep_handles (s : State) (mv : Nat) (k : StartUpStep) (q : Port) :
    ((s.startUpStep mv k).port q).handles = (s.port q).handles := by
  have three : ∀ {u : State} {f g h : PortState → PortState}, (∀ r, (f r).handles = r.handles) →
      (∀ r, (g r).handles = r.handles) → (∀ r, (h r).handles = r.handles) →
      ((((u.modifyPort .a f).modifyPort .b g).modifyPort .c h).port q).handles = (u.port q).handles :=
    fun hf hg hh => (State.handles_modifyPort (hh _) q).trans
      ((State.handles_modifyPort (hg _) q).trans (State.handles_modifyPort (hf _) q))
  cases k with
  | slotChoice => rfl
  | assessment => rfl
  | mapLoad =>
    show ((State.loadProfiles _ _).port q).handles = _
    unfold State.loadProfiles
    exact three (fun _ => rfl) (fun _ => rfl) (fun _ => rfl)
  | enables =>
    show (s.enableAll.port q).handles = _
    unfold State.enableAll
    exact three (fun _ => rfl) (fun _ => rfl) (fun _ => rfl)
  | ready =>
    show ((State.postAll _ _).port q).handles = _
    unfold State.postAll State.post
    exact three (fun _ => rfl) (fun _ => rfl) (fun _ => rfl)

theorem Move.bufferMove (h : Move a s t) : BufferMove s t := by
  cases h with
  | taken l is ha => exact .of_ports rfl rfl rfl
  | unread pages n => exact .of_ports rfl rfl rfl
  | own ha h => exact .still rfl (State.handles_modifyPort h.handles) fun _ => rfl
  | post p k => exact .still rfl (State.handles_modifyPort (by rfl)) fun _ => rfl
  | signal v ha hd he => exact .still rfl (State.handles_modifyPort (by rfl)) fun _ => rfl
  | look => exact .of_ports (s.look_map _ fun _ _ _ _ => rfl) s.look_ports s.look_buffers
  | clearInterrupted => exact .of_ports rfl rfl rfl
  | @fill p st b ha hf =>
    rw [State.released_eq]
    exact .still rfl (State.handles_modifyPort (by rfl)) fun _ => rfl
  | @hold p st ha hf hc =>
    rw [State.released_eq]
    exact .still rfl (State.handles_modifyPort (by rfl)) fun _ => rfl
  | @close p ha hf =>
    rw [State.released_eq]
    exact .still rfl (State.handles_modifyPort (by rfl)) fun _ => rfl
  | request h =>
    refine .of_ports (s.requestSuspend_map _ _ fun _ _ => rfl) ?_ ?_ <;> rw [State.requestSuspend_eq]
  | load b offset data =>
    refine .still rfl (fun _ => rfl) fun c => ?_
    rw [State.bufferState_modifyBuffer]
    split <;> rfl
  | @allocate p h b offset data ha hle hnone hfree hown =>
    have hb := State.lowestFree_some hfree
    refine .map hle hnone hb hown rfl (fun q => ?_) (fun c => ?_)
    · rw [State.setHandle_port]
      split <;> rfl
    · have hmodify := s.bufferState_modifyBuffer b c
        (fun _ => ⟨.filling, loadBytes (List.replicate 256 Config.erased) offset data⟩)
      refine Eq.trans (by rfl) (hmodify.trans ?_)
      by_cases hc : c = b
      · subst hc
        obtain ⟨u, hu, -⟩ := Option.map_eq_some_iff.1 hb
        simp [hu]
      · simp [hc]
  | @discard p h b ha hle hb =>
    refine .unmap hle hb rfl (fun q => ?_) (fun c => s.bufferState_free b c)
    rw [State.setHandle_port]
    split <;> rfl
  | @program p handle addr tag cls ha hd hok =>
    obtain ⟨-, hle, ⟨b, hb⟩, -, -⟩ := State.programChecks_pass hok
    obtain ⟨hq, hst⟩ := State.acceptProgram_buffers (addr := addr) (tag := tag) (cls := cls) hb
    refine .bind hle hb hq (fun q => ?_) hst
    rw [State.acceptProgram_port]
    split <;> rfl
  | @sectorErase p addr tag cls hd hok =>
    exact .append p .sectorErase (by decide) (List.map_append ..) (fun _ => rfl) fun _ => rfl
  | @blockErase p addr tag cls hd hok =>
    exact .append p .blockErase (by decide) (List.map_append ..) (fun _ => rfl) fun _ => rfl
  | @commit p tag hd hok =>
    obtain ⟨m, hm, -⟩ := State.commitChecks_pass hok
    have hl := s.frozen_leases m
    rw [State.acceptCommit_some hm]
    generalize s.frozen m = u at hl
    refine .append p .mapCommit (by decide) ?_ (fun q => hl.handles q) fun c => hl.bufferState c
    have hq := hl.bufferKeys
    refine (List.map_append ..).trans ?_
    exact congrArg (· ++ [(p, EntryKind.mapCommit, none)]) hq
  | @cancel p i e ha hi he hp =>
    have hq : (s.cancelEntry i e).queue = s.queue.eraseIdx i := congrArg Work.queue (s.cancelEntry_work i e)
    exact .leave_eraseIdx hi hq (s.cancelEntry_buffers i e 0).2 fun c => (s.cancelEntry_buffers i e c).1
  | @lose p i r ha hr hh =>
    refine .leave ((s.queue.filter (Entry.queuedIn p i)).map Entry.bufferKey) ?_ (fun q => ?_) (fun c => ?_)
    · have hperm := (perm_filter (Entry.queuedIn p i) s.queue).map Entry.bufferKey
      rw [List.map_append] at hperm
      rw [State.bufferKeys, State.bufferKeys, State.loseEntries_queue]
      exact hperm
    · exact State.foldl_loseEntry_handles q (s.queue.filter (Entry.queuedIn p i))
        { s with queue := s.queue.filter (fun e => !e.queuedIn p i) }
    · rw [List.filterMap_map]
      exact State.bufferState_foldl_loseEntry c (s.queue.filter (Entry.queuedIn p i))
        { s with queue := s.queue.filter (fun e => !e.queuedIn p i) }
  | resetQueue p =>
    obtain ⟨hst, hh⟩ := s.resetQueue_buffers p
    refine .leave _ (s.resetQueue_perm p) hh fun c => ?_
    rw [List.filterMap_map]
    exact hst c
  | @resetHandles p ha =>
    have hst : ∀ c, (s.resetHandles p).bufferState c = _ := fun c =>
      State.bufferState_foldl_freeHandleBuffer c (s.port p).handles s
    refine .clear p ?_ (fun q => ?_) hst
    · rw [State.resetHandles_eq]
      rfl
    · rw [State.resetHandles_eq, State.port_modifyPort]
      split <;> rfl
  | take hr hm hs => exact .of_ports rfl rfl rfl
  | wait hr hm hs hh hw => exact .of_ports rfl rfl rfl
  | renew hr hh => exact .of_ports rfl rfl rfl
  | leave p i => exact .of_ports rfl rfl rfl
  | endLease hr hh hq => exact .of_leases (OnlyLeases.endLease s _)
  | tick hr hs hn => exact .of_ports rfl rfl rfl
  | stage h => exact .of_ports rfl rfl rfl
  | @endEntry i e outcome ha hstop hi he =>
    obtain ⟨hb, hh⟩ := s.endEntry_buffers i e outcome
    refine .leave_eraseIdx he (s.endEntry_queue i e outcome) hh fun c => ?_
    rw [← s.endedArray_bufferState i e outcome c, State.bufferState, State.bufferState, hb]
  | park hstop heng hi => exact .of_ports (modify_map _ fun _ => rfl) rfl rfl
  | windowStep hw h1 => exact .of_ports rfl rfl rfl
  | windowClose => exact .of_ports rfl rfl rfl
  | supply h hx => exact .of_ports rfl rfl rfl
  | @power x f ha h =>
    refine .empty rfl (fun q => ?_) (fun c => ?_)
    · rw [State.powerOnValues_port]
      rfl
    · have hst : (s.powerOnValues x f).bufferState c = ((List.replicate 6 freshBuffer)[c]?).map (fun u => u.state) := rfl
      rw [hst, List.getElem?_replicate]
      split
      · exact .inr rfl
      · exact .inl rfl
  | fallUnpowered h => exact .of_ports rfl rfl rfl
  | @fall items ha hlow h hi =>
    refine .empty rfl (fun q => ?_) (fun c => ?_)
    · rw [State.atReset_port]
      rfl
    · have hst : (s.atReset items).bufferState c =
          ((s.buffers.map (fun b => { b with state := .free }))[c]?).map (fun u => u.state) := rfl
      rw [hst, List.getElem?_map]
      cases s.buffers[c]? with
      | none => exact .inl rfl
      | some u => exact .inr rfl
  | riseUnpowered h => exact .of_ports rfl rfl rfl
  | rise ha hlow h =>
    refine .still rfl (fun q => ?_) fun _ => rfl
    rw [State.deselectAll_port]
    rfl
  | arrayStops => exact .of_ports (by simp [State.bufferKeys]) s.arrayStops_ports s.arrayStops_buffers
  | @startUp k mv ha hd hlow hs hstop hk =>
    exact .still (by simp [State.bufferKeys]) (s.startUpStep_handles mv k) fun b => by
      rw [State.bufferState, State.bufferState, State.startUpStep_buffers]

end Sys2Proof.Machine
end

section
/-! The laws of the Program Buffers, of the sizes of the tables, and of the array's form (R1 to R3, R20, R74, R100 to
R103). -/

namespace Sys2Proof.Machine

variable {a : Actor} {p : Port} {s t : State}

/-! ### Names when one port's handles change -/

theorem names_perm {f g : Port → List Nat} {gone : List Nat} (h : ∀ q, q ≠ p → f q = g q)
    (hp : (f p).Perm (gone ++ g p)) : (f .a ++ f .b ++ f .c).Perm (gone ++ (g .a ++ g .b ++ g .c)) := by
  rw [List.perm_iff_count] at hp ⊢
  intro x
  have hx := hp x
  simp only [List.count_append] at hx ⊢
  cases p
  · rw [h .b (by decide), h .c (by decide)]
    omega
  · rw [h .a (by decide), h .c (by decide)]
    omega
  · rw [h .a (by decide), h .b (by decide)]
    omega

theorem State.mappedNames_eq (s : State) : s.mappedNames =
    (s.port .a).handles.filterMap id ++ (s.port .b).handles.filterMap id ++ (s.port .c).handles.filterMap id := by
  simp only [State.mappedNames, List.filterMap_append]

theorem State.mappedNames_perm {gone : List Nat} (h : ∀ q, q ≠ p → (s.port q).handles = (t.port q).handles)
    (hp : ((s.port p).handles.filterMap id).Perm (gone ++ (t.port p).handles.filterMap id)) :
    s.mappedNames.Perm (gone ++ t.mappedNames) := by
  rw [State.mappedNames_eq, State.mappedNames_eq]
  exact names_perm (f := fun q => (s.port q).handles.filterMap id) (g := fun q => (t.port q).handles.filterMap id)
    (fun q hq => by rw [h q hq]) hp

/-- A mapped handle is emptied. -/
theorem filterMap_set_none {l : List (Option Nat)} {i b : Nat} (h : l[i]? = some (some b)) :
    (l.filterMap id).Perm (b :: (l.set i none).filterMap id) := by
  obtain ⟨hlt, -⟩ := List.getElem?_eq_some_iff.1 h
  conv_lhs => rw [split_at h]
  rw [List.set_eq_take_append_cons_drop, if_pos hlt]
  simp only [List.filterMap_append, List.filterMap_cons, id_eq]
  exact List.perm_middle

/-- An unmapped handle is mapped. -/
theorem filterMap_set_some {l : List (Option Nat)} {i : Nat} (b : Nat) (h : l[i]? = some none) :
    ((l.set i (some b)).filterMap id).Perm (b :: l.filterMap id) := by
  obtain ⟨hlt, -⟩ := List.getElem?_eq_some_iff.1 h
  conv_rhs => rw [split_at h]
  rw [List.set_eq_take_append_cons_drop, if_pos hlt]
  simp only [List.filterMap_append, List.filterMap_cons, id_eq]
  exact List.perm_middle

theorem PortState.handle_some {q : PortState} {h : Byte} {b : Nat} (hb : q.handle h = some b) :
    h.toNat ≤ 3 ∧ q.handles[h.toNat]? = some (some b) := by
  unfold PortState.handle at hb
  split at hb
  · next hle =>
    refine ⟨hle, ?_⟩
    cases hx : q.handles[h.toNat]? with
    | none => simp [hx] at hb
    | some o => simpa [hx] using hb
  · cases hb

theorem PortState.handle_none {q : PortState} {h : Byte} (hle : h.toNat ≤ 3) (hlen : q.handles.length = 4)
    (hb : q.handle h = none) : q.handles[h.toNat]? = some none := by
  unfold PortState.handle at hb
  rw [if_pos hle] at hb
  have hlt : h.toNat < q.handles.length := by omega
  rw [List.getElem?_eq_getElem hlt] at hb ⊢
  exact congrArg some hb

/-! ### The laws of the buffers -/

theorem State.boundNames_eq (h : t.bufferKeys = s.bufferKeys) : t.boundNames = s.boundNames := by
  rw [State.boundNames, State.boundNames, h]

theorem State.mappedNames_congr (h : ∀ q, (t.port q).handles = (s.port q).handles) : t.mappedNames = s.mappedNames := by
  simp only [State.mappedNames, h]

theorem State.mappedNames_unmap {h : Byte} {b : Nat} (hb : (s.port p).handle h = some b)
    (hh : ∀ q, (t.port q).handles = if q = p then (s.port q).handles.set h.toNat none else (s.port q).handles) :
    s.mappedNames.Perm ([b] ++ t.mappedNames) := by
  refine State.mappedNames_perm (p := p) (fun q hq => by rw [hh, if_neg hq]) ?_
  rw [hh, if_pos rfl]
  exact filterMap_set_none (PortState.handle_some hb).2

/-- Handles as long as they should be. -/
def State.handlesSized (s : State) : Prop := ∀ q, (s.port q).handles.length = 4

theorem BufferMove.keeps_bufferLaw (h : BufferMove s t) (hlen : s.handlesSized) (hs : s.bufferLaw = true) :
    t.bufferLaw = true := by
  obtain ⟨ho, hkinds⟩ := State.bufferLaw_iff.1 hs
  rw [State.bufferLaw_iff]
  cases h with
  | still hq hh hb =>
    rw [State.boundNames_eq hq, State.mappedNames_congr hh, hq]
    exact ⟨ho.congr hb, hkinds⟩
  | @map p h b hle hnone hfree hown hq hh hb =>
    rw [State.boundNames_eq hq, hq]
    refine ⟨?_, hkinds⟩
    have hperm : t.mappedNames.Perm ([b] ++ s.mappedNames) := by
      refine State.mappedNames_perm (p := p) (fun q hq => by rw [hh, if_neg hq]) ?_
      rw [hh, if_pos rfl]
      exact filterMap_set_some b (PortState.handle_none hle (hlen p) hnone)
    exact (ho.map hfree hb).perm (List.Perm.refl _) hperm.symm
  | @unmap p h b hle hmap hq hh hb =>
    rw [State.boundNames_eq hq, hq]
    refine ⟨?_, hkinds⟩
    exact (ho.perm (List.Perm.refl _) (State.mappedNames_unmap hmap hh)).unmap fun c => by
      simp only [hb, List.mem_singleton]
  | @bind p h b hle hmap hq hh hb =>
    have hbound : t.boundNames.Perm (b :: s.boundNames) := by
      rw [State.boundNames, hq, List.filterMap_append]
      exact List.perm_append_comm
    have hbefore := ho.perm (List.Perm.refl _) (State.mappedNames_unmap hmap hh)
    have hst : s.bufferState b = some .filling := (hbefore.mapped b).1 (by simp)
    refine ⟨(hbefore.bind fun c => ?_).perm hbound.symm (List.Perm.refl _), fun k hk => ?_⟩
    · rw [hb]
      split
      · next hc =>
        rw [hc, hst]
        rfl
      · rfl
    · rw [hq] at hk
      rcases List.mem_append.1 hk with hk | hk
      · exact hkinds k hk
      · rw [List.mem_singleton.1 hk]
        rfl
  | append p k hk hq hh hb =>
    have hbound : t.boundNames = s.boundNames := by
      rw [State.boundNames, hq, List.filterMap_append]
      exact List.append_nil _
    rw [hbound, State.mappedNames_congr hh, hq]
    refine ⟨ho.congr hb, fun x hx => ?_⟩
    rcases List.mem_append.1 hx with hx | hx
    · exact hkinds x hx
    · rw [List.mem_singleton.1 hx]
      simp [hk]
  | leave gone hq hh hb =>
    have hbound : s.boundNames.Perm (gone.filterMap (fun k => k.2.2) ++ t.boundNames) := by
      rw [State.boundNames, State.boundNames, ← List.filterMap_append]
      exact hq.filterMap _
    rw [State.mappedNames_congr hh]
    exact ⟨(ho.perm hbound (List.Perm.refl _)).release hb,
      fun k hk => hkinds k (hq.mem_iff.2 (List.mem_append_right _ hk))⟩
  | clear p hq hh hb =>
    have hperm : s.mappedNames.Perm ((s.port p).handles.filterMap id ++ t.mappedNames) := by
      refine State.mappedNames_perm (p := p) (fun q hq => by rw [hh, if_neg hq]) ?_
      rw [hh, if_pos rfl, List.filterMap_map]
      simp
    rw [State.boundNames_eq hq, hq]
    exact ⟨(ho.perm (List.Perm.refl _) hperm).unmap hb, hkinds⟩
  | empty hq hh hb =>
    have hbound : t.boundNames = [] := by rw [State.boundNames, hq]; rfl
    have hmapped : t.mappedNames = [] := by simp [State.mappedNames_eq, hh]
    rw [hbound, hmapped, hq]
    refine ⟨⟨List.nodup_nil, fun b => ?_, fun b => ?_⟩, nofun⟩ <;> rcases hb b with h | h <;> simp [h]

/-- R103: mapped handles and PROGRAM entries. -/
theorem State.ownedBuffers_keys (s : State) (q : Port) : s.ownedBuffers q =
    ((s.port q).handles.filterMap id).length +
      s.bufferKeys.countP (fun k => decide (k.1 = q) && decide (k.2.1 = .program)) := by
  have hcount : ∀ l : List (Option Nat), l.countP Option.isSome = (l.filterMap id).length := by
    intro l
    induction l with
    | nil => rfl
    | cons o l ih => cases o <;> simp [ih]
  unfold State.ownedBuffers State.mappedHandles State.bufferKeys
  rw [hcount, List.countP_map]
  rfl

theorem State.ownershipLaw_iff : s.ownershipLaw = true ↔ ∀ q, s.ownedBuffers q ≤ 4 := by
  simp only [State.ownershipLaw, allPorts_iff, decide_eq_true_eq]

theorem BufferMove.keeps_ownershipLaw (h : BufferMove s t) (hlen : s.handlesSized) (hs : s.ownershipLaw = true) :
    t.ownershipLaw = true := by
  rw [State.ownershipLaw_iff] at hs ⊢
  intro q
  have hq := hs q
  cases h with
  | still hkeys hh hb =>
    rw [State.ownedBuffers_keys] at hq ⊢
    rw [hkeys, hh]
    exact hq
  | @map p h b hle hnone hfree hown hkeys hh hb =>
    have hset := (filterMap_set_some b (PortState.handle_none hle (hlen p) hnone)).length_eq
    rw [State.ownedBuffers_keys] at hown hq ⊢
    rw [hkeys, hh]
    split
    · next hqp =>
      subst hqp
      rw [hset, List.length_cons]
      omega
    · exact hq
  | @unmap p h b hle hmap hkeys hh hb =>
    have hset := (filterMap_set_none (PortState.handle_some hmap).2).length_eq
    rw [State.ownedBuffers_keys] at hq ⊢
    rw [hkeys, hh]
    split
    · next hqp =>
      subst hqp
      rw [List.length_cons] at hset
      omega
    · exact hq
  | @bind p h b hle hmap hkeys hh hb =>
    have hset := (filterMap_set_none (PortState.handle_some hmap).2).length_eq
    rw [State.ownedBuffers_keys] at hq ⊢
    rw [hkeys, hh, List.countP_append]
    by_cases hqp : q = p
    · subst hqp
      rw [if_pos rfl]
      rw [List.length_cons] at hset
      simp only [List.countP_cons, List.countP_nil, decide_true, Bool.and_self, if_true]
      omega
    · rw [if_neg hqp]
      simpa [Ne.symm hqp] using hq
  | append p k hk hkeys hh hb =>
    rw [State.ownedBuffers_keys] at hq ⊢
    rw [hkeys, hh, List.countP_append]
    simpa [hk] using hq
  | leave gone hkeys hh hb =>
    have hcount := hkeys.countP_eq (fun k => decide (k.1 = q) && decide (k.2.1 = .program))
    rw [List.countP_append] at hcount
    rw [State.ownedBuffers_keys] at hq ⊢
    rw [hh]
    omega
  | clear p hkeys hh hb =>
    rw [State.ownedBuffers_keys] at hq ⊢
    rw [hkeys, hh]
    split
    · rw [List.filterMap_map]
      simp only [Function.comp_def, id_eq, List.filterMap_none, List.length_nil]
      omega
    · exact hq
  | empty hkeys hh hb =>
    rw [State.ownedBuffers_keys, hkeys, hh]
    simp

/-! ### Sizes -/

/-- R20, R74, R100, R182: the sizes of the other tables. -/
structure State.Sized (s : State) : Prop where
  regions : s.regions.length = 16
  buffers : s.buffers.length = 6
  data : ∀ u ∈ s.buffers, u.data.length = 256
  interrupted : s.interrupted.length ≤ 2
  stopping : s.stopping.length ≤ 2

theorem State.sizeLaw_iff : s.sizeLaw = true ↔ s.Sized ∧ s.handlesSized := by
  simp only [State.sizeLaw, Bool.and_eq_true, decide_eq_true_eq, List.all_eq_true, allPorts_iff]
  constructor
  · rintro ⟨⟨⟨⟨⟨h1, h2⟩, h3⟩, h4⟩, h5⟩, h6⟩
    exact ⟨⟨h1, h2, h3, h5, h6⟩, h4⟩
  · rintro ⟨⟨h1, h2, h3, h5, h6⟩, h4⟩
    exact ⟨⟨⟨⟨⟨h1, h2⟩, h3⟩, h4⟩, h5⟩, h6⟩

theorem BufferMove.keeps_handlesSized (h : BufferMove s t) (hs : s.handlesSized) : t.handlesSized := by
  intro q
  have hq := hs q
  cases h with
  | still hkeys hh hb => rw [hh, hq]
  | map hle hnone hfree hown hkeys hh hb =>
    rw [hh]
    split <;> simpa using hq
  | unmap hle hmap hkeys hh hb =>
    rw [hh]
    split <;> simpa using hq
  | bind hle hmap hkeys hh hb =>
    rw [hh]
    split <;> simpa using hq
  | append p k hk hkeys hh hb => rw [hh, hq]
  | leave gone hkeys hh hb => rw [hh, hq]
  | clear p hkeys hh hb =>
    rw [hh]
    split <;> simpa using hq
  | empty hkeys hh hb => rw [hh]; rfl

theorem State.Sized.congr (h : s.Sized) (hr : t.regions.length = s.regions.length)
    (hb : t.buffers.map (fun u => u.data) = s.buffers.map (fun u => u.data)) (hi : t.interrupted = s.interrupted)
    (hst : t.stopping = s.stopping) : t.Sized where
  regions := hr.trans h.regions
  buffers := by
    have hlen := congrArg List.length hb
    rw [List.length_map, List.length_map] at hlen
    exact hlen.trans h.buffers
  data := by
    have hall : ∀ d ∈ s.buffers.map (fun u => u.data), d.length = 256 := by
      intro d hd
      obtain ⟨u, hu, rfl⟩ := List.mem_map.1 hd
      exact h.data u hu
    rw [← hb] at hall
    exact fun u hu => hall _ (List.mem_map_of_mem hu)
  interrupted := hi ▸ h.interrupted
  stopping := hst ▸ h.stopping

theorem State.Sized.of_leases (hl : OnlyLeases s t) (h : s.Sized) : t.Sized :=
  h.congr hl.length (by rw [hl.eq]) (by rw [hl.eq]) (by rw [hl.eq])

theorem length_loadBytes (ds : List Byte) : ∀ (buf : List Byte) (k : Nat), (loadBytes buf k ds).length = buf.length := by
  induction ds with
  | nil => exact fun _ _ => rfl
  | cons d ds ih =>
    intro buf k
    rw [loadBytes, ih, List.length_set]

/-- A buffer is rewritten with 256 bytes. -/
theorem State.Sized.modifyBuffer (h : s.Sized) (b : Nat) {f : Buffer → Buffer}
    (hf : ∀ u : Buffer, u.data.length = 256 → (f u).data.length = 256) : (s.modifyBuffer b f).Sized where
  regions := h.regions
  buffers := by
    show (s.buffers.modify b f).length = 6
    rw [List.length_modify, h.buffers]
  data u hu := by
    have hu' : u ∈ s.buffers.modify b f := hu
    cases hb : s.buffers[b]? with
    | none =>
      rw [List.modify_eq_self (List.getElem?_eq_none_iff.1 hb)] at hu'
      exact h.data u hu'
    | some v =>
      rcases modify_mem hb hu' with rfl | hu'
      · exact hf v (h.data v (List.mem_of_getElem? hb))
      · exact h.data u hu'
  interrupted := h.interrupted
  stopping := h.stopping

theorem State.freeEntryBuffer_data (s : State) (e : Entry) :
    (s.freeEntryBuffer e).buffers.map (fun u => u.data) = s.buffers.map (fun u => u.data) := by
  unfold State.freeEntryBuffer
  split
  · exact modify_map _ fun _ => rfl
  · rfl

theorem State.freeHandleBuffer_data (s : State) (h : Option Nat) :
    (s.freeHandleBuffer h).buffers.map (fun u => u.data) = s.buffers.map (fun u => u.data) := by
  unfold State.freeHandleBuffer
  split
  · exact modify_map _ fun _ => rfl
  · rfl

theorem State.freeEntryBuffer_sized (h : s.Sized) (e : Entry) : (s.freeEntryBuffer e).Sized := by
  have hd := s.freeEntryBuffer_data e
  rw [State.freeEntryBuffer_eq] at hd ⊢
  exact h.congr rfl hd rfl rfl

theorem State.cancelEntry_sized (h : s.Sized) (i : Nat) (e : Entry) : (s.cancelEntry i e).Sized := by
  have hfree : ((({ s with queue := s.queue.eraseIdx i } : State).freeEntryBuffer e).postRecord e .cancelled).Sized := by
    have hq : ({ s with queue := s.queue.eraseIdx i } : State).Sized := h.congr rfl rfl rfl rfl
    exact (State.freeEntryBuffer_sized hq e).congr rfl rfl rfl rfl
  unfold State.cancelEntry
  dsimp only
  split
  · exact .of_leases (State.dropCommit_leases _) (hfree.congr rfl rfl rfl rfl)
  · exact hfree

theorem State.resetQueue_sized (h : s.Sized) (p : Port) : (s.resetQueue p).Sized := by
  obtain ⟨image, hl⟩ := s.resetQueue_leases p
  have hd : (s.resetFreed p).buffers.map (fun u => u.data) = s.buffers.map (fun u => u.data) :=
    foldl_keeps (fun u : State => u.buffers.map (fun u => u.data)) (fun u e => u.freeEntryBuffer_data e) _ _
  exact .of_leases hl (h.congr rfl hd rfl rfl)

theorem State.commitDone_sized (h : s.Sized) : s.commitDone.Sized := by
  cases hm : s.commitImage with
  | none =>
    rw [State.commitDone_none hm]
    exact h
  | some m =>
    rw [State.commitDone_some hm]
    exact ⟨by simp [regionIndices], h.buffers, h.data, h.interrupted, h.stopping⟩

theorem State.endInNeighbours_sized (h : s.Sized) (e : Entry) (outcome : EndOutcome) :
    (s.endInNeighbours e outcome).Sized := by
  unfold State.endInNeighbours
  split
  · cases outcome with
    | done => exact State.commitDone_sized h
    | failed => exact .of_leases s.commitFailed_leases (h.congr rfl rfl rfl rfl)
  · split
    · exact .of_leases (OnlyLeases.drainDown s _) h
    · exact h

theorem State.endEntry_sized (h : s.Sized) (i : Nat) (e : Entry) (outcome : EndOutcome) :
    (s.endEntry i e outcome).Sized := by
  have harray : (s.endedArray i e outcome).Sized := by
    unfold State.endedArray
    refine State.freeEntryBuffer_sized ?_ e
    rw [State.endInArray_eq]
    exact h.congr rfl rfl rfl rfl
  have hended : (s.ended i e outcome).Sized := State.endInNeighbours_sized harray e outcome
  have hrec : (if e.orphaned then s.ended i e outcome
      else (s.ended i e outcome).postRecord e (endStatus e.kind outcome)).Sized := by
    split
    · exact hended
    · exact hended.congr rfl rfl rfl rfl
  rw [State.endEntry_eq]
  exact hrec.congr rfl rfl rfl rfl

theorem State.cutOffItems_length (s : State) : s.cutOffItems.length ≤ 2 := by
  unfold State.cutOffItems
  cases s.activeEntry <;> cases s.parkedErase <;> simp

theorem State.startUpStep_sized (h : s.Sized) (mv : Nat) (k : StartUpStep) : (s.startUpStep mv k).Sized := by
  have hregions : (s.startUpStep mv k).regions.length = 16 := by
    cases k with
    | mapLoad =>
      show (regionIndices.map _).length = 16
      simp [regionIndices]
    | _ => exact h.regions
  have hrest : (s.startUpStep mv k).interrupted = s.interrupted ∧ (s.startUpStep mv k).stopping = s.stopping := by
    cases k <;> exact ⟨rfl, rfl⟩
  have hbuffers := s.startUpStep_buffers mv k
  exact ⟨hregions, hbuffers ▸ h.buffers, hbuffers ▸ h.data, hrest.1 ▸ h.interrupted, hrest.2 ▸ h.stopping⟩

theorem Move.keeps_sized (h : Move a s t) (hs : s.Sized) : t.Sized := by
  cases h with
  | taken l is ha => exact hs.congr rfl rfl rfl rfl
  | unread pages n => exact hs.congr rfl rfl rfl rfl
  | own ha h => exact hs.congr rfl rfl rfl rfl
  | post p k => exact hs.congr rfl rfl rfl rfl
  | signal v ha hd he => exact hs.congr rfl rfl rfl rfl
  | look =>
    have hlen : s.look.regions.length = s.regions.length := by
      have hd := congrArg List.length (show s.look.definitions = s.definitions from congrArg Core.definitions s.look_core)
      simpa only [State.definitions, List.length_map] using hd
    refine hs.congr hlen (by rw [s.look_buffers]) s.look_interrupted ?_
    rw [State.look_eq]
  | clearInterrupted => exact ⟨hs.regions, hs.buffers, hs.data, Nat.zero_le _, hs.stopping⟩
  | @fill p st b ha hf =>
    rw [State.released_eq]
    exact hs.congr rfl rfl rfl rfl
  | @hold p st ha hf hc =>
    rw [State.released_eq]
    exact hs.congr rfl rfl rfl rfl
  | @close p ha hf =>
    rw [State.released_eq]
    exact hs.congr rfl rfl rfl rfl
  | request h =>
    rw [State.requestSuspend_eq]
    exact hs.congr rfl rfl rfl rfl
  | load b offset data =>
    exact hs.modifyBuffer b fun u hu => by rw [length_loadBytes, hu]
  | @allocate p h b offset data ha hle hnone hfree hown =>
    have hb := hs.modifyBuffer b (f := fun _ => ⟨.filling, loadBytes (List.replicate 256 Config.erased) offset data⟩)
      fun _ _ => by rw [length_loadBytes, List.length_replicate]
    exact hb.congr rfl rfl rfl rfl
  | @discard p h b ha hle hb =>
    have hb := hs.modifyBuffer b (f := fun u => { u with state := .free }) fun _ h => h
    exact hb.congr rfl rfl rfl rfl
  | @program p handle addr tag cls ha hd hok =>
    have hd : (s.acceptProgram p handle addr tag cls).buffers.map (fun u => u.data) = s.buffers.map (fun u => u.data) := by
      unfold State.acceptProgram
      dsimp only
      split
      · exact modify_map _ fun _ => rfl
      · rfl
    refine hs.congr ?_ hd ?_ ?_ <;> unfold State.acceptProgram <;> dsimp only <;> split <;> rfl
  | sectorErase hd hok => exact hs.congr rfl rfl rfl rfl
  | blockErase hd hok => exact hs.congr rfl rfl rfl rfl
  | @commit p tag hd hok =>
    obtain ⟨m, hm, -⟩ := State.commitChecks_pass hok
    have hl := s.frozen_leases m
    rw [State.acceptCommit_some hm]
    generalize s.frozen m = u at hl
    have hu : u.Sized := .of_leases hl (hs.congr rfl rfl rfl rfl)
    exact hu.congr rfl rfl rfl rfl
  | cancel ha hi he hp => exact State.cancelEntry_sized hs _ _
  | @lose p i r ha hr hh =>
    have hd : (s.loseEntries p i).buffers.map (fun u => u.data) = s.buffers.map (fun u => u.data) :=
      foldl_keeps (f := State.loseEntry) (fun u : State => u.buffers.map (fun u => u.data))
        (fun u e => u.freeEntryBuffer_data e) _ _
    rw [State.loseEntries_eq] at hd ⊢
    exact hs.congr rfl hd rfl rfl
  | resetQueue p => exact State.resetQueue_sized hs p
  | @resetHandles p ha =>
    have hd : (s.resetHandles p).buffers.map (fun u => u.data) = s.buffers.map (fun u => u.data) :=
      foldl_keeps (f := State.freeHandleBuffer) (fun u : State => u.buffers.map (fun u => u.data))
        (fun u e => u.freeHandleBuffer_data e) _ _
    rw [State.resetHandles_eq] at hd ⊢
    exact hs.congr rfl hd rfl rfl
  | take hr hm h => exact .of_leases (OnlyLeases.modifyLease s _ _) hs
  | wait hr hm h hh hw => exact .of_leases (OnlyLeases.modifyLease s _ _) hs
  | renew hr hh => exact .of_leases (OnlyLeases.modifyLease s _ _) hs
  | leave p i => exact .of_leases (OnlyLeases.modifyLease s _ _) hs
  | endLease hr hh hq => exact .of_leases (OnlyLeases.endLease s _) hs
  | tick hr h hn => exact .of_leases (OnlyLeases.modifyLease s _ _) hs
  | stage h => exact hs.congr rfl rfl rfl rfl
  | endEntry outcome ha hstop hi he => exact State.endEntry_sized hs _ _ outcome
  | park hstop heng hi => exact hs.congr rfl rfl rfl rfl
  | windowStep hw h1 => exact hs.congr rfl rfl rfl rfl
  | windowClose => exact hs.congr rfl rfl rfl rfl
  | supply h hx => exact hs.congr rfl rfl rfl rfl
  | power ha h =>
    refine ⟨rfl, rfl, fun u hu => ?_, Nat.zero_le _, Nat.zero_le _⟩
    rw [List.eq_of_mem_replicate hu]
    exact List.length_replicate
  | fallUnpowered h => exact hs.congr rfl rfl rfl rfl
  | @fall items ha hlow h hi =>
    refine ⟨(List.length_map _).trans hs.regions, (List.length_map _).trans hs.buffers, fun u hu => ?_, hs.interrupted, ?_⟩
    · obtain ⟨v, hv, rfl⟩ := List.mem_map.1 hu
      exact hs.data v hv
    · rcases hi with ⟨-, rfl⟩ | ⟨-, rfl⟩
      · exact hs.stopping
      · exact s.cutOffItems_length
  | riseUnpowered h => exact hs.congr rfl rfl rfl rfl
  | rise ha hlow h => exact hs.congr rfl rfl rfl rfl
  | arrayStops =>
    by_cases hnil : s.stopping = []
    · rw [State.arrayStops_of_nil hnil]
      exact hs
    · rw [State.arrayStops_of_ne_nil hnil]
      exact ⟨hs.regions, hs.buffers, hs.data, hs.stopping, Nat.zero_le _⟩
  | startUp mv ha hd hlow h hstop hk => exact State.startUpStep_sized hs mv _

theorem Move.keeps_sizeLaw (h : Move a s t) (hs : s.sizeLaw = true) : t.sizeLaw = true := by
  rw [State.sizeLaw_iff] at hs ⊢
  exact ⟨h.keeps_sized hs.1, h.bufferMove.keeps_handlesSized hs.2⟩

/-- Settles O55: a buffer changes its state together with its owner, move by move. -/
theorem stepsKeepTheBufferLaw : Obligations.StepsKeepTheBufferLaw := by
  intro s t hs h
  simp only [Bool.and_eq_true] at hs ⊢
  refine step_keeps (P := fun s => (s.bufferLaw = true ∧ s.ownershipLaw = true) ∧ s.sizeLaw = true)
    (fun _ _ _ hm hl => ?_) h hs
  obtain ⟨⟨hbuffer, hown⟩, hsize⟩ := hl
  have hlen := (State.sizeLaw_iff.1 hsize).2
  exact ⟨⟨hm.bufferMove.keeps_bufferLaw hlen hbuffer, hm.bufferMove.keeps_ownershipLaw hlen hown⟩,
    hm.keeps_sizeLaw hsize⟩

/-! ### The array -/

theorem State.entryData_length (hs : s.Sized) (e : Entry) : (s.entryData e).length ≤ 256 := by
  unfold State.entryData
  split
  · next u hu =>
    obtain ⟨b, -, hb⟩ := Option.bind_eq_some_iff.1 hu
    exact (hs.data u (List.mem_of_getElem? hb)).le
  · simp

theorem State.endInArray_wf {e : Entry} (hs : s.Sized) (ht : e.targetLaw = true) (outcome : EndOutcome)
    (hw : s.mem.wf = true) : (s.endInArray e outcome).mem.wf = true := by
  have hlen := State.entryData_length hs e
  unfold State.endInArray
  cases htarget : e.target with
  | none => exact hw
  | some x =>
    cases outcome with
    | failed => exact hw
    | done =>
      unfold State.applyDone
      cases hk : e.kind with
      | program =>
        refine Memory.wf_program _ hw ?_
        unfold Entry.targetLaw at ht
        cases x with
        | page n =>
          simp only [hk, htarget, Target.inRange, decide_eq_true_eq] at ht
          simp only [Target.first, Config.pageBytes, Config.arrayBytes]
          omega
        | sector n => simp [hk, htarget] at ht
        | block n => simp [hk, htarget] at ht
      | sectorErase => exact Memory.wf_erase _ _ hw
      | blockErase => exact Memory.wf_erase _ _ hw
      | mapCommit => exact hw

theorem State.endEntry_mem (s : State) (i : Nat) (e : Entry) (outcome : EndOutcome) :
    (s.endEntry i e outcome).mem = (({ s with queue := s.queue.eraseIdx i } : State).endInArray e outcome).mem := by
  have hcore : (s.endEntry i e outcome).mem = ((s.endedArray i e outcome).endInNeighbours e outcome).mem :=
    congrArg Core.mem (s.endEntry_core_eq i e outcome)
  have harray : (s.endedArray i e outcome).mem = (({ s with queue := s.queue.eraseIdx i } : State).endInArray e outcome).mem := by
    unfold State.endedArray
    rw [State.freeEntryBuffer_eq]
  rw [hcore, ← harray]
  rcases (s.endedArray i e outcome).endInNeighbours_core e outcome with h | ⟨-, -, h⟩
  · exact congrArg Core.mem h
  · rw [h]
    generalize s.endedArray i e outcome = u
    cases hm : u.commitImage with
    | none => rw [State.commitDone_none hm]
    | some m => exact congrArg Core.mem (State.commitDone_core hm)

theorem Move.keeps_wf (h : Move a s t) (hs : s.Sized) (ht : s.targetLaw = true) (hw : s.mem.wf = true) :
    t.mem.wf = true := by
  have hmove := h.coreMove
  clear h
  cases hmove with
  | still h =>
    rw [show t.mem = s.mem from congrArg Core.mem h]
    exact hw
  | look =>
    rw [s.look_mem]
    exact hw
  | @endEntry i e outcome ha hstop hi he =>
    rw [State.endEntry_mem]
    exact State.endInArray_wf (s := { s with queue := s.queue.eraseIdx i }) (hs.congr rfl rfl rfl rfl)
      (State.targetLaw_iff.1 ht e (List.mem_of_getElem? he)) outcome hw
  | supply h hx => exact hw
  | power ha h => exact hw
  | fallUnpowered h => exact hw
  | fall ha hlow h hi => exact hw
  | riseUnpowered h => exact hw
  | rise ha hlow h => exact hw
  | arrayStops =>
    rw [s.arrayStops_mem]
    exact hw
  | startUp mv ha hd hlow h hstop hk =>
    rw [s.startUpStep_mem]
    exact hw

/-- Settles O51: only the end of an operation writes, inside its entry's target. -/
theorem stepsKeepTheArrayCanonical : Obligations.StepsKeepTheArrayCanonical := by
  intro s t hs h
  simp only [Bool.and_eq_true] at hs ⊢
  refine step_keeps (P := fun s => (s.mem.wf = true ∧ s.targetLaw = true) ∧ s.sizeLaw = true)
    (fun _ _ _ hm hl => ?_) h hs
  obtain ⟨⟨hwf, htarget⟩, hsize⟩ := hl
  exact ⟨⟨hm.keeps_wf (State.sizeLaw_iff.1 hsize).1 htarget hwf, hm.keeps_targetLaw htarget⟩, hm.keeps_sizeLaw hsize⟩

end Sys2Proof.Machine
end

section
/-! The laws of leases, drain counts, QUEUED work, FROZEN regions and commits (R18, R31, R41, R78, R79, R81, R82, R94,
R160): what they say of the Region Table and of the entries, and the changes of either that keep them. -/

namespace Sys2Proof.Machine

variable {a : Actor} {p : Port} {s t : State}

/-! ### What the lease law says in each state (R78, R79) -/

variable {r : Region}

theorem Region.leaseLaw_free (h : r.lease.state = .free) : r.leaseLaw = true ↔
    r.lease.holder = none ∧ r.lease.remaining = 0 ∧ r.lease.waiters = [] ∧ r.lease.drain = 0 := by
  simp [Region.leaseLaw, h, and_assoc]

theorem Region.leaseLaw_frozen (h : r.lease.state = .frozen) : r.leaseLaw = true ↔
    r.lease.holder = none ∧ r.lease.remaining = 0 ∧ r.lease.waiters = [] ∧ r.lease.drain = 0 := by
  simp [Region.leaseLaw, h, and_assoc]

theorem Region.leaseLaw_draining (h : r.lease.state = .draining) : r.leaseLaw = true ↔
    r.lease.holder = none ∧ r.lease.remaining = 0 ∧ 1 ≤ r.lease.drain ∧ r.lease.waiters.Nodup ∧
      r.lease.waiters.length ≤ 2 := by
  simp [Region.leaseLaw, h, and_assoc]

theorem Region.leaseLaw_held (h : r.lease.state = .held) : r.leaseLaw = true ↔
    ∃ p, r.lease.holder = some p ∧ r.definition.writeMask.has p = true ∧ p ∉ r.lease.waiters ∧
      r.lease.waiters.Nodup ∧ r.lease.remaining ≤ r.definition.limit.toNat ∧
      (r.definition.limit.toNat = 0 ∨ 1 ≤ r.lease.remaining) := by
  unfold Region.leaseLaw
  rw [h]
  cases r.lease.holder <;> simp [and_assoc]

theorem Region.waiterLaw_iff : r.waiterLaw = true ↔ ∀ p ∈ r.lease.waiters, r.definition.writeMask.has p = true :=
  List.all_eq_true

/-- Only a HELD region has a holder. -/
theorem Region.held_of_holder (hl : r.leaseLaw = true) (h : r.lease.holder = some p) : r.lease.state = .held := by
  cases hs : r.lease.state with
  | held => rfl
  | free => simp [(Region.leaseLaw_free hs), h] at hl
  | frozen => simp [(Region.leaseLaw_frozen hs), h] at hl
  | draining => simp [(Region.leaseLaw_draining hs), h] at hl

theorem Region.waiters_nodup (hl : r.leaseLaw = true) : r.lease.waiters.Nodup := by
  cases hs : r.lease.state with
  | held =>
    obtain ⟨p, -, -, -, hn, -⟩ := (Region.leaseLaw_held hs).1 hl
    exact hn
  | free =>
    obtain ⟨-, -, hw, -⟩ := (Region.leaseLaw_free hs).1 hl
    simp [hw]
  | frozen =>
    obtain ⟨-, -, hw, -⟩ := (Region.leaseLaw_frozen hs).1 hl
    simp [hw]
  | draining =>
    obtain ⟨-, -, -, hn, -⟩ := (Region.leaseLaw_draining hs).1 hl
    exact hn

/-- There are three ports. -/
theorem ports_length_le {l : List Port} (h : l.Nodup) : l.length ≤ 3 := by
  have hsub : l ⊆ [Port.a, .b, .c] := fun p _ => by cases p <;> simp
  exact (h.subperm hsub).length_le

/-! ### The lease operations keep the lease law -/

/-- A lease law and a waiter law. -/
def Region.lawful (r : Region) : Prop := r.leaseLaw = true ∧ r.waiterLaw = true

/-- R80: the grant step makes a lawful lease of one that has just become FREE. -/
theorem Region.lawful_granted {l : Lease} (hs : l.state = .free) (hh : l.holder = none) (hr : l.remaining = 0)
    (hd : l.drain = 0) (hn : l.waiters.Nodup) (hm : ∀ p ∈ l.waiters, r.definition.writeMask.has p = true) :
    Region.lawful { r with lease := r.granted l } := by
  unfold Region.granted
  cases hw : l.waiters with
  | nil => exact ⟨(Region.leaseLaw_free hs).2 ⟨hh, hr, hw, hd⟩, Region.waiterLaw_iff.2 hm⟩
  | cons w ws =>
    rw [hw] at hn hm
    obtain ⟨hnot, hns⟩ := List.nodup_cons.1 hn
    refine ⟨(Region.leaseLaw_held rfl).2 ⟨w, rfl, hm w List.mem_cons_self, hnot, hns, le_refl _, ?_⟩,
      Region.waiterLaw_iff.2 fun p hp => hm p (List.mem_cons_of_mem w hp)⟩
    show r.definition.limit.toNat = 0 ∨ 1 ≤ r.definition.limit.toNat
    omega

theorem Region.lawful_leaseEnded (h : r.lawful) (hh : r.lease.holder = some p) :
    Region.lawful { r with lease := r.leaseEnded } := by
  obtain ⟨hl, hw⟩ := h
  have hs := Region.held_of_holder hl hh
  obtain ⟨q, hq, -, hnot, hn, -⟩ := (Region.leaseLaw_held hs).1 hl
  unfold Region.leaseEnded
  split
  · next hd =>
    have hlen := ports_length_le (List.nodup_cons.2 ⟨hnot, hn⟩)
    rw [List.length_cons] at hlen
    exact ⟨(Region.leaseLaw_draining rfl).2 ⟨rfl, rfl, hd, hn, Nat.le_of_succ_le_succ hlen⟩, hw⟩
  · next hd => exact Region.lawful_granted rfl rfl rfl (by simpa using hd) hn (Region.waiterLaw_iff.1 hw)

theorem Region.lawful_thawed (h : r.lawful) (hs : r.lease.state = .frozen) :
    Region.lawful { r with lease := r.granted { r.lease with state := .free } } := by
  obtain ⟨hl, hw⟩ := h
  obtain ⟨hh, hr, hwait, hd⟩ := (Region.leaseLaw_frozen hs).1 hl
  refine Region.lawful_granted rfl hh hr hd ?_ ?_ <;> simp [hwait]

/-- R81, R82: the end of a started entry. -/
theorem Region.lawful_entryEnded (h : r.lawful) (hd : 1 ≤ r.lease.drain) :
    Region.lawful { r with lease := r.entryEnded } := by
  obtain ⟨hl, hw⟩ := h
  unfold Region.entryEnded
  split
  · next hz =>
    obtain ⟨hs, h0⟩ := hz
    obtain ⟨hh, hr, -, hn, -⟩ := (Region.leaseLaw_draining hs).1 hl
    exact Region.lawful_granted rfl hh hr h0 hn (Region.waiterLaw_iff.1 hw)
  · next hz =>
    refine ⟨?_, hw⟩
    cases hs : r.lease.state with
    | free =>
      obtain ⟨-, -, -, h0⟩ := (Region.leaseLaw_free hs).1 hl
      omega
    | frozen =>
      obtain ⟨-, -, -, h0⟩ := (Region.leaseLaw_frozen hs).1 hl
      omega
    | draining =>
      obtain ⟨hh, hr, -, hn, hlen⟩ := (Region.leaseLaw_draining hs).1 hl
      have hz' : 1 ≤ r.lease.drain - 1 := Nat.one_le_iff_ne_zero.2 fun h0 => hz ⟨hs, h0⟩
      exact (Region.leaseLaw_draining (r := { r with lease := { r.lease with drain := r.lease.drain - 1 } }) hs).2
        ⟨hh, hr, hz', hn, hlen⟩
    | held =>
      exact (Region.leaseLaw_held (r := { r with lease := { r.lease with drain := r.lease.drain - 1 } }) hs).2
        ((Region.leaseLaw_held hs).1 hl)

/-- The end of a started entry of a region that is not DRAINING only lowers its drain count. -/
theorem Region.entryEnded_of_ne (h : r.lease.state ≠ .draining) :
    r.entryEnded = { r.lease with drain := r.lease.drain - 1 } := by
  unfold Region.entryEnded
  exact if_neg fun hc => h hc.1

/-! ### The laws, of a table and a list of jobs -/

/-- What the lease laws read of an entry. -/
structure Job where
  port : Port
  kind : EntryKind
  region : Option Nat
  queued : Bool
  orphaned : Bool

def Entry.job (e : Entry) : Job := ⟨e.port, e.kind, e.region, e.isQueued, e.orphaned⟩

def State.jobs (s : State) : List Job := s.queue.map Entry.job

/-- R81: the started jobs of a region. -/
def started (js : List Job) (i : Nat) : Nat := js.countP (fun k => !k.queued && decide (k.region = some i))

/-- R78 to R82, R94, R41, R18, R31. -/
structure Leased (regions : Nat → Option Region) (js : List Job) : Prop where
  small : ∀ i r, regions i = some r → i < 16
  lawful : ∀ i r, regions i = some r → r.lawful
  drain : ∀ i r, regions i = some r → r.lease.drain = started js i
  undefined : ∀ i, i < 16 → regions i = none → started js i = 0
  queued : ∀ k ∈ js, k.queued = true → k.orphaned = false ∧ (k.kind = .mapCommit ∨
    ∃ i r, k.region = some i ∧ regions i = some r ∧ r.lease.state = .held ∧ r.lease.holder = some k.port)
  frozen : ∀ i r, regions i = some r → r.lease.state = .frozen →
    (∃ k ∈ js, k.kind = .mapCommit) ∧ ∀ k ∈ js, k.region ≠ some i
  commits : js.countP (fun k => decide (k.kind = .mapCommit)) ≤ 1
  commitRegion : ∀ k ∈ js, k.kind = .mapCommit → k.region = none

/-- The laws and the commit image (R160). -/
structure State.LeaseLaws (s : State) : Prop where
  leased : Leased s.region s.jobs
  image : s.commitImage.isSome = true ↔ ∃ k ∈ s.jobs, k.kind = .mapCommit

theorem State.mapPending_jobs (s : State) : s.mapPending = true ↔ ∃ k ∈ s.jobs, k.kind = .mapCommit := by
  rw [State.mapPending_iff]
  simp [State.jobs, Entry.job]

theorem State.startedIn_jobs (s : State) (i : Nat) : s.startedIn i = started s.jobs i := by
  unfold State.startedIn started State.jobs
  rw [List.countP_map]
  rfl

theorem State.region_eq_some {i : Nat} : s.region i = some r ↔ s.regions[i]? = some (some r) := by
  unfold State.region
  cases s.regions[i]? with
  | none => simp
  | some o => simp

theorem State.region_small {i : Nat} (hlen : s.regions.length = 16) (h : s.region i = some r) : i < 16 := by
  obtain ⟨hlt, -⟩ := List.getElem?_eq_some_iff.1 (State.region_eq_some.1 h)
  omega

theorem State.leaseLaw_iff : s.leaseLaw = true ↔ ∀ i r, s.region i = some r → r.lawful := by
  unfold State.leaseLaw
  rw [List.all_eq_true]
  constructor
  · intro h i r hr
    have hmem := h _ (List.mem_of_getElem? (State.region_eq_some.1 hr))
    simpa [Region.lawful] using hmem
  · intro h slot hslot
    cases slot with
    | none => rfl
    | some r =>
      obtain ⟨i, hi⟩ := List.mem_iff_getElem?.1 hslot
      simpa [Region.lawful] using h i r (State.region_eq_some.2 hi)

theorem State.drainLaw_iff (hlen : s.regions.length = 16) : s.drainLaw = true ↔
    (∀ i r, s.region i = some r → r.lease.drain = started s.jobs i) ∧
      ∀ i, i < 16 → s.region i = none → started s.jobs i = 0 := by
  unfold State.drainLaw regionIndices
  rw [List.all_eq_true]
  constructor
  · intro h
    refine ⟨fun i r hr => ?_, fun i hi hr => ?_⟩
    · simpa [hr, State.startedIn_jobs] using h i (List.mem_range.2 (State.region_small hlen hr))
    · simpa [hr, State.startedIn_jobs] using h i (List.mem_range.2 hi)
  · rintro ⟨h1, h2⟩ i hi
    cases hr : s.region i with
    | none => simpa [State.startedIn_jobs] using h2 i (List.mem_range.1 hi) hr
    | some r => simpa [State.startedIn_jobs] using h1 i r hr

theorem State.queuedLaw_iff : s.queuedLaw = true ↔
    ∀ k ∈ s.jobs, k.queued = true → k.orphaned = false ∧ (k.kind = .mapCommit ∨
      ∃ i r, k.region = some i ∧ s.region i = some r ∧ r.lease.state = .held ∧ r.lease.holder = some k.port) := by
  unfold State.queuedLaw State.jobs
  rw [List.all_eq_true]
  simp only [List.mem_map, forall_exists_index, and_imp, forall_apply_eq_imp_iff₂, Entry.job]
  refine forall_congr' fun e => imp_congr_right fun _ => ?_
  cases hq : e.isQueued with
  | false => simp
  | true =>
    cases hr : e.region with
    | none => simp
    | some i => cases hi : s.region i <;> simp [hi]

theorem State.frozenLaw_iff (hlen : s.regions.length = 16) : s.frozenLaw = true ↔
    ∀ i r, s.region i = some r → r.lease.state = .frozen →
      (∃ k ∈ s.jobs, k.kind = .mapCommit) ∧ ∀ k ∈ s.jobs, k.region ≠ some i := by
  have hregions : ∀ i, (s.queue.all (fun e => decide (e.region ≠ some i))) = true ↔ ∀ k ∈ s.jobs, k.region ≠ some i := by
    intro i
    simp [State.jobs, Entry.job]
  unfold State.frozenLaw regionIndices
  rw [List.all_eq_true]
  constructor
  · intro h i r hr hf
    have hi := h i (List.mem_range.2 (State.region_small hlen hr))
    simp only [hr, hf, if_true, Bool.and_eq_true, State.mapPending_jobs, hregions] at hi
    exact hi
  · intro h i hi
    cases hr : s.region i with
    | none => rfl
    | some r =>
      by_cases hf : r.lease.state = .frozen
      · simp only [hf, if_true, Bool.and_eq_true, State.mapPending_jobs, hregions]
        exact h i r hr hf
      · simp [hf]

theorem State.commitLaw_iff : s.commitLaw = true ↔
    s.jobs.countP (fun k => decide (k.kind = .mapCommit)) ≤ 1 ∧
      (s.commitImage.isSome = true ↔ ∃ k ∈ s.jobs, k.kind = .mapCommit) := by
  unfold State.commitLaw State.jobs
  rw [Bool.and_eq_true, decide_eq_true_eq, decide_eq_true_eq, List.countP_map, Bool.eq_iff_iff, State.mapPending_jobs]
  rfl

theorem State.commitRegionLaw_iff : s.commitRegionLaw = true ↔ ∀ k ∈ s.jobs, k.kind = .mapCommit → k.region = none := by
  unfold State.commitRegionLaw State.jobs
  rw [List.all_eq_true]
  simp only [List.mem_map, forall_exists_index, and_imp, forall_apply_eq_imp_iff₂, Entry.job]
  refine forall_congr' fun e => imp_congr_right fun _ => ?_
  simp [imp_iff_not_or]

/-- The six laws of the statement. -/
theorem State.leaseLaws_iff (hlen : s.regions.length = 16) : s.LeaseLaws ↔
    s.leaseLaw = true ∧ s.drainLaw = true ∧ s.queuedLaw = true ∧ s.frozenLaw = true ∧ s.commitLaw = true ∧
      s.commitRegionLaw = true := by
  rw [State.leaseLaw_iff, State.drainLaw_iff hlen, State.queuedLaw_iff, State.frozenLaw_iff hlen, State.commitLaw_iff,
    State.commitRegionLaw_iff]
  constructor
  · rintro ⟨h, himage⟩
    exact ⟨h.lawful, ⟨h.drain, h.undefined⟩, h.queued, h.frozen, ⟨h.commits, himage⟩, h.commitRegion⟩
  · rintro ⟨h1, ⟨h2, h3⟩, h4, h5, ⟨h6, h7⟩, h8⟩
    exact ⟨⟨fun i r => State.region_small hlen, h1, h2, h3, h4, h5, h6, h8⟩, h7⟩

/-! ### Changes of the table and of the jobs -/

namespace Leased

variable {R R' : Nat → Option Region} {js js' : List Job} {i : Nat}

/-- One lease changes, and the jobs do not. -/
theorem lease {g : Region → Lease} (h : Leased R js)
    (hR : ∀ j, R' j = (R j).map (fun r => if j = i then { r with lease := g r } else r))
    (hlaw : ∀ r, R i = some r → Region.lawful { r with lease := g r })
    (hdrain : ∀ r, R i = some r → (g r).drain = r.lease.drain)
    (hqueued : ∀ r, R i = some r → ∀ k ∈ js, k.queued = true → k.region = some i → r.lease.state = .held →
      r.lease.holder = some k.port → (g r).state = .held ∧ (g r).holder = some k.port)
    (hfrozen : ∀ r, R i = some r → (g r).state = .frozen → r.lease.state = .frozen) : Leased R' js := by
  have back : ∀ j r', R' j = some r' → ∃ r, R j = some r ∧ r' = if j = i then { r with lease := g r } else r := by
    intro j r' hr
    rw [hR] at hr
    obtain ⟨r, hr, heq⟩ := Option.map_eq_some_iff.1 hr
    exact ⟨r, hr, heq.symm⟩
  refine ⟨fun j r' hr => ?_, fun j r' hr => ?_, fun j r' hr => ?_, fun j hj hr => ?_, fun k hk hq => ?_,
    fun j r' hr hf => ?_, h.commits, h.commitRegion⟩
  · obtain ⟨r, hr0, -⟩ := back j r' hr
    exact h.small j r hr0
  · obtain ⟨r, hr0, rfl⟩ := back j r' hr
    by_cases hj : j = i
    · subst hj
      rw [if_pos rfl]
      exact hlaw r hr0
    · rw [if_neg hj]
      exact h.lawful j r hr0
  · obtain ⟨r, hr0, rfl⟩ := back j r' hr
    by_cases hj : j = i
    · subst hj
      rw [if_pos rfl, ← h.drain j r hr0]
      exact hdrain r hr0
    · rw [if_neg hj]
      exact h.drain j r hr0
  · rw [hR] at hr
    exact h.undefined j hj (Option.map_eq_none_iff.1 hr)
  · obtain ⟨ho, hcommit | ⟨j, r, hj, hr, hs, hh⟩⟩ := h.queued k hk hq
    · exact ⟨ho, .inl hcommit⟩
    · refine ⟨ho, .inr ⟨j, if j = i then { r with lease := g r } else r, hj, by rw [hR, hr]; rfl, ?_⟩⟩
      by_cases hji : j = i
      · subst hji
        rw [if_pos rfl]
        exact hqueued r hr k hk hq hj hs hh
      · rw [if_neg hji]
        exact ⟨hs, hh⟩
  · obtain ⟨r, hr0, rfl⟩ := back j r' hr
    by_cases hj : j = i
    · subst hj
      rw [if_pos rfl] at hf
      exact h.frozen j r hr0 (hfrozen r hr0 hf)
    · rw [if_neg hj] at hf
      exact h.frozen j r hr0 hf

/-- A QUEUED job that is no commit makes its region HELD by its port. -/
theorem held_of_queued (h : Leased R js) {k : Job} {r : Region} (hk : k ∈ js) (hq : k.queued = true)
    (hi : k.region = some i) (hr : R i = some r) : r.lease.state = .held ∧ r.lease.holder = some k.port := by
  obtain ⟨-, hcommit | ⟨j, r', hj, hr', hs, hh⟩⟩ := h.queued k hk hq
  · rw [h.commitRegion k hk hcommit] at hi
    cases hi
  · rw [hi, Option.some.injEq] at hj
    subst hj
    rw [hr, Option.some.injEq] at hr'
    subst hr'
    exact ⟨hs, hh⟩

/-- No job is in a FREE region. -/
theorem no_job_of_free (h : Leased R js) {r : Region} (hr : R i = some r) (hf : r.lease.state = .free) :
    ∀ k ∈ js, k.region ≠ some i := by
  intro k hk hi
  cases hq : k.queued with
  | true =>
    rw [(h.held_of_queued hk hq hi hr).1] at hf
    cases hf
  | false =>
    obtain ⟨-, -, -, hd⟩ := (Region.leaseLaw_free hf).1 (h.lawful i r hr).1
    have hpos : 0 < started js i := List.countP_pos_iff.2 ⟨k, hk, by simp [hq, hi]⟩
    rw [← h.drain i r hr, hd] at hpos
    exact absurd hpos (lt_irrefl 0)

/-- Jobs leave that were not started, or name no region. -/
theorem thin (h : Leased R js)
    (hmem : ∀ k' ∈ js', ∃ k ∈ js, k'.port = k.port ∧ k'.kind = k.kind ∧ k'.region = k.region ∧ k'.queued = k.queued ∧
      (k'.queued = true → k'.orphaned = k.orphaned))
    (hstarted : ∀ i, started js' i = started js i)
    (hcount : js'.countP (fun k => decide (k.kind = .mapCommit)) ≤ js.countP (fun k => decide (k.kind = .mapCommit)))
    (hcommit : (∃ k ∈ js', k.kind = .mapCommit) ∨ (∀ k ∈ js, k.kind ≠ .mapCommit) ∨
      ∀ i r, R i = some r → r.lease.state ≠ .frozen) : Leased R js' := by
  refine ⟨h.small, h.lawful, fun i r hr => ?_, fun i hi hr => ?_, fun k' hk hq => ?_, fun i r hr hf => ?_,
    hcount.trans h.commits, fun k' hk hc => ?_⟩
  · rw [hstarted, h.drain i r hr]
  · rw [hstarted, h.undefined i hi hr]
  · obtain ⟨k, hk, hport, hkind, hregion, hqueued, horphan⟩ := hmem k' hk
    rw [hport, hkind, hregion, horphan hq]
    exact h.queued k hk (hqueued ▸ hq)
  · obtain ⟨⟨k, hk, hc⟩, hno⟩ := h.frozen i r hr hf
    refine ⟨?_, fun k' hk' => ?_⟩
    · rcases hcommit with h1 | h1 | h1
      · exact h1
      · exact absurd hc (h1 k hk)
      · exact absurd hf (h1 i r hr)
    · obtain ⟨k, hk, -, -, hregion, -⟩ := hmem k' hk'
      rw [hregion]
      exact hno k hk
  · obtain ⟨k, hk, -, hkind, hregion, -⟩ := hmem k' hk
    rw [hregion]
    exact h.commitRegion k hk (hkind ▸ hc)

/-- Every FROZEN region goes back to FREE (R34, R94, R169). -/
theorem thaw (h : Leased R js) (hR : ∀ j, R' j = (R j).map (fun r =>
      if j < 16 ∧ r.lease.state = .frozen then { r with lease := r.granted { r.lease with state := .free } } else r)) :
    Leased R' js ∧ ∀ j r, R' j = some r → r.lease.state ≠ .frozen := by
  have back : ∀ j r', R' j = some r' → ∃ r, R j = some r ∧
      (r.lease.state = .frozen ∧ r' = { r with lease := { r.lease with state := .free } } ∨
        r.lease.state ≠ .frozen ∧ r' = r) := by
    intro j r' hr
    rw [hR] at hr
    obtain ⟨r, hr0, rfl⟩ := Option.map_eq_some_iff.1 hr
    refine ⟨r, hr0, ?_⟩
    by_cases hf : r.lease.state = .frozen
    · obtain ⟨-, -, hw, -⟩ := (Region.leaseLaw_frozen hf).1 (h.lawful j r hr0).1
      refine .inl ⟨hf, ?_⟩
      rw [if_pos ⟨h.small j r hr0, hf⟩]
      simp [Region.granted, hw]
    · exact .inr ⟨hf, by rw [if_neg fun hc => hf hc.2]⟩
  have hfrozen : ∀ j r, R' j = some r → r.lease.state ≠ .frozen := by
    intro j r' hr
    obtain ⟨r, -, ⟨-, rfl⟩ | ⟨hf, rfl⟩⟩ := back j r' hr
    · exact fun h => by cases h
    · exact hf
  refine ⟨⟨fun j r' hr => ?_, fun j r' hr => ?_, fun j r' hr => ?_, fun j hj hr => ?_, fun k hk hq => ?_,
    fun j r' hr hf => absurd hf (hfrozen j r' hr), h.commits, h.commitRegion⟩, hfrozen⟩
  · obtain ⟨r, hr0, -⟩ := back j r' hr
    exact h.small j r hr0
  · obtain ⟨r, hr0, ⟨hf, rfl⟩ | ⟨-, rfl⟩⟩ := back j r' hr
    · obtain ⟨hl, hw⟩ := h.lawful j r hr0
      exact ⟨(Region.leaseLaw_free rfl).2 ((Region.leaseLaw_frozen hf).1 hl), hw⟩
    · exact h.lawful j _ hr0
  · obtain ⟨r, hr0, ⟨hf, rfl⟩ | ⟨-, rfl⟩⟩ := back j r' hr
    · exact h.drain j r hr0
    · exact h.drain j _ hr0
  · rw [hR] at hr
    exact h.undefined j hj (Option.map_eq_none_iff.1 hr)
  · obtain ⟨ho, hcommit | ⟨j, r, hj, hr, hs, hh⟩⟩ := h.queued k hk hq
    · exact ⟨ho, .inl hcommit⟩
    · refine ⟨ho, .inr ⟨j, r, hj, ?_, hs, hh⟩⟩
      rw [hR, hr, Option.map_some, if_neg fun hc => by rw [hs] at hc; cases hc.2]

/-- The table of a commit image: FROZEN and UNDEFINED entries take their new definitions (R95). -/
theorem applied {d : Nat → Option RegionDef} (h : Leased R js)
    (hR : ∀ j, R' j = if j < 16 then applyDefinition (R j) (d j) else none) :
    Leased R' js ∧ ∀ j r, R' j = some r → r.lease.state ≠ .frozen := by
  have back : ∀ j r', R' j = some r' → j < 16 ∧
      (R j = some r' ∧ r'.lease.state ≠ .frozen ∨ r'.lease = freshLease ∧ started js j = 0) := by
    intro j r' hr
    rw [hR] at hr
    split at hr
    · next hj =>
      refine ⟨hj, ?_⟩
      unfold applyDefinition at hr
      split at hr
      · next r hr0 =>
        split at hr
        · next hf =>
          obtain ⟨x, -, rfl⟩ := Option.map_eq_some_iff.1 hr
          refine .inr ⟨rfl, ?_⟩
          obtain ⟨-, -, -, hd⟩ := (Region.leaseLaw_frozen hf).1 (h.lawful j r hr0).1
          rw [← h.drain j r hr0, hd]
        · next hf =>
          cases hr
          exact .inl ⟨hr0, hf⟩
      · next hr0 =>
        obtain ⟨x, -, rfl⟩ := Option.map_eq_some_iff.1 hr
        exact .inr ⟨rfl, h.undefined j hj hr0⟩
    · cases hr
  have hfrozen : ∀ j r, R' j = some r → r.lease.state ≠ .frozen := by
    intro j r' hr
    obtain ⟨-, ⟨-, hf⟩ | ⟨hl, -⟩⟩ := back j r' hr
    · exact hf
    · rw [hl]
      exact fun h => by cases h
  refine ⟨⟨fun j r' hr => (back j r' hr).1, fun j r' hr => ?_, fun j r' hr => ?_, fun j hj hr => ?_, fun k hk hq => ?_,
    fun j r' hr hf => absurd hf (hfrozen j r' hr), h.commits, h.commitRegion⟩, hfrozen⟩
  · obtain ⟨-, ⟨hr0, -⟩ | ⟨hl, -⟩⟩ := back j r' hr
    · exact h.lawful j r' hr0
    · have hfree : r'.lease.state = .free := by rw [hl]; rfl
      exact ⟨(Region.leaseLaw_free hfree).2 (by rw [hl]; exact ⟨rfl, rfl, rfl, rfl⟩),
        Region.waiterLaw_iff.2 (by rw [hl]; exact nofun)⟩
  · obtain ⟨-, ⟨hr0, -⟩ | ⟨hl, h0⟩⟩ := back j r' hr
    · exact h.drain j r' hr0
    · rw [hl, h0]
      rfl
  · rw [hR, if_pos hj] at hr
    unfold applyDefinition at hr
    split at hr
    · next r hr0 =>
      split at hr
      · next hf =>
        obtain ⟨-, -, -, hd⟩ := (Region.leaseLaw_frozen hf).1 (h.lawful j r hr0).1
        rw [← h.drain j r hr0, hd]
      · cases hr
    · next hr0 => exact h.undefined j hj hr0
  · obtain ⟨ho, hcommit | ⟨j, r, hj, hr, hs, hh⟩⟩ := h.queued k hk hq
    · exact ⟨ho, .inl hcommit⟩
    · refine ⟨ho, .inr ⟨j, r, hj, ?_, hs, hh⟩⟩
      rw [hR, if_pos (h.small j r hr), hr]
      simp [applyDefinition, hs]

theorem started_append (js : List Job) (k : Job) (i : Nat) (hq : k.queued = true) :
    started (js ++ [k]) i = started js i := by
  simp [started, hq]

/-- A submission of a PROGRAM or an erase is accepted: its region is HELD by its port (R24). -/
theorem append (h : Leased R js) {k : Job} {r : Region} (hq : k.queued = true) (ho : k.orphaned = false)
    (hk : k.kind ≠ .mapCommit) (hi : k.region = some i) (hr : R i = some r) (hs : r.lease.state = .held)
    (hh : r.lease.holder = some k.port) : Leased R (js ++ [k]) := by
  have old : ∀ x ∈ js ++ [k], x ∈ js ∨ x = k := fun x hx => by simpa using hx
  refine ⟨h.small, h.lawful, fun j r hr => ?_, fun j hj hr => ?_, fun x hx hxq => ?_, fun j r' hr' hf => ?_, ?_,
    fun x hx hc => ?_⟩
  · rw [started_append _ _ _ hq, h.drain j r hr]
  · rw [started_append _ _ _ hq, h.undefined j hj hr]
  · rcases old x hx with hx | rfl
    · exact h.queued x hx hxq
    · exact ⟨ho, .inr ⟨i, r, hi, hr, hs, hh⟩⟩
  · obtain ⟨⟨c, hc, hkind⟩, hno⟩ := h.frozen j r' hr' hf
    refine ⟨⟨c, List.mem_append_left _ hc, hkind⟩, fun x hx => ?_⟩
    rcases old x hx with hx | rfl
    · exact hno x hx
    · rw [hi]
      intro hij
      rw [Option.some.injEq] at hij
      subst hij
      rw [hr, Option.some.injEq] at hr'
      subst hr'
      rw [hs] at hf
      cases hf
  · simpa [hk] using h.commits
  · rcases old x hx with hx | rfl
    · exact h.commitRegion x hx hc
    · exact absurd hc hk

/-- MAP COMMIT is accepted: the changed regions, which are FREE, become FROZEN (R94, R166). -/
theorem commit {c : Nat → Region → Bool} (h : Leased R js) {k : Job} (hq : k.queued = true) (ho : k.orphaned = false)
    (hk : k.kind = .mapCommit) (hi : k.region = none) (hnone : ∀ x ∈ js, x.kind ≠ .mapCommit)
    (hfree : ∀ j r, R j = some r → c j r = true → r.lease.state = .free)
    (hR : ∀ j, R' j = (R j).map (fun r =>
      if j < 16 then (if c j r then { r with lease := { r.lease with state := .frozen } } else r) else r)) :
    Leased R' (js ++ [k]) := by
  have old : ∀ x ∈ js ++ [k], x ∈ js ∨ x = k := fun x hx => by simpa using hx
  have back : ∀ j r', R' j = some r' → ∃ r, R j = some r ∧
      (r.lease.state = .free ∧ r' = { r with lease := { r.lease with state := .frozen } } ∨ r' = r) := by
    intro j r' hr
    rw [hR] at hr
    obtain ⟨r, hr0, rfl⟩ := Option.map_eq_some_iff.1 hr
    refine ⟨r, hr0, ?_⟩
    rw [if_pos (h.small j r hr0)]
    cases hc : c j r with
    | true => exact .inl ⟨hfree j r hr0 hc, rfl⟩
    | false => exact .inr rfl
  refine ⟨fun j r' hr => ?_, fun j r' hr => ?_, fun j r' hr => ?_, fun j hj hr => ?_, fun x hx hxq => ?_,
    fun j r' hr hf => ?_, ?_, fun x hx hc => ?_⟩
  · obtain ⟨r, hr0, -⟩ := back j r' hr
    exact h.small j r hr0
  · obtain ⟨r, hr0, ⟨hf, rfl⟩ | rfl⟩ := back j r' hr
    · obtain ⟨hl, hw⟩ := h.lawful j r hr0
      exact ⟨(Region.leaseLaw_frozen rfl).2 ((Region.leaseLaw_free hf).1 hl), hw⟩
    · exact h.lawful j _ hr0
  · rw [started_append _ _ _ hq]
    obtain ⟨r, hr0, ⟨-, rfl⟩ | rfl⟩ := back j r' hr
    · exact h.drain j r hr0
    · exact h.drain j _ hr0
  · rw [hR] at hr
    rw [started_append _ _ _ hq]
    exact h.undefined j hj (Option.map_eq_none_iff.1 hr)
  · rcases old x hx with hx | rfl
    · obtain ⟨hxo, hcommit | ⟨j, r, hj, hr, hs, hh⟩⟩ := h.queued x hx hxq
      · exact ⟨hxo, .inl hcommit⟩
      · refine ⟨hxo, .inr ⟨j, r, hj, ?_, hs, hh⟩⟩
        have hc : c j r = false := by
          cases hc : c j r with
          | false => rfl
          | true =>
            rw [hfree j r hr hc] at hs
            cases hs
        rw [hR, hr]
        simp [hc]
    · exact ⟨ho, .inl hk⟩
  · refine ⟨⟨k, List.mem_append_right _ (List.mem_singleton_self k), hk⟩, fun x hx => ?_⟩
    rcases old x hx with hx | rfl
    · obtain ⟨r, hr0, ⟨hfr, rfl⟩ | rfl⟩ := back j r' hr
      · exact h.no_job_of_free hr0 hfr x hx
      · exact (h.frozen j _ hr0 hf).2 x hx
    · rw [hi]
      exact fun h => by cases h
  · have hzero : js.countP (fun x => decide (x.kind = .mapCommit)) = 0 :=
      List.countP_eq_zero.2 fun x hx => by simpa using hnone x hx
    rw [List.countP_append, hzero]
    simp [hk]
  · rcases old x hx with hx | rfl
    · exact h.commitRegion x hx hc
    · exact hi

/-- A QUEUED job is started, and the drain count of its region goes up (R52, R81). -/
theorem start {l m : List Job} {k : Job} (h : Leased R (l ++ k :: m)) (hq : k.queued = true)
    (hR : ∀ j, R' j = (R j).map (fun r =>
      if k.region = some j then { r with lease := { r.lease with drain := r.lease.drain + 1 } } else r)) :
    Leased R' (l ++ { k with queued := false } :: m) := by
  have hmem : k ∈ l ++ k :: m := by simp
  have hcount : ∀ j, started (l ++ { k with queued := false } :: m) j =
      started (l ++ k :: m) j + (if k.region = some j then 1 else 0) := by
    intro j
    simp only [started, List.countP_append, List.countP_cons, hq]
    by_cases hj : k.region = some j
    · simp [hj]
      omega
    · simp [hj]
  have old : ∀ x ∈ l ++ { k with queued := false } :: m, x ∈ l ++ k :: m ∨ x = { k with queued := false } := by
    intro x hx
    simp only [List.mem_append, List.mem_cons] at hx ⊢
    tauto
  have back : ∀ j r', R' j = some r' → ∃ r, R j = some r ∧ r' =
      if k.region = some j then { r with lease := { r.lease with drain := r.lease.drain + 1 } } else r := by
    intro j r' hr
    rw [hR] at hr
    obtain ⟨r, hr, heq⟩ := Option.map_eq_some_iff.1 hr
    exact ⟨r, hr, heq.symm⟩
  refine ⟨fun j r' hr => ?_, fun j r' hr => ?_, fun j r' hr => ?_, fun j hj hr => ?_, fun x hx hxq => ?_,
    fun j r' hr hf => ?_, ?_, fun x hx hc => ?_⟩
  · obtain ⟨r, hr0, -⟩ := back j r' hr
    exact h.small j r hr0
  · obtain ⟨r, hr0, rfl⟩ := back j r' hr
    by_cases hj : k.region = some j
    · rw [if_pos hj]
      obtain ⟨hl, hw⟩ := h.lawful j r hr0
      have hs := (h.held_of_queued hmem hq hj hr0).1
      exact ⟨(Region.leaseLaw_held (r := { r with lease := { r.lease with drain := r.lease.drain + 1 } }) hs).2
        ((Region.leaseLaw_held hs).1 hl), hw⟩
    · rw [if_neg hj]
      exact h.lawful j r hr0
  · obtain ⟨r, hr0, rfl⟩ := back j r' hr
    rw [hcount, ← h.drain j r hr0]
    by_cases hj : k.region = some j <;> simp [hj]
  · rw [hR] at hr
    have hnone := Option.map_eq_none_iff.1 hr
    rw [hcount, h.undefined j hj hnone, if_neg]
    intro hk
    obtain ⟨-, hcommit | ⟨i, r, hi, hri, -⟩⟩ := h.queued k hmem hq
    · rw [h.commitRegion k hmem hcommit] at hk
      cases hk
    · rw [hk, Option.some.injEq] at hi
      subst hi
      rw [hnone] at hri
      cases hri
  · rcases old x hx with hx | rfl
    · obtain ⟨hxo, hcommit | ⟨j, r, hj, hr, hs, hh⟩⟩ := h.queued x hx hxq
      · exact ⟨hxo, .inl hcommit⟩
      · refine ⟨hxo, .inr ⟨j, _, hj, by rw [hR, hr]; rfl, ?_⟩⟩
        split <;> exact ⟨hs, hh⟩
    · cases hxq
  · obtain ⟨r, hr0, rfl⟩ := back j r' hr
    have hf' : r.lease.state = .frozen := by
      by_cases hj : k.region = some j
      · rw [if_pos hj] at hf
        exact hf
      · rw [if_neg hj] at hf
        exact hf
    obtain ⟨⟨c, hc, hkind⟩, hno⟩ := h.frozen j r hr0 hf'
    refine ⟨?_, fun x hx => ?_⟩
    · simp only [List.mem_append, List.mem_cons] at hc
      rcases hc with hc | rfl | hc
      · exact ⟨c, by simp [hc], hkind⟩
      · exact ⟨{ c with queued := false }, by simp, hkind⟩
      · exact ⟨c, by simp [hc], hkind⟩
    · rcases old x hx with hx | rfl
      · exact hno x hx
      · exact hno k hmem
  · have hcommits := h.commits
    rw [List.countP_append, List.countP_cons] at hcommits ⊢
    exact hcommits
  · rcases old x hx with hx | rfl
    · exact h.commitRegion x hx hc
    · exact h.commitRegion k hmem hc

/-- A started job of a PROGRAM or an erase ends, and the drain count of its region goes down (R56, R81, R82). -/
theorem ended {l m : List Job} {k : Job} (h : Leased R (l ++ k :: m)) (hq : k.queued = false) (hk : k.kind ≠ .mapCommit)
    (hR : ∀ j, R' j = (R j).map (fun r => if k.region = some j then { r with lease := r.entryEnded } else r)) :
    Leased R' (l ++ m) := by
  have hmem : k ∈ l ++ k :: m := by simp
  have hcount : ∀ j, started (l ++ k :: m) j = started (l ++ m) j + (if k.region = some j then 1 else 0) := by
    intro j
    simp only [started, List.countP_append, List.countP_cons, hq]
    by_cases hj : k.region = some j <;> simp [hj]
    omega
  have old : ∀ x ∈ l ++ m, x ∈ l ++ k :: m := by
    intro x hx
    simp only [List.mem_append, List.mem_cons] at hx ⊢
    tauto
  have back : ∀ j r', R' j = some r' → ∃ r, R j = some r ∧ r' =
      if k.region = some j then { r with lease := r.entryEnded } else r := by
    intro j r' hr
    rw [hR] at hr
    obtain ⟨r, hr, heq⟩ := Option.map_eq_some_iff.1 hr
    exact ⟨r, hr, heq.symm⟩
  have pos : ∀ j r, R j = some r → k.region = some j → 1 ≤ r.lease.drain := by
    intro j r hr hj
    rw [h.drain j r hr, hcount, if_pos hj]
    omega
  refine ⟨fun j r' hr => ?_, fun j r' hr => ?_, fun j r' hr => ?_, fun j hj hr => ?_, fun x hx hxq => ?_,
    fun j r' hr hf => ?_, ?_, fun x hx hc => h.commitRegion x (old x hx) hc⟩
  · obtain ⟨r, hr0, -⟩ := back j r' hr
    exact h.small j r hr0
  · obtain ⟨r, hr0, rfl⟩ := back j r' hr
    by_cases hj : k.region = some j
    · rw [if_pos hj]
      exact Region.lawful_entryEnded (h.lawful j r hr0) (pos j r hr0 hj)
    · rw [if_neg hj]
      exact h.lawful j r hr0
  · obtain ⟨r, hr0, rfl⟩ := back j r' hr
    have hd := h.drain j r hr0
    rw [hcount] at hd
    by_cases hj : k.region = some j
    · rw [if_pos hj] at hd ⊢
      have hdrain : r.entryEnded.drain = r.lease.drain - 1 := by
        unfold Region.entryEnded Region.granted
        split
        · split <;> rfl
        · rfl
      show r.entryEnded.drain = _
      omega
    · rw [if_neg hj] at hd ⊢
      exact hd
  · rw [hR] at hr
    have hzero := h.undefined j hj (Option.map_eq_none_iff.1 hr)
    rw [hcount] at hzero
    omega
  · obtain ⟨hxo, hcommit | ⟨j, r, hj, hr, hs, hh⟩⟩ := h.queued x (old x hx) hxq
    · exact ⟨hxo, .inl hcommit⟩
    · refine ⟨hxo, .inr ⟨j, _, hj, by rw [hR, hr]; rfl, ?_⟩⟩
      split
      · show r.entryEnded.state = _ ∧ r.entryEnded.holder = _
        rw [Region.entryEnded_of_ne (by rw [hs]; exact nofun)]
        exact ⟨hs, hh⟩
      · exact ⟨hs, hh⟩
  · obtain ⟨r, hr0, rfl⟩ := back j r' hr
    have hne : k.region ≠ some j := by
      intro hj
      rw [if_pos hj] at hf
      have hf' : r.entryEnded.state = .frozen := hf
      have hold : r.lease.state = .frozen := by
        unfold Region.entryEnded Region.granted at hf'
        split at hf'
        · split at hf' <;> cases hf'
        · exact hf'
      exact (h.frozen j r hr0 hold).2 k hmem hj
    rw [if_neg hne] at hf
    obtain ⟨⟨c, hc, hkind⟩, hno⟩ := h.frozen j r hr0 hf
    refine ⟨⟨c, ?_, hkind⟩, fun x hx => hno x (old x hx)⟩
    simp only [List.mem_append, List.mem_cons] at hc ⊢
    rcases hc with hc | rfl | hc
    · exact .inl hc
    · exact absurd hkind hk
    · exact .inr hc
  · have hcommits := h.commits
    rw [List.countP_append, List.countP_cons] at hcommits
    rw [List.countP_append]
    omega

end Leased

end Sys2Proof.Machine
end

section
/-! Every step keeps the laws of leases, drain counts, QUEUED work, FROZEN regions and commits: move by move. -/

namespace Sys2Proof.Machine

variable {a : Actor} {p : Port} {s t : State}

/-! ### The moves that leave the table and the jobs alone -/

/-- What the laws read of the part. -/
def State.table (s : State) : List (Option Region) × List Job × Option MapImage := (s.regions, s.jobs, s.commitImage)

theorem State.table_eq (hr : t.regions = s.regions) (hj : t.jobs = s.jobs) (hc : t.commitImage = s.commitImage) :
    t.table = s.table := by
  rw [State.table, State.table, hr, hj, hc]

theorem State.region_of_regions (h : t.regions = s.regions) : t.region = s.region := by
  funext i
  unfold State.region
  rw [h]

theorem State.LeaseLaws.of_table (hs : s.LeaseLaws) (h : t.table = s.table) : t.LeaseLaws := by
  obtain ⟨hr, hj, hc⟩ := Prod.mk.inj h |>.imp_right Prod.mk.inj
  obtain ⟨hleased, himage⟩ := hs
  refine ⟨?_, ?_⟩
  · rw [hj, State.region_of_regions hr]
    exact hleased
  · rw [hj, hc]
    exact himage

theorem State.jobs_of_queue (h : t.queue = s.queue) : t.jobs = s.jobs := by
  rw [State.jobs, State.jobs, h]

/-- The change of an entry's state, between states that are not QUEUED, is no change of its job. -/
theorem State.jobs_modifyEntry {i : Nat} {e : Entry} {f : Entry → Entry} (hi : s.queue[i]? = some e)
    (h : (f e).job = e.job) : (s.modifyEntry i f).jobs = s.jobs := by
  unfold State.jobs State.modifyEntry
  dsimp only
  rw [modify_split f hi]
  conv_rhs => rw [split_at hi]
  simp [h]

theorem Entry.not_queued_of_active {e : Entry} (h : e.isActive = true) : e.isQueued = false := by
  unfold Entry.isActive at h
  unfold Entry.isQueued
  cases hs : e.state <;> simp [hs] at h ⊢

theorem Entry.not_queued_of_parked {e : Entry} (h : e.isParked = true) : e.isQueued = false := by
  unfold Entry.isParked at h
  unfold Entry.isQueued
  cases hs : e.state <;> simp [hs] at h ⊢

theorem Entry.job_state {e : Entry} {x : EntryState} (h : e.isQueued = false) (hx : x ≠ .queued) :
    Entry.job { e with state := x } = e.job := by
  have hx' : ({ e with state := x } : Entry).isQueued = false := decide_eq_false hx
  unfold Entry.job
  rw [h, hx']

theorem State.orderSuspend_table (s : State) : s.orderSuspend.table = s.table := by
  unfold State.orderSuspend
  split
  · next i hi =>
    obtain ⟨-, e, he, hactive, -⟩ := State.activeIndex_some hi
    exact State.table_eq rfl (State.jobs_modifyEntry he (Entry.job_state (Entry.not_queued_of_active hactive) nofun)) rfl
  · rfl

theorem State.requestSuspend_table (s : State) (w : Nat) : (s.requestSuspend w).table = s.table := s.orderSuspend_table

theorem State.resumeErase_table (s : State) : s.resumeErase.table = s.table := by
  unfold State.resumeErase
  split
  · next i hi =>
    obtain ⟨-, e, he, hparked, -⟩ := State.parkedIndex_some hi
    exact State.table_eq rfl (State.jobs_modifyEntry he (Entry.job_state (Entry.not_queued_of_parked hparked) nofun)) rfl
  · rfl

theorem State.parkErase_table {i : Nat} (hi : s.activeIndex = some i) : (s.parkErase i).table = s.table := by
  obtain ⟨-, e, he, hactive, -⟩ := State.activeIndex_some hi
  exact State.table_eq rfl (State.jobs_modifyEntry he
    (Entry.job_state (Entry.not_queued_of_active hactive) nofun)) rfl

theorem State.released_table (s : State) (p : Port) : (s.released p).table = s.table := by
  rw [State.released_eq]
  rfl

theorem State.resetHandles_table (s : State) (p : Port) : (s.resetHandles p).table = s.table := by
  rw [State.resetHandles_eq]
  rfl

theorem State.arrayStops_table (s : State) : s.arrayStops.table = s.table := by
  unfold State.arrayStops
  split <;> rfl

/-! ### A start -/

theorem Entry.job_age (c : Nat) (e : Entry) : (Entry.age c e).job = e.job := by
  rw [Entry.age_eq]
  rfl

theorem State.jobs_startEntry {i : Nat} {e : Entry} (hi : s.queue[i]? = some e) :
    (s.startEntry i).jobs = (s.queue.take i).map Entry.job ++
      { e.job with queued := false } :: (s.queue.drop (i + 1)).map Entry.job := by
  rw [State.startEntry_eq hi, State.jobs, startQueue_eq]
  simp only [List.map_append, List.map_cons, List.map_map]
  congr 1
  exact List.map_congr_left fun x _ => Entry.job_age _ x

theorem State.region_startEntry {i : Nat} {e : Entry} (hi : s.queue[i]? = some e) (j : Nat) :
    (s.startEntry i).region j = (s.region j).map (fun r =>
      if e.region = some j then { r with lease := { r.lease with drain := r.lease.drain + 1 } } else r) := by
  rw [State.startEntry_eq hi]
  cases hr : e.region with
  | none =>
    show s.region j = _
    simp
  | some k =>
    show (s.drainUp k).region j = _
    unfold State.drainUp
    rw [State.region_modifyLease]
    by_cases hj : j = k
    · simp [hj]
    · simp [hj, Ne.symm hj]

theorem State.jobs_at {i : Nat} {e : Entry} (hi : s.queue[i]? = some e) :
    s.jobs = (s.queue.take i).map Entry.job ++ e.job :: (s.queue.drop (i + 1)).map Entry.job := by
  unfold State.jobs
  conv_lhs => rw [split_at hi]
  simp

theorem State.LeaseLaws.startEntry {i : Nat} {e : Entry} (hi : s.queue[i]? = some e) (hq : e.isQueued = true)
    (hs : s.LeaseLaws) : (s.startEntry i).LeaseLaws := by
  obtain ⟨hleased, himage⟩ := hs
  have hcommit : (s.startEntry i).commitImage = s.commitImage := by rw [State.startEntry_eq hi]
  rw [State.jobs_at hi] at hleased himage
  refine ⟨?_, ?_⟩
  · rw [State.jobs_startEntry hi]
    exact hleased.start hq (State.region_startEntry hi)
  · rw [hcommit, himage, State.jobs_startEntry hi]
    simp [or_and_right, exists_or]

theorem State.LeaseLaws.look (hs : s.LeaseLaws) : s.look.LeaseLaws := by
  have queued : ∀ {e}, s.eligible e = true → e.isQueued = true := fun h => decide_eq_true (State.eligible_iff.1 h).1
  rcases s.look_cases with h | ⟨-, i, hi, h⟩ | ⟨-, i, hi, h⟩ | ⟨-, -, h⟩ | ⟨-, -, -, h⟩ <;> rw [h]
  · exact hs
  · obtain ⟨e, he, hok⟩ := State.selectAny_some hi
    exact hs.startEntry he (queued hok)
  · obtain ⟨e, he, hok, -⟩ := State.selectOver_some hi
    exact hs.startEntry he (queued hok)
  · exact hs.of_table s.orderSuspend_table
  · exact hs.of_table s.resumeErase_table

/-! ### A lease changes -/

theorem State.region_modifyLease_map (s : State) (i j : Nat) (f : Lease → Lease) :
    (s.modifyLease i f).region j =
      (s.region j).map (fun r => if j = i then { r with lease := f r.lease } else r) := by
  rw [State.region_modifyLease]
  by_cases hj : j = i <;> simp [hj]

theorem State.LeaseLaws.lease {i : Nat} {g : Region → Lease} (hs : s.LeaseLaws)
    (hR : ∀ j, t.region j = (s.region j).map (fun r => if j = i then { r with lease := g r } else r))
    (hj : t.jobs = s.jobs) (hc : t.commitImage = s.commitImage)
    (hlaw : ∀ r, s.region i = some r → r.lawful → Region.lawful { r with lease := g r })
    (hdrain : ∀ r, s.region i = some r → (g r).drain = r.lease.drain)
    (hqueued : ∀ r, s.region i = some r → ∀ k ∈ s.jobs, k.queued = true → k.region = some i → r.lease.state = .held →
      r.lease.holder = some k.port → (g r).state = .held ∧ (g r).holder = some k.port)
    (hfrozen : ∀ r, s.region i = some r → (g r).state = .frozen → r.lease.state = .frozen) : t.LeaseLaws := by
  obtain ⟨hleased, himage⟩ := hs
  refine ⟨?_, by rw [hc, hj]; exact himage⟩
  rw [hj]
  exact hleased.lease hR (fun r hr => hlaw r hr (hleased.lawful i r hr)) hdrain hqueued hfrozen

theorem Region.lawful_take {r : Region} (hm : r.definition.writeMask.has p = true) (hs : r.lease.state = .free)
    (h : r.lawful) : Region.lawful { r with lease :=
      { r.lease with state := .held, holder := some p, remaining := r.definition.limit.toNat } } := by
  obtain ⟨hl, hw⟩ := h
  obtain ⟨-, -, hwait, -⟩ := (Region.leaseLaw_free hs).1 hl
  refine ⟨(Region.leaseLaw_held rfl).2 ⟨p, rfl, hm, ?_, ?_, le_refl _, ?_⟩, hw⟩
  · simp [hwait]
  · simp [hwait]
  · show r.definition.limit.toNat = 0 ∨ 1 ≤ r.definition.limit.toNat
    omega

theorem Region.lawful_wait {r : Region} (hm : r.definition.writeMask.has p = true)
    (hs : r.lease.state = .held ∨ r.lease.state = .draining ∧ r.lease.waiters.length < 2)
    (hh : r.lease.holder ≠ some p) (hp : p ∉ r.lease.waiters) (h : r.lawful) :
    Region.lawful { r with lease := { r.lease with waiters := r.lease.waiters ++ [p] } } := by
  obtain ⟨hl, hw⟩ := h
  have hnodup : (r.lease.waiters ++ [p]).Nodup := by
    rw [List.nodup_append]
    refine ⟨Region.waiters_nodup hl, List.nodup_singleton p, fun x hx y hy hxy => hp ?_⟩
    rw [List.mem_singleton] at hy
    exact hy ▸ hxy ▸ hx
  have hmask : ∀ x ∈ r.lease.waiters ++ [p], r.definition.writeMask.has x = true := by
    intro x hx
    rcases List.mem_append.1 hx with hx | hx
    · exact Region.waiterLaw_iff.1 hw x hx
    · exact List.mem_singleton.1 hx ▸ hm
  refine ⟨?_, Region.waiterLaw_iff.2 hmask⟩
  rcases hs with hs | ⟨hs, hlen⟩
  · obtain ⟨q, hq, hqm, hnot, -, hle, hlim⟩ := (Region.leaseLaw_held hs).1 hl
    refine (Region.leaseLaw_held (r := { r with lease := { r.lease with waiters := r.lease.waiters ++ [p] } }) hs).2
      ⟨q, hq, hqm, fun hmem => ?_, hnodup, hle, hlim⟩
    rcases List.mem_append.1 hmem with hmem | hmem
    · exact hnot hmem
    · exact hh (List.mem_singleton.1 hmem ▸ hq)
  · obtain ⟨hholder, hremaining, hdrain, -, -⟩ := (Region.leaseLaw_draining hs).1 hl
    refine (Region.leaseLaw_draining (r := { r with lease := { r.lease with waiters := r.lease.waiters ++ [p] } }) hs).2
      ⟨hholder, hremaining, hdrain, hnodup, ?_⟩
    rw [List.length_append, List.length_singleton]
    exact hlen

/-- The region that a port waits for no longer (R88). -/
def Region.left (r : Region) (p : Port) : Region :=
  { r with lease := { r.lease with waiters := r.lease.waiters.erase p } }

theorem Region.lawful_left {r : Region} (p : Port) (h : r.lawful) : (r.left p).lawful := by
  obtain ⟨hl, hw⟩ := h
  have hsub : ∀ x ∈ r.lease.waiters.erase p, x ∈ r.lease.waiters := fun x hx => List.mem_of_mem_erase hx
  have hnodup : (r.lease.waiters.erase p).Nodup := (Region.waiters_nodup hl).erase p
  refine ⟨?_, Region.waiterLaw_iff.2 fun x hx => Region.waiterLaw_iff.1 hw x (hsub x hx)⟩
  cases hs : r.lease.state with
  | free =>
    obtain ⟨h1, h2, h3, h4⟩ := (Region.leaseLaw_free hs).1 hl
    exact (Region.leaseLaw_free (r := r.left p) hs).2 ⟨h1, h2, by simp [Region.left, h3], h4⟩
  | frozen =>
    obtain ⟨h1, h2, h3, h4⟩ := (Region.leaseLaw_frozen hs).1 hl
    exact (Region.leaseLaw_frozen (r := r.left p) hs).2 ⟨h1, h2, by simp [Region.left, h3], h4⟩
  | draining =>
    obtain ⟨h1, h2, h3, -, h5⟩ := (Region.leaseLaw_draining hs).1 hl
    exact (Region.leaseLaw_draining (r := r.left p) hs).2 ⟨h1, h2, h3, hnodup, (List.length_erase_le ..).trans h5⟩
  | held =>
    obtain ⟨q, h1, h2, h3, -, h5, h6⟩ := (Region.leaseLaw_held hs).1 hl
    exact (Region.leaseLaw_held (r := r.left p) hs).2 ⟨q, h1, h2, fun h => h3 (hsub q h), hnodup, h5, h6⟩

/-- What is left of the time of a HELD region changes, within the limit (R86, R91). -/
theorem Region.lawful_remaining {r : Region} {n : Nat} (hs : r.lease.state = .held) (hn : n ≤ r.definition.limit.toNat)
    (h1 : r.definition.limit.toNat = 0 ∨ 1 ≤ n) (h : r.lawful) :
    Region.lawful { r with lease := { r.lease with remaining := n } } := by
  obtain ⟨hl, hw⟩ := h
  obtain ⟨q, hq, hm, hnot, hnodup, -, -⟩ := (Region.leaseLaw_held hs).1 hl
  exact ⟨(Region.leaseLaw_held (r := { r with lease := { r.lease with remaining := n } }) hs).2
    ⟨q, hq, hm, hnot, hnodup, hn, h1⟩, hw⟩

end Sys2Proof.Machine
end

section
/-! The lease laws over the moves that make, remove and end jobs. -/

namespace Sys2Proof.Machine

variable {a : Actor} {p : Port} {s t : State}

/-! ### Jobs leave -/

/-- The commits along a list of jobs. -/
def commitJobs (js : List Job) : Nat := js.countP (fun k => decide (k.kind = .mapCommit))

theorem commitJobs_pos {js : List Job} : 0 < commitJobs js ↔ ∃ k ∈ js, k.kind = .mapCommit := by
  simp [commitJobs, List.countP_pos_iff]

theorem commitJobs_zero {js : List Job} : commitJobs js = 0 ↔ ∀ k ∈ js, k.kind ≠ .mapCommit := by
  simp [commitJobs, List.countP_eq_zero]

/-- Jobs leave that are not started in a region; of those that stay no QUEUED one changes. -/
structure Fewer (js js' : List Job) : Prop where
  mem : ∀ k' ∈ js', ∃ k ∈ js, k'.port = k.port ∧ k'.kind = k.kind ∧ k'.region = k.region ∧ k'.queued = k.queued ∧
    (k'.queued = true → k'.orphaned = k.orphaned)
  started : ∀ i, started js' i = started js i

theorem Leased.fewer {R : Nat → Option Region} {js js' : List Job} (h : Leased R js) (hf : Fewer js js')
    (hc : commitJobs js' = commitJobs js) : Leased R js' := by
  refine h.thin hf.mem hf.started (le_of_eq hc) ?_
  rcases Nat.eq_zero_or_pos (commitJobs js') with h0 | hpos
  · exact .inr (.inl (commitJobs_zero.1 (hc ▸ h0)))
  · exact .inl (commitJobs_pos.1 hpos)

theorem Leased.fewer_none {R : Nat → Option Region} {js js' : List Job} (h : Leased R js) (hf : Fewer js js')
    (hc : commitJobs js' = 0) (hnone : ∀ j r, R j = some r → r.lease.state ≠ .frozen) : Leased R js' := by
  refine h.thin hf.mem hf.started ?_ (.inr (.inr hnone))
  show commitJobs js' ≤ commitJobs js
  omega

/-- A commit that does not end DONE leaves, and the regions that it froze are FREE again (R34, R39, R169). -/
theorem Leased.fewer_thawed {R R' : Nat → Option Region} {js js' : List Job} (h : Leased R js) (hf : Fewer js js')
    (hc : commitJobs js' = 0) (hR : ∀ j, R' j = (R j).map (fun r =>
      if j < 16 ∧ r.lease.state = .frozen then { r with lease := r.granted { r.lease with state := .free } } else r)) :
    Leased R' js' := by
  obtain ⟨hthaw, hnone⟩ := h.thaw hR
  exact hthaw.fewer_none hf hc hnone

theorem State.LeaseLaws.fewer (hs : s.LeaseLaws) (hr : t.regions = s.regions) (hi : t.commitImage = s.commitImage)
    (hf : Fewer s.jobs t.jobs) (hc : commitJobs t.jobs = commitJobs s.jobs) : t.LeaseLaws := by
  obtain ⟨hleased, himage⟩ := hs
  refine ⟨?_, ?_⟩
  · rw [State.region_of_regions hr]
    exact hleased.fewer hf hc
  · rw [hi, himage, ← commitJobs_pos, ← commitJobs_pos, hc]

theorem State.LeaseLaws.fewer_thawed (hs : s.LeaseLaws) (hi : t.commitImage = none) (hf : Fewer s.jobs t.jobs)
    (hc : commitJobs t.jobs = 0) (hR : ∀ j, t.region j = (s.region j).map (fun r =>
      if j < 16 ∧ r.lease.state = .frozen then { r with lease := r.granted { r.lease with state := .free } } else r)) :
    t.LeaseLaws := by
  refine ⟨hs.leased.fewer_thawed hf hc hR, ?_⟩
  rw [hi, ← commitJobs_pos, hc]
  exact ⟨nofun, nofun⟩

theorem Thinned.fewer {q r : List Entry} (h : Thinned q r)
    (ho : ∀ e ∈ r, e.isQueued = true → ∀ x ∈ q, ∀ b, e = { x with orphaned := b } → e.orphaned = x.orphaned) :
    Fewer (q.map Entry.job) (r.map Entry.job) := by
  refine ⟨fun k' hk' => ?_, fun i => ?_⟩
  · obtain ⟨e, he, rfl⟩ := List.mem_map.1 hk'
    obtain ⟨x, hx, b, hb⟩ := h.mem he
    refine ⟨x.job, List.mem_map_of_mem hx, ?_⟩
    have horphan := fun hq => ho e he hq x hx b hb
    subst hb
    exact ⟨rfl, rfl, rfl, rfl, horphan⟩
  · unfold started
    rw [List.countP_map, List.countP_map]
    refine h.countP (fun e b => rfl) fun e he => ?_
    simp [Entry.job, he]

/-- Entries leave that are QUEUED, and the others stay as they are. -/
theorem Thinned.fewer_of_sublist {q r : List Entry} (h : Thinned q r) (hsub : ∀ e ∈ r, e ∈ q)
    (ho : ∀ e ∈ q, e.isQueued = true → e.orphaned = false) : Fewer (q.map Entry.job) (r.map Entry.job) := by
  refine h.fewer fun e he hq x hx b hb => ?_
  have hxq : x.isQueued = true := by
    subst hb
    exact hq
  rw [ho e (hsub e he) hq, ho x hx hxq]

theorem State.LeaseLaws.not_orphaned (hs : s.LeaseLaws) : ∀ e ∈ s.queue, e.isQueued = true → e.orphaned = false :=
  fun _ he hq => (hs.leased.queued _ (List.mem_map_of_mem he) hq).1

theorem State.commitJobs_eraseIdx {i : Nat} {e : Entry} (hi : s.queue[i]? = some e) :
    commitJobs s.jobs = commitJobs ((s.queue.eraseIdx i).map Entry.job) + (if e.kind = .mapCommit then 1 else 0) := by
  rw [State.jobs_at hi, List.eraseIdx_eq_take_drop_succ, List.map_append]
  unfold commitJobs
  rw [List.countP_append, List.countP_append, List.countP_cons, ← Nat.add_assoc]
  by_cases hk : e.kind = .mapCommit <;> simp [Entry.job, hk]

/-- The place of a commit is that of the only one. -/
theorem State.LeaseLaws.last_commit (hs : s.LeaseLaws) {i : Nat} {e : Entry} (hi : s.queue[i]? = some e)
    (hk : e.kind = .mapCommit) : commitJobs ((s.queue.eraseIdx i).map Entry.job) = 0 := by
  have hone : commitJobs s.jobs ≤ 1 := hs.leased.commits
  rw [State.commitJobs_eraseIdx hi, if_pos hk] at hone
  omega

/-! ### CANCEL, an expiry, PORT RESET -/

theorem State.LeaseLaws.cancelEntry (hs : s.LeaseLaws) {i : Nat} {e : Entry} (hi : s.queue[i]? = some e)
    (he : e.isQueued = true) : (s.cancelEntry i e).LeaseLaws := by
  have hqueue : (s.cancelEntry i e).queue = s.queue.eraseIdx i := congrArg Work.queue (s.cancelEntry_work i e)
  have hjobs : (s.cancelEntry i e).jobs = (s.queue.eraseIdx i).map Entry.job := by rw [State.jobs, hqueue]
  have hfewer : Fewer s.jobs (s.cancelEntry i e).jobs := by
    rw [hjobs]
    exact (Thinned.eraseIdx hi he).fewer_of_sublist (fun x hx => List.mem_of_mem_eraseIdx hx) hs.not_orphaned
  have hcount := State.commitJobs_eraseIdx hi
  have left : ((({ s with queue := s.queue.eraseIdx i } : State).freeEntryBuffer e).postRecord e .cancelled).table =
      (s.regions, (s.queue.eraseIdx i).map Entry.job, s.commitImage) := by
    unfold State.postRecord
    rw [State.freeEntryBuffer_eq]
    rfl
  obtain ⟨hr, -, hc⟩ := Prod.mk.inj left |>.imp_right Prod.mk.inj
  by_cases hk : e.kind = .mapCommit
  · have heq : s.cancelEntry i e =
        ((({ s with queue := s.queue.eraseIdx i } : State).freeEntryBuffer e).postRecord e .cancelled).dropCommit :=
      if_pos hk
    refine hs.fewer_thawed ?_ hfewer ?_ fun j => ?_
    · rw [heq, (State.dropCommit_leases _).eq]
    · rw [hjobs]
      exact hs.last_commit hi hk
    · rw [heq]
      unfold State.dropCommit
      rw [State.region_unfreezeAll]
      exact congrArg (Option.map _) (congrFun (State.region_of_regions hr) j)
  · have heq : s.cancelEntry i e =
        (({ s with queue := s.queue.eraseIdx i } : State).freeEntryBuffer e).postRecord e .cancelled := if_neg hk
    refine hs.fewer ?_ ?_ hfewer ?_
    · rw [heq, hr]
    · rw [heq, hc]
    · rw [hjobs, hcount, if_neg hk, Nat.add_zero]

theorem State.LeaseLaws.loseEntries (hs : s.LeaseLaws) (p : Port) (i : Nat) : (s.loseEntries p i).LeaseLaws := by
  have hqueue : (s.loseEntries p i).queue = s.queue.filter (fun e => !e.queuedIn p i) := s.loseEntries_queue p i
  have hjobs : (s.loseEntries p i).jobs = (s.queue.filter (fun e => !e.queuedIn p i)).map Entry.job := by
    rw [State.jobs, hqueue]
  have hgone : ∀ e ∈ s.queue, (!e.queuedIn p i) = false → e.isQueued = true ∧ e.region = some i := by
    intro e _ h
    simp only [Bool.not_eq_false', Entry.queuedIn, Bool.and_eq_true, decide_eq_true_eq] at h
    exact ⟨h.1.1, h.2⟩
  refine hs.fewer (by rw [State.loseEntries_eq]) (by rw [State.loseEntries_eq]) ?_ ?_
  · rw [hjobs]
    exact (Thinned.filter fun e he h => (hgone e he h).1).fewer_of_sublist (fun x hx => List.mem_of_mem_filter hx)
      hs.not_orphaned
  · rw [hjobs]
    unfold commitJobs State.jobs
    rw [List.countP_map, List.countP_map, List.countP_filter]
    refine List.countP_congr fun e he => ?_
    rw [Bool.and_eq_true, and_iff_left_iff_imp]
    intro hcommit
    have hk : e.job.kind = .mapCommit := of_decide_eq_true hcommit
    by_contra h
    obtain ⟨-, hr⟩ := hgone e he (by simpa using h)
    have hnone := hs.leased.commitRegion _ (List.mem_map_of_mem he) hk
    rw [show e.job.region = e.region from rfl, hr] at hnone
    cases hnone

/-- The commits that PORT RESET leaves, and those that it removes. -/
theorem State.commitJobs_resetQueue (s : State) (p : Port) :
    commitJobs s.jobs = commitJobs (s.resetQueue p).jobs + (s.resetGone p).countP (fun e => decide (e.kind = .mapCommit)) := by
  unfold commitJobs State.jobs State.resetGone
  rw [State.resetQueue_queue, List.map_map, List.countP_map, List.countP_map,
    List.countP_eq_countP_filter_add s.queue _ (fun e => decide (e.port = p) && e.isQueued), Nat.add_comm]
  congr 1
  refine List.countP_congr fun e _ => ?_
  simp only [Function.comp_apply, Entry.job]
  split <;> rfl

theorem State.LeaseLaws.resetQueue (hs : s.LeaseLaws) (p : Port) : (s.resetQueue p).LeaseLaws := by
  have hfewer : Fewer s.jobs (s.resetQueue p).jobs := by
    refine (s.resetQueue_thinned p).fewer fun e he hq x hx b hb => ?_
    rw [State.resetQueue_queue] at he
    obtain ⟨y, hy, rfl⟩ := List.mem_map.1 he
    obtain ⟨hmem, hstay⟩ := List.mem_filter.1 hy
    have hport : y.port ≠ p := by
      intro hp
      rw [if_pos hp] at hq
      have hyq : y.isQueued = true := hq
      simp [hp, hyq] at hstay
    rw [if_neg hport] at hq hb ⊢
    have hxq : x.isQueued = true := by
      subst hb
      exact hq
    rw [hs.not_orphaned y hmem hq, hs.not_orphaned x hx hxq]
  have hfreed := s.resetFreed_eq p
  have hr : (s.resetFreed p).regions = s.regions := by rw [hfreed]
  have hc : (s.resetFreed p).commitImage = s.commitImage := by rw [hfreed]
  have hcount := s.commitJobs_resetQueue p
  have hone : commitJobs s.jobs ≤ 1 := hs.leased.commits
  have heq := s.resetQueue_eq p
  split at heq
  · next hany =>
    have hpos : 0 < (s.resetGone p).countP (fun e => decide (e.kind = .mapCommit)) := by
      rw [List.countP_pos_iff]
      exact List.any_eq_true.1 hany
    refine hs.fewer_thawed ?_ hfewer (by omega) fun j => ?_
    · rw [heq, (State.dropCommit_leases _).eq]
    · rw [heq]
      unfold State.dropCommit
      rw [State.region_unfreezeAll]
      exact congrArg (Option.map _) (congrFun (State.region_of_regions hr) j)
  · next hany =>
    have hzero : (s.resetGone p).countP (fun e => decide (e.kind = .mapCommit)) = 0 := by
      rw [List.countP_eq_zero]
      intro e he hk
      exact hany (List.any_eq_true.2 ⟨e, he, hk⟩)
    exact hs.fewer (by rw [heq, hr]) (by rw [heq, hc]) hfewer (by omega)

/-! ### Submissions -/

theorem State.holdsBlock_iff {b : Nat} : s.holdsBlock p b = true ↔
    ∃ i r, s.regionOfBlock b = some i ∧ s.region i = some r ∧ r.lease.state = .held ∧ r.lease.holder = some p := by
  unfold State.holdsBlock
  cases hb : s.regionOfBlock b with
  | none => simp
  | some i => cases hr : s.region i <;> simp [hr]

/-- An entry of a PROGRAM or an erase joins, in a region that its port holds. -/
theorem State.LeaseLaws.append (hs : s.LeaseLaws) {b : Nat} {e : Entry} (hr : t.regions = s.regions)
    (hc : t.commitImage = s.commitImage) (hq : t.queue = s.queue ++ [e]) (hstate : e.state = .queued)
    (horphan : e.orphaned = false) (hkind : e.kind ≠ .mapCommit) (hregion : e.region = s.regionOfBlock b)
    (hholds : s.holdsBlock e.port b = true) : t.LeaseLaws := by
  obtain ⟨i, r, hi, hri, hheld, hholder⟩ := State.holdsBlock_iff.1 hholds
  have hjobs : t.jobs = s.jobs ++ [e.job] := by simp [State.jobs, hq]
  refine ⟨?_, ?_⟩
  · rw [State.region_of_regions hr, hjobs]
    exact hs.leased.append (decide_eq_true hstate) horphan hkind (hregion.trans hi) hri hheld hholder
  · rw [hc, hs.image, hjobs]
    simp [show e.job.kind = e.kind from rfl, hkind, or_and_right, exists_or]

theorem State.LeaseLaws.acceptProgram (hs : s.LeaseLaws) {handle tag cls : Byte} {addr : Addr}
    (hok : firstFailing (s.programChecks p handle addr tag cls) = none) :
    (s.acceptProgram p handle addr tag cls).LeaseLaws := by
  obtain ⟨-, -, -, -, hcommon⟩ := State.programChecks_pass hok
  obtain ⟨-, -, hholds, -⟩ := State.commonChecks_pass hcommon
  refine hs.append ?_ ?_ (s.acceptProgram_queue p handle addr tag cls) rfl rfl nofun rfl hholds
  · unfold State.acceptProgram
    dsimp only
    split <;> rfl
  · unfold State.acceptProgram
    dsimp only
    split <;> rfl

theorem State.LeaseLaws.acceptErase (hs : s.LeaseLaws) {kind : EntryKind} (hkind : kind ≠ .mapCommit) {target : Target}
    {tag cls : Byte} {addr : Addr} (hok : firstFailing (s.eraseChecks p addr tag cls) = none) :
    (s.acceptErase p kind target tag cls addr).LeaseLaws := by
  obtain ⟨-, hcommon⟩ := State.eraseChecks_pass hok
  obtain ⟨-, -, hholds, -⟩ := State.commonChecks_pass hcommon
  exact hs.append rfl rfl rfl rfl rfl hkind rfl hholds

theorem State.changedNotFree_false {m : MapImage} (h : s.changedNotFree m = false) {j : Nat} {r : Region} (hj : j < 16)
    (hr : s.region j = some r) (hc : m.changes j r = true) : r.lease.state = .free := by
  unfold State.changedNotFree regionIndices at h
  rw [List.any_eq_false] at h
  have hnot := h j (List.mem_range.2 hj)
  simpa [hr, hc] using hnot

theorem State.LeaseLaws.acceptCommit (hs : s.LeaseLaws) {tag : Byte}
    (hok : firstFailing (s.commitChecks p tag) = none) : (s.acceptCommit p tag).LeaseLaws := by
  obtain ⟨m, hm, hpending, -, hfree, -⟩ := State.commitChecks_pass hok
  have hnone : ∀ k ∈ s.jobs, k.kind ≠ .mapCommit := by
    intro k hk hkind
    rw [s.mapPending_jobs.2 ⟨k, hk, hkind⟩] at hpending
    cases hpending
  have hfrozen := s.frozen_leases m
  have hjobs : (s.frozen m).jobs = s.jobs := State.jobs_of_queue (by rw [hfrozen.queue])
  have himage : (s.frozen m).commitImage = some m := by rw [hfrozen.eq]
  have hregion := s.region_frozen m
  rw [State.acceptCommit_some hm]
  generalize s.frozen m = u at hjobs himage hregion
  generalize (s.port p).profile.ceiling = c
  have hnew : (u.appendEntry p tag .mapCommit none none none c c).jobs =
      s.jobs ++ [⟨p, .mapCommit, none, true, false⟩] := by
    rw [← hjobs]
    simp [State.jobs, State.appendEntry, Entry.job, Entry.isQueued]
  have hisSome : (u.appendEntry p tag .mapCommit none none none c c).commitImage.isSome = true :=
    himage ▸ rfl
  refine ⟨?_, ?_⟩
  · rw [hnew]
    exact hs.leased.commit rfl rfl rfl rfl hnone
      (fun j r hr hc => State.changedNotFree_false hfree (hs.leased.small j r hr) hr hc) hregion
  · rw [hnew]
    exact ⟨fun _ => ⟨_, List.mem_append_right _ (List.mem_singleton_self _), rfl⟩, fun _ => hisSome⟩

/-! ### The end of an entry -/

/-- A table that is made index by index. -/
theorem State.region_of_map {f : Nat → Option Region} (h : t.regions = regionIndices.map f) (j : Nat) :
    t.region j = if j < 16 then f j else none := by
  unfold State.region
  rw [h, List.getElem?_map]
  unfold regionIndices
  by_cases hj : j < 16
  · rw [List.getElem?_range hj, if_pos hj]
    rfl
  · rw [List.getElem?_eq_none (by simpa using hj), if_neg hj]
    rfl

theorem State.endEntry_regions (s : State) (i : Nat) (e : Entry) (outcome : EndOutcome) :
    (s.endEntry i e outcome).regions = ((s.endedArray i e outcome).endInNeighbours e outcome).regions ∧
      (s.endEntry i e outcome).commitImage = ((s.endedArray i e outcome).endInNeighbours e outcome).commitImage := by
  rw [State.endEntry_eq]
  dsimp only
  rw [State.ended_eq]
  split <;> exact ⟨rfl, rfl⟩

/-- R168: the table that a commit puts in force, and its image spent. -/
theorem State.commitDone_table {m : MapImage} (h : s.commitImage = some m) :
    s.commitDone.regions = regionIndices.map (fun i => applyDefinition (s.region i) (m.regions[i]?).join) ∧
      s.commitDone.commitImage = none := by
  rw [State.commitDone_some h]
  exact ⟨rfl, rfl⟩

theorem State.commitFailed_table (s : State) :
    s.commitFailed.regions = s.unfreezeAll.regions ∧ s.commitFailed.commitImage = none := by
  unfold State.commitFailed
  generalize s.unfreezeAll = u
  exact ⟨rfl, rfl⟩

/-- An active commit leaves no other: it is in no region. -/
theorem State.LeaseLaws.fewer_commit (hs : s.LeaseLaws) {i : Nat} {e : Entry} (hi : s.queue[i]? = some e)
    (hk : e.kind = .mapCommit) : Fewer s.jobs ((s.queue.eraseIdx i).map Entry.job) := by
  refine ⟨fun k hk => ⟨k, ?_, rfl, rfl, rfl, rfl, fun _ => rfl⟩, fun j => ?_⟩
  · exact ((List.eraseIdx_sublist _ _).map _).subset hk
  · have hregion : e.job.region = none :=
      hs.leased.commitRegion _ (List.mem_map_of_mem (List.mem_of_getElem? hi)) hk
    rw [State.jobs_at hi, List.eraseIdx_eq_take_drop_succ, List.map_append]
    unfold started
    rw [List.countP_append, List.countP_append, List.countP_cons]
    simp [hregion]

theorem State.LeaseLaws.endEntry (hs : s.LeaseLaws) {i : Nat} {e : Entry} (outcome : EndOutcome)
    (hi : s.queue[i]? = some e) (hactive : e.isActive = true) : (s.endEntry i e outcome).LeaseLaws := by
  have hjobs : (s.endEntry i e outcome).jobs = (s.queue.eraseIdx i).map Entry.job := by
    rw [State.jobs, State.endEntry_queue]
  obtain ⟨hregions, himage⟩ := s.endEntry_regions i e outcome
  have harray := s.endedArray_eq i e outcome
  generalize s.endedArray i e outcome = u at hregions himage harray
  have hur : u.region = s.region := State.region_of_regions (by rw [harray])
  have huc : u.commitImage = s.commitImage := by rw [harray]
  unfold State.endInNeighbours at hregions himage
  by_cases hk : e.kind = .mapCommit
  · rw [if_pos hk] at hregions himage
    have hfewer : Fewer s.jobs (s.endEntry i e outcome).jobs := by
      rw [hjobs]
      exact hs.fewer_commit hi hk
    have hlast : commitJobs (s.endEntry i e outcome).jobs = 0 := by
      rw [hjobs]
      exact hs.last_commit hi hk
    cases outcome with
    | failed =>
      obtain ⟨htable, hgone⟩ := u.commitFailed_table
      refine hs.fewer_thawed (himage.trans hgone) hfewer hlast fun j => ?_
      rw [congrFun (State.region_of_regions (hregions.trans htable)) j, ← hur, State.region_unfreezeAll]
    | done =>
      obtain ⟨m, hm⟩ := Option.isSome_iff_exists.1
        (hs.image.2 ⟨_, List.mem_map_of_mem (List.mem_of_getElem? hi), hk⟩)
      obtain ⟨htable, hgone⟩ := State.commitDone_table (huc.trans hm)
      rw [hur] at htable
      obtain ⟨happlied, hnone⟩ := hs.leased.applied (State.region_of_map (hregions.trans htable))
      have hspent : (s.endEntry i e .done).commitImage = none := himage.trans hgone
      refine ⟨happlied.fewer_none hfewer hlast hnone, ?_⟩
      rw [hspent, ← commitJobs_pos, hlast]
      exact ⟨nofun, nofun⟩
  · rw [if_neg hk] at hregions himage
    have hcommit : (s.endEntry i e outcome).commitImage = s.commitImage := by
      rw [himage]
      split
      · rw [(OnlyLeases.drainDown u _).eq, huc]
      · exact huc
    have hcount := State.commitJobs_eraseIdx hi
    rw [if_neg hk, Nat.add_zero] at hcount
    refine ⟨?_, by rw [hcommit, hs.image, ← commitJobs_pos, ← commitJobs_pos, hcount, hjobs]⟩
    have hleased := hs.leased
    rw [State.jobs_at hi] at hleased
    rw [hjobs, List.eraseIdx_eq_take_drop_succ, List.map_append]
    refine hleased.ended (Entry.not_queued_of_active hactive) hk fun j => ?_
    rw [congrFun (State.region_of_regions hregions) j]
    cases hr : e.region with
    | none =>
      rw [hur]
      simp [show e.job.region = e.region from rfl, hr]
    | some k =>
      show (u.drainDown k).region j = _
      rw [State.region_drainDown, hur]
      simp [show e.job.region = e.region from rfl, hr, eq_comm]

end Sys2Proof.Machine
end

section
/-! Every step keeps the lease laws. -/

namespace Sys2Proof.Machine

variable {a : Actor} {p : Port} {s t : State}

/-! ### Leases -/

theorem State.LeaseLaws.take {i : Nat} {r : Region} (hs : s.LeaseLaws) (hr : s.region i = some r)
    (hm : r.definition.writeMask.has p = true) (hfree : r.lease.state = .free) :
    (s.modifyLease i (fun l => { l with state := .held, holder := some p, remaining := r.definition.limit.toNat })).LeaseLaws := by
  refine hs.lease (s.region_modifyLease_map i · _) rfl rfl (fun r' hr' h => ?_) (fun _ _ => rfl)
    (fun r' hr' k _ _ _ hheld _ => ?_) (fun _ _ h => by cases h) <;>
    obtain rfl : r = r' := Option.some.inj (hr.symm.trans hr')
  · exact Region.lawful_take hm hfree h
  · rw [hfree] at hheld
    cases hheld

theorem State.LeaseLaws.wait {i : Nat} {r : Region} (hs : s.LeaseLaws) (hr : s.region i = some r)
    (hm : r.definition.writeMask.has p = true)
    (hstate : r.lease.state = .held ∨ r.lease.state = .draining ∧ r.lease.waiters.length < 2)
    (hh : r.lease.holder ≠ some p) (hw : p ∉ r.lease.waiters) :
    (s.modifyLease i (fun l => { l with waiters := l.waiters ++ [p] })).LeaseLaws := by
  refine hs.lease (s.region_modifyLease_map i · _) rfl rfl (fun r' hr' h => ?_) (fun _ _ => rfl)
    (fun _ _ _ _ _ _ hheld hholder => ⟨hheld, hholder⟩) (fun _ _ h => h)
  obtain rfl : r = r' := Option.some.inj (hr.symm.trans hr')
  exact Region.lawful_wait hm hstate hh hw h

theorem State.LeaseLaws.leave (hs : s.LeaseLaws) (p : Port) (i : Nat) :
    (s.modifyLease i (fun l => { l with waiters := l.waiters.erase p })).LeaseLaws :=
  hs.lease (s.region_modifyLease_map i · _) rfl rfl (fun _ _ h => Region.lawful_left p h) (fun _ _ => rfl)
    (fun _ _ _ _ _ _ hheld hholder => ⟨hheld, hholder⟩) (fun _ _ h => h)

theorem State.LeaseLaws.remaining {i : Nat} {r : Region} {n : Nat} (hs : s.LeaseLaws) (hr : s.region i = some r)
    (hheld : r.lease.state = .held) (hn : n ≤ r.definition.limit.toNat)
    (h1 : r.definition.limit.toNat = 0 ∨ 1 ≤ n) :
    (s.modifyLease i (fun l => { l with remaining := n })).LeaseLaws := by
  refine hs.lease (s.region_modifyLease_map i · _) rfl rfl (fun r' hr' h => ?_) (fun _ _ => rfl)
    (fun _ _ _ _ _ _ hheld hholder => ⟨hheld, hholder⟩) (fun _ _ h => h)
  obtain rfl : r = r' := Option.some.inj (hr.symm.trans hr')
  exact Region.lawful_remaining hheld hn h1 h

theorem State.LeaseLaws.held (hs : s.LeaseLaws) {i : Nat} {r : Region} (hr : s.region i = some r)
    (hh : r.lease.holder = some p) : r.lease.state = .held :=
  Region.held_of_holder (hs.leased.lawful i r hr).1 hh

theorem Region.leaseEnded_drain (r : Region) : r.leaseEnded.drain = r.lease.drain := by
  unfold Region.leaseEnded
  split
  · rfl
  · unfold Region.granted
    split <;> rfl

theorem Region.leaseEnded_ne_frozen (r : Region) : r.leaseEnded.state ≠ .frozen := by
  unfold Region.leaseEnded
  split
  · exact nofun
  · unfold Region.granted
    split <;> exact nofun

theorem State.LeaseLaws.endLease {i : Nat} {r : Region} (hs : s.LeaseLaws) (hr : s.region i = some r)
    (hh : r.lease.holder = some p) (hq : ∀ e ∈ s.queue, e.queuedIn p i = false) : (s.endLease i).LeaseLaws := by
  have heq := (OnlyLeases.endLease s i).eq
  refine hs.lease (s.region_endLease i) (State.jobs_of_queue (by rw [heq])) (by rw [heq]) (fun r' hr' h => ?_)
    (fun r' _ => r'.leaseEnded_drain) (fun r' hr' k hk hkq hki _ hholder => ?_)
    (fun r' _ h => absurd h r'.leaseEnded_ne_frozen) <;>
    obtain rfl : r = r' := Option.some.inj (hr.symm.trans hr')
  · exact Region.lawful_leaseEnded h hh
  · obtain ⟨e, he, rfl⟩ := List.mem_map.1 hk
    have hport : e.port = p := Option.some.inj (hholder.symm.trans hh)
    have hqueued := hq e he
    have heq : e.queuedIn p i = true := by
      unfold Entry.queuedIn
      rw [show e.isQueued = true from hkq, hport, show e.region = some i from hki]
      simp
    rw [heq] at hqueued
    cases hqueued

/-! ### Power and start-up -/

/-- With no job, and every region FREE and idle. -/
theorem Leased.empty {R : Nat → Option Region} (h : ∀ i r, R i = some r → i < 16 ∧ r.lease = freshLease) :
    Leased R [] := by
  refine ⟨fun i r hr => (h i r hr).1, fun i r hr => ?_, fun i r hr => ?_, fun _ _ _ => rfl, nofun,
    fun i r hr hf => ?_, Nat.zero_le _, nofun⟩
  · have hl := (h i r hr).2
    exact ⟨(Region.leaseLaw_free (by rw [hl]; rfl)).2 (by rw [hl]; exact ⟨rfl, rfl, rfl, rfl⟩),
      Region.waiterLaw_iff.2 (by rw [hl]; exact nofun)⟩
  · rw [(h i r hr).2]
    rfl
  · rw [(h i r hr).2] at hf
    cases hf

theorem State.LeaseLaws.empty (hq : s.queue = []) (hc : s.commitImage = none)
    (h : ∀ i r, s.region i = some r → i < 16 ∧ r.lease = freshLease) : s.LeaseLaws := by
  have hjobs : s.jobs = [] := by rw [State.jobs, hq]; rfl
  refine ⟨?_, ?_⟩
  · rw [hjobs]
    exact Leased.empty h
  · rw [hc, hjobs]
    exact ⟨nofun, nofun⟩

theorem State.powerOnValues_regions (s : State) (x : SupplyState) (f : FrameState) (i : Nat) :
    (s.powerOnValues x f).region i = none := by
  show ((List.replicate 16 none : List (Option Region))[i]?).join = none
  rw [List.getElem?_replicate]
  split <;> rfl

theorem State.atReset_region (s : State) (items : List InterruptedItem) (i : Nat) :
    (s.atReset items).region i = (s.region i).map (fun r => { r with lease := freshLease }) := by
  show ((s.regions.map (Option.map fun r => { r with lease := freshLease }))[i]?).join = _
  unfold State.region
  rw [List.getElem?_map]
  cases s.regions[i]? <;> rfl

theorem State.loadMap_table (s : State) : s.loadMap.regions = regionIndices.map (fun i =>
    ((s.startImage.regions[i]?).join).map (fun d => ⟨d, freshLease⟩)) ∧ s.loadMap.commitImage = s.commitImage ∧
      s.loadMap.queue = s.queue := by
  unfold State.loadMap
  generalize s.startImage = m
  exact ⟨rfl, rfl, rfl⟩

/-- Every step of start-up but the map load leaves the table. -/
theorem State.startUpStep_table {k : StartUpStep} (s : State) (mv : Nat) (hk : k ≠ .mapLoad) :
    (s.startUpStep mv k).table = s.table := by
  cases k with
  | mapLoad => exact absurd rfl hk
  | slotChoice => rfl
  | enables => rfl
  | assessment => rfl
  | ready => rfl

theorem State.LeaseLaws.startUpStep (hs : s.LeaseLaws) (hq : s.queue = []) (mv : Nat) (k : StartUpStep) :
    (s.startUpStep mv k).LeaseLaws := by
  by_cases hk : k = .mapLoad
  · subst hk
    have hnone : s.commitImage = none := by
      have himage := hs.image
      cases hc : s.commitImage with
      | none => rfl
      | some m =>
        rw [hc] at himage
        obtain ⟨k, hk, -⟩ := himage.1 rfl
        simp [State.jobs, hq] at hk
    obtain ⟨htable, hcommit, hqueue⟩ := s.loadMap_table
    have hload : ({ s.loadMap with startUpSteps := 2 } : State).LeaseLaws := by
      generalize s.loadMap = u at htable hcommit hqueue
      refine State.LeaseLaws.empty (hqueue.trans hq) (hcommit.trans hnone) fun i r hr => ?_
      have hregion : u.region i = some r := hr
      rw [State.region_of_map htable] at hregion
      split at hregion
      · next hi =>
        obtain ⟨d, -, rfl⟩ := Option.map_eq_some_iff.1 hregion
        exact ⟨hi, rfl⟩
      · cases hregion
    exact hload
  · exact hs.of_table (s.startUpStep_table mv hk)

/-! ### Every move -/

theorem Move.keeps_leases (h : Move a s t) (hstart : s.startingLaw = true) (hs : s.LeaseLaws) : t.LeaseLaws := by
  cases h with
  | taken l is ha => exact hs.of_table rfl
  | unread pages n => exact hs.of_table rfl
  | own ha h => exact hs.of_table rfl
  | post p k => exact hs.of_table rfl
  | signal v ha hd he => exact hs.of_table rfl
  | look => exact hs.look
  | clearInterrupted => exact hs.of_table rfl
  | fill st b ha hf => exact hs.of_table (Eq.trans (by rfl) (s.released_table _))
  | hold st ha hf hc => exact hs.of_table (Eq.trans (by rfl) (s.released_table _))
  | close ha hf => exact hs.of_table (Eq.trans (by rfl) (s.released_table _))
  | request h => exact hs.of_table (s.requestSuspend_table _)
  | load b offset data => exact hs.of_table rfl
  | allocate offset data ha hle hnone hfree hown => exact hs.of_table rfl
  | discard ha hle hb => exact hs.of_table rfl
  | program ha hd hok => exact hs.acceptProgram hok
  | sectorErase hd hok => exact hs.acceptErase (kind := .sectorErase) nofun hok
  | blockErase hd hok => exact hs.acceptErase (kind := .blockErase) nofun hok
  | commit hd hok => exact hs.acceptCommit hok
  | cancel ha hi he hp => exact hs.cancelEntry hi he
  | lose ha hr hh => exact hs.loseEntries _ _
  | resetQueue p => exact hs.resetQueue p
  | resetHandles ha => exact hs.of_table (s.resetHandles_table _)
  | take hr hm hfree => exact hs.take hr hm hfree
  | wait hr hm hstate hh hw => exact hs.wait hr hm hstate hh hw
  | renew hr hh => exact hs.remaining hr (hs.held hr hh) (le_refl _) (by omega)
  | leave p i => exact hs.leave p i
  | endLease hr hh hq => exact hs.endLease hr hh hq
  | @tick i r hr hheld hn =>
    obtain ⟨p, -, -, -, -, hle, -⟩ := (Region.leaseLaw_held hheld).1 (hs.leased.lawful i r hr).1
    exact hs.remaining hr hheld (by omega) (.inr (by omega))
  | stage h => exact hs.of_table rfl
  | @endEntry i e outcome ha hstop hi he =>
    obtain ⟨-, x, hx, hactive, -⟩ := State.activeIndex_some hi
    obtain rfl : e = x := Option.some.inj (he.symm.trans hx)
    exact hs.endEntry outcome he hactive
  | park hstop heng hi => exact hs.of_table (State.parkErase_table hi)
  | windowStep hw h1 => exact hs.of_table rfl
  | windowClose => exact hs.of_table rfl
  | supply h hx => exact hs.of_table rfl
  | power ha h =>
    refine State.LeaseLaws.empty rfl rfl fun i r hr => ?_
    rw [State.powerOnValues_regions] at hr
    cases hr
  | fallUnpowered h => exact hs.of_table rfl
  | fall ha hlow h hi =>
    refine State.LeaseLaws.empty rfl rfl fun i r hr => ?_
    rw [State.atReset_region] at hr
    obtain ⟨r', hr', rfl⟩ := Option.map_eq_some_iff.1 hr
    exact ⟨hs.leased.small i r' hr', rfl⟩
  | riseUnpowered h => exact hs.of_table rfl
  | rise ha hlow h => exact hs.of_table rfl
  | arrayStops => exact hs.of_table s.arrayStops_table
  | startUp mv ha hd hlow hsup hstop hk =>
    exact hs.startUpStep ((State.startingLaw_iff.1 hstart).1 hd).1 mv _

/-- Settles O56: leases, jobs and the commit image change together, move by move. -/
theorem stepsKeepTheLeaseLaws : Obligations.StepsKeepTheLeaseLaws := by
  have laws : ∀ u : State, (u.leaseLaw && u.drainLaw && u.queuedLaw && u.frozenLaw && u.commitLaw && u.commitRegionLaw &&
      u.startingLaw && u.sizeLaw) = true ↔ (u.LeaseLaws ∧ u.startingLaw = true) ∧ u.sizeLaw = true := by
    intro u
    rw [Bool.and_eq_true, Bool.and_eq_true]
    refine and_congr_left fun hsize => and_congr_left fun _ => ?_
    rw [State.leaseLaws_iff (State.sizeLaw_iff.1 hsize).1.regions]
    simp only [Bool.and_eq_true, and_assoc]
  intro s t hs h
  rw [laws] at hs ⊢
  refine step_keeps (P := fun u => (u.LeaseLaws ∧ u.startingLaw = true) ∧ u.sizeLaw = true)
    (fun a u v hm ⟨⟨hl, hstart⟩, hsize⟩ => ?_) h hs
  exact ⟨⟨hm.keeps_leases hstart hl, hm.keeps_startingLaw hstart⟩, hm.keeps_sizeLaw hsize⟩

end Sys2Proof.Machine
end

section
/-! The defined regions share no block, and every image that can be loaded or applied is valid (R75, R155, R160, R165):
what a move does to the table and to the commit image, in every state in which only HELD regions have a holder. -/

namespace Sys2Proof.Machine

variable {a : Actor} {p : Port} {s t : State}

/-! ### Valid definitions -/

theorem definitionsValid_iff {ds : List RegionDef} : definitionsValid ds = true ↔
    (∀ d ∈ ds, d.first.toNat ≤ d.last.toNat) ∧ ds.Pairwise (fun d e => d.overlaps e = false) := by
  induction ds with
  | nil => simp [definitionsValid]
  | cons d ds ih =>
    simp only [definitionsValid, Bool.and_eq_true, decide_eq_true_eq, List.all_eq_true, Bool.not_eq_true', ih,
      List.forall_mem_cons, List.pairwise_cons]
    tauto

theorem definitionsValid_sublist {ds es : List RegionDef} (h : ds.Sublist es) (he : definitionsValid es = true) :
    definitionsValid ds = true := by
  rw [definitionsValid_iff] at he ⊢
  exact ⟨fun d hd => he.1 d (h.subset hd), he.2.sublist h⟩

/-- R75: the law of the table is that of its definitions. -/
theorem disjointRegions_eq (rs : List (Option Region)) :
    disjointRegions rs = definitionsValid ((rs.map (Option.map (fun r => r.definition))).filterMap id) := by
  induction rs with
  | nil => rfl
  | cons slot rs ih =>
    cases slot with
    | none => simpa [disjointRegions] using ih
    | some r =>
      rw [disjointRegions, ih]
      refine congrArg₂ and (congrArg₂ and rfl ?_) rfl
      clear ih
      induction rs with
      | nil => rfl
      | cons slot rs ih =>
        rw [List.all_cons, ih, List.map_cons]
        cases slot with
        | none => rfl
        | some q =>
          rw [Option.map_some, List.filterMap_cons]
          refine congrArg₂ and ?_ rfl
          rw [Bool.eq_iff_iff]
          simp [RegionDef.overlaps]
          omega

theorem State.regionLaw_iff : s.regionLaw = true ↔ definitionsValid (s.definitions.filterMap id) = true := by
  unfold State.regionLaw State.definitions
  rw [disjointRegions_eq]

/-- The first definitions of a list, index by index. -/
theorem filterMap_range_join {α : Type} (l : List (Option α)) (n : Nat) :
    ((List.range n).map (fun i => (l[i]?).join)).filterMap id = (l.take n).filterMap id := by
  induction n with
  | zero => rfl
  | succ n ih =>
    rw [List.range_succ, List.map_append, List.filterMap_append, ih, List.take_add_one, List.filterMap_append]
    congr 1
    rw [List.map_singleton]
    cases l[n]? with
    | none => rfl
    | some x => cases x <;> rfl

/-- A table whose definitions are those of a valid image. -/
theorem State.regionLaw_of_image {m : MapImage} (hm : m.valid = true)
    (h : s.definitions = regionIndices.map (fun i => (m.regions[i]?).join)) : s.regionLaw = true := by
  rw [State.regionLaw_iff, h]
  unfold regionIndices
  rw [filterMap_range_join]
  exact definitionsValid_sublist ((List.take_sublist _ _).filterMap _) hm

theorem factoryMap_valid : factoryMap.valid = true := by decide

/-! ### The commit image and the table -/

/-- Only a HELD region has a holder (R78). -/
def Region.Tidy (r : Region) : Prop := r.lease.holder ≠ none → r.lease.state = .held

/-- R94, R160: the commit image is valid and keeps every region that is not FROZEN. -/
def State.Fits (s : State) (m : MapImage) : Prop :=
  m.valid = true ∧ ∀ j r, j < 16 → s.region j = some r →
    r.lease.state = .frozen ∨ (m.regions[j]?).join = some r.definition

structure State.CommitLaws (s : State) : Prop where
  tidy : ∀ j r, s.region j = some r → r.Tidy
  starting : s.device = .starting → s.commitImage = none
  fits : ∀ m, s.commitImage = some m → s.Fits m

/-- No region is new or newly defined; while a commit image is kept, FROZEN regions stay FROZEN. -/
structure State.Relet (s t : State) : Prop where
  image : t.commitImage = none ∨ t.commitImage = s.commitImage ∧ t.device = s.device
  back : ∀ j r', t.region j = some r' → ∃ r, s.region j = some r ∧ r'.definition = r.definition ∧
    (r.Tidy → r'.Tidy ∧ (t.commitImage ≠ none → r.lease.state = .frozen → r'.lease.state = .frozen))

theorem State.CommitLaws.relet (hs : s.CommitLaws) (h : s.Relet t) : t.CommitLaws := by
  obtain ⟨htidy, hstarting, hfits⟩ := hs
  refine ⟨fun j r' hr' => ?_, fun hd => ?_, fun m hm => ?_⟩
  · obtain ⟨r, hr, -, hkeep⟩ := h.back j r' hr'
    exact (hkeep (htidy j r hr)).1
  · rcases h.image with hc | ⟨hc, hdevice⟩
    · exact hc
    · rw [hc, hstarting (hdevice ▸ hd)]
  · rcases h.image with hc | ⟨hc, -⟩
    · rw [hc] at hm
      cases hm
    · have hne : t.commitImage ≠ none := by rw [hm]; exact nofun
      obtain ⟨hvalid, hold⟩ := hfits m (hc ▸ hm)
      refine ⟨hvalid, fun j r' hj hr' => ?_⟩
      obtain ⟨r, hr, hdef, hkeep⟩ := h.back j r' hr'
      rcases hold j r hj hr with hf | hm
      · exact .inl ((hkeep (htidy j r hr)).2 hne hf)
      · exact .inr (hdef ▸ hm)

theorem State.Relet.of_eq (hr : t.regions = s.regions) (hc : t.commitImage = s.commitImage) (hd : t.device = s.device) :
    s.Relet t :=
  ⟨.inr ⟨hc, hd⟩, fun j r' hr' => ⟨r', by rw [← hr', State.region_of_regions hr], rfl, fun h => ⟨h, fun _ hf => hf⟩⟩⟩

theorem State.CommitLaws.of_eq (hs : s.CommitLaws) (hr : t.regions = s.regions) (hc : t.commitImage = s.commitImage)
    (hd : t.device = s.device) : t.CommitLaws :=
  hs.relet (.of_eq hr hc hd)

/-- Each region keeps its definition; its lease becomes another. -/
theorem State.Relet.of_map {g : Nat → Region → Region} (hc : t.commitImage = none ∨ t.commitImage = s.commitImage ∧
      t.device = s.device) (hR : ∀ j, t.region j = (s.region j).map (g j))
    (hg : ∀ j r, s.region j = some r → (g j r).definition = r.definition ∧ (r.Tidy → (g j r).Tidy ∧
      (t.commitImage ≠ none → r.lease.state = .frozen → (g j r).lease.state = .frozen))) : s.Relet t := by
  refine ⟨hc, fun j r' hr' => ?_⟩
  rw [hR] at hr'
  obtain ⟨r, hr, rfl⟩ := Option.map_eq_some_iff.1 hr'
  exact ⟨r, hr, hg j r hr⟩

/-- One lease changes. -/
theorem State.Relet.of_lease {i : Nat} {g : Region → Lease} (hc : t.commitImage = s.commitImage)
    (hd : t.device = s.device)
    (hR : ∀ j, t.region j = (s.region j).map (fun r => if j = i then { r with lease := g r } else r))
    (htidy : ∀ r, s.region i = some r → r.Tidy → (g r).holder ≠ none → (g r).state = .held)
    (hfrozen : ∀ r, s.region i = some r → r.Tidy → r.lease.state = .frozen → (g r).state = .frozen) : s.Relet t := by
  refine State.Relet.of_map (.inr ⟨hc, hd⟩) hR fun j r hr => ?_
  by_cases hj : j = i
  · subst hj
    rw [if_pos rfl]
    exact ⟨rfl, fun h => ⟨htidy r hr h, fun _ => hfrozen r hr h⟩⟩
  · rw [if_neg hj]
    exact ⟨rfl, fun h => ⟨h, fun _ hf => hf⟩⟩

theorem OnlyLeases.device (h : OnlyLeases s t) : t.device = s.device := by rw [h.eq]

/-! ### Grants -/

theorem Region.tidy_granted (r : Region) {l : Lease} (hh : l.holder = none) : Region.Tidy { r with lease := r.granted l } := by
  unfold Region.granted
  split
  · exact fun h => absurd hh h
  · exact fun _ => rfl

theorem Region.tidy_leaseEnded (r : Region) : Region.Tidy { r with lease := r.leaseEnded } := by
  unfold Region.leaseEnded
  split
  · exact fun h => absurd rfl h
  · exact r.tidy_granted rfl

theorem Region.holder_of_tidy {r : Region} (h : r.Tidy) (hs : r.lease.state ≠ .held) : r.lease.holder = none := by
  by_contra hh
  exact hs (h hh)

theorem Region.tidy_entryEnded {r : Region} (h : r.Tidy) : Region.Tidy { r with lease := r.entryEnded } := by
  unfold Region.entryEnded
  split
  · next hd => exact r.tidy_granted (Region.holder_of_tidy h (by rw [hd.1]; exact nofun))
  · exact h

theorem State.Relet.unfreezeAll {u : State} (hu : u.region = s.region) (hR : ∀ j, t.region j = u.unfreezeAll.region j)
    (hc : t.commitImage = none) : s.Relet t := by
  refine State.Relet.of_map (.inl hc) (fun j => by rw [hR, State.region_unfreezeAll, hu]) fun j r _ => ?_
  split
  · next hf =>
    exact ⟨rfl, fun h => ⟨r.tidy_granted (Region.holder_of_tidy h (by rw [hf.2]; exact nofun)), fun h => absurd hc h⟩⟩
  · exact ⟨rfl, fun h => ⟨h, fun _ hf => hf⟩⟩

/-! ### The moves -/

theorem State.Relet.look (s : State) : s.Relet s.look := by
  have started : ∀ i, s.Relet (s.startEntry i) := by
    intro i
    cases hi : s.queue[i]? with
    | none =>
      rw [State.startEntry, hi]
      exact .of_eq rfl rfl rfl
    | some e =>
      refine .of_map (.inr ?_) (State.region_startEntry hi) fun j r _ => ?_
      · rw [State.startEntry_eq hi]
        exact ⟨rfl, rfl⟩
      · split <;> exact ⟨rfl, fun h => ⟨h, fun _ hf => hf⟩⟩
  rcases s.look_cases with h | ⟨-, i, -, h⟩ | ⟨-, i, -, h⟩ | ⟨-, -, h⟩ | ⟨-, -, -, h⟩ <;> rw [h]
  · exact .of_eq rfl rfl rfl
  · exact started i
  · exact started i
  · unfold State.orderSuspend
    split <;> exact .of_eq rfl rfl rfl
  · unfold State.resumeErase
    split <;> exact .of_eq rfl rfl rfl

theorem State.Relet.cancelEntry (s : State) (i : Nat) (e : Entry) : s.Relet (s.cancelEntry i e) := by
  have heq : ∃ b ps, (({ s with queue := s.queue.eraseIdx i } : State).freeEntryBuffer e).postRecord e .cancelled =
      { s with queue := s.queue.eraseIdx i, buffers := b, ports := ps } := by
    rw [State.freeEntryBuffer_eq]
    exact ⟨_, _, rfl⟩
  obtain ⟨b, ps, heq⟩ := heq
  unfold State.cancelEntry
  dsimp only
  rw [heq]
  split
  · refine .unfreezeAll (u := { s with queue := s.queue.eraseIdx i, buffers := b, ports := ps, commitImage := none })
      rfl (fun _ => rfl) ?_
    rw [(State.dropCommit_leases _).eq]
  · exact .of_eq rfl rfl rfl

theorem State.Relet.resetQueue (s : State) (p : Port) : s.Relet (s.resetQueue p) := by
  have heq := s.resetQueue_eq p
  have hfreed := s.resetFreed_eq p
  split at heq
  · refine .unfreezeAll (u := { s.resetFreed p with commitImage := none }) ?_ (fun j => ?_) ?_
    · rw [hfreed]
      rfl
    · rw [heq]
      rfl
    · rw [heq, (State.dropCommit_leases _).eq]
  · rw [heq, hfreed]
    exact .of_eq rfl rfl rfl

theorem State.Relet.endEntry {i : Nat} {e : Entry} (outcome : EndOutcome)
    (h : e.kind ≠ .mapCommit ∨ outcome = .failed ∨ s.commitImage = none) : s.Relet (s.endEntry i e outcome) := by
  obtain ⟨hdevice, -⟩ := s.endEntry_device i e outcome
  obtain ⟨hregions, himage⟩ := s.endEntry_regions i e outcome
  have harray := s.endedArray_eq i e outcome
  generalize s.endedArray i e outcome = u at hregions himage harray
  have hur : u.region = s.region := State.region_of_regions (by rw [harray])
  have huc : u.commitImage = s.commitImage := by rw [harray]
  unfold State.endInNeighbours at hregions himage
  by_cases hk : e.kind = .mapCommit
  · rw [if_pos hk] at hregions himage
    cases outcome with
    | failed =>
      obtain ⟨htable, hgone⟩ := u.commitFailed_table
      exact .unfreezeAll hur (fun j => congrFun (State.region_of_regions (hregions.trans htable)) j)
        (himage.trans hgone)
    | done =>
      have hnone : s.commitImage = none := by
        rcases h with h | h | h
        · exact absurd hk h
        · cases h
        · exact h
      dsimp only at hregions himage
      rw [State.commitDone_none (huc.trans hnone)] at hregions himage
      exact .of_eq (hregions.trans (by rw [harray])) (himage.trans huc) hdevice
  · rw [if_neg hk] at hregions himage
    cases hr : e.region with
    | none =>
      rw [hr] at hregions himage
      exact .of_eq (hregions.trans (by rw [harray])) (himage.trans huc) hdevice
    | some k =>
      rw [hr] at hregions himage
      refine .of_lease (i := k) (himage.trans ?_) hdevice (fun j => ?_) (fun r _ h => Region.tidy_entryEnded h)
        fun r _ _ hf => ?_
      · show (u.drainDown k).commitImage = _
        rw [(OnlyLeases.drainDown u k).eq, huc]
      · rw [congrFun (State.region_of_regions hregions) j]
        show (u.drainDown k).region j = _
        rw [State.region_drainDown, hur]
      · rw [Region.entryEnded_of_ne (by rw [hf]; exact nofun)]
        exact hf

theorem State.Relet.startUpStep {k : StartUpStep} (mv : Nat) (hk : k ≠ .mapLoad) (hc : s.commitImage = none) :
    s.Relet (s.startUpStep mv k) := by
  have htable := s.startUpStep_table mv hk
  obtain ⟨hr, -, himage⟩ := Prod.mk.inj htable |>.imp_right Prod.mk.inj
  generalize s.startUpStep mv k = u at hr himage
  exact ⟨.inl (himage.trans hc), fun j r' hr' =>
    ⟨r', by rw [← hr', State.region_of_regions hr], rfl, fun h => ⟨h, fun _ hf => hf⟩⟩⟩

end Sys2Proof.Machine
end

section
/-! Every step keeps the defined regions disjoint and every loadable image valid. -/

namespace Sys2Proof.Machine

variable {a : Actor} {p : Port} {s t : State}

/-! ### The commit image and the table, over every move -/

theorem State.CommitLaws.acceptCommit (hs : s.CommitLaws) {tag : Byte} (hd : s.device = .ready)
    (hok : firstFailing (s.commitChecks p tag) = none) : (s.acceptCommit p tag).CommitLaws := by
  obtain ⟨m, hm, -, hvalid, hfree, -⟩ := State.commitChecks_pass hok
  have hfrozen := s.frozen_leases m
  have himage : (s.frozen m).commitImage = some m := by rw [hfrozen.eq]
  have hdevice : (s.frozen m).device = .ready := hfrozen.device.trans hd
  have hregion := s.region_frozen m
  rw [State.acceptCommit_some hm]
  generalize s.frozen m = u at himage hdevice hregion
  generalize (s.port p).profile.ceiling = c
  have back : ∀ j r', u.region j = some r' → ∃ r, s.region j = some r ∧ (j < 16 →
      (m.changes j r = true ∧ r' = { r with lease := { r.lease with state := .frozen } } ∨
        m.changes j r = false ∧ r' = r)) ∧ (¬j < 16 → r' = r) := by
    intro j r' hr'
    rw [hregion] at hr'
    obtain ⟨r, hr, rfl⟩ := Option.map_eq_some_iff.1 hr'
    refine ⟨r, hr, fun hj => ?_, fun hj => if_neg hj⟩
    rw [if_pos hj]
    cases hch : m.changes j r with
    | true => exact .inl ⟨rfl, rfl⟩
    | false => exact .inr ⟨rfl, rfl⟩
  have laws : u.CommitLaws := by
    refine ⟨fun j r' hr' => ?_, fun h => ?_, fun m' hm' => ?_⟩
    · obtain ⟨r, hr, hin, hout⟩ := back j r' hr'
      by_cases hj : j < 16
      · rcases hin hj with ⟨hch, rfl⟩ | ⟨-, rfl⟩
        · have hr0 := State.changedNotFree_false hfree hj hr hch
          exact fun h => absurd (Region.holder_of_tidy (hs.tidy j r hr) (by rw [hr0]; exact nofun)) h
        · exact hs.tidy j _ hr
      · rw [hout hj]
        exact hs.tidy j r hr
    · rw [hdevice] at h
      cases h
    · obtain rfl : m = m' := Option.some.inj (himage.symm.trans hm')
      refine ⟨hvalid, fun j r' hj hr' => ?_⟩
      obtain ⟨r, -, hin, -⟩ := back j r' hr'
      rcases hin hj with ⟨-, rfl⟩ | ⟨hch, rfl⟩
      · exact .inl rfl
      · exact .inr (by simpa [MapImage.changes] using hch)
  exact laws.of_eq rfl rfl rfl

theorem State.CommitLaws.commitDone (hs : s.CommitLaws) {i : Nat} {e : Entry} (hk : e.kind = .mapCommit) {m : MapImage}
    (hm : s.commitImage = some m) : (s.endEntry i e .done).CommitLaws := by
  obtain ⟨hregions, himage⟩ := s.endEntry_regions i e .done
  have harray := s.endedArray_eq i e .done
  generalize s.endedArray i e .done = u at hregions himage harray
  have hur : u.region = s.region := State.region_of_regions (by rw [harray])
  have huc : u.commitImage = s.commitImage := by rw [harray]
  unfold State.endInNeighbours at hregions himage
  rw [if_pos hk] at hregions himage
  obtain ⟨htable, hgone⟩ := State.commitDone_table (huc.trans hm)
  have hnone : (s.endEntry i e .done).commitImage = none := himage.trans hgone
  refine ⟨fun j r' hr' => ?_, fun _ => hnone, fun m' hm' => by rw [hnone] at hm'; cases hm'⟩
  rw [State.region_of_map (hregions.trans htable), hur] at hr'
  split at hr'
  · unfold applyDefinition at hr'
    split at hr'
    · next hr =>
      split at hr'
      · obtain ⟨d, -, rfl⟩ := Option.map_eq_some_iff.1 hr'
        exact fun h => absurd rfl h
      · cases hr'
        exact hs.tidy j _ hr
    · obtain ⟨d, -, rfl⟩ := Option.map_eq_some_iff.1 hr'
      exact fun h => absurd rfl h
  · cases hr'

theorem State.CommitLaws.startUpStep (hs : s.CommitLaws) (hd : s.device = .starting) (mv : Nat) (k : StartUpStep) :
    (s.startUpStep mv k).CommitLaws := by
  have hnone := hs.starting hd
  by_cases hk : k = .mapLoad
  · subst hk
    obtain ⟨htable, hcommit, -⟩ := s.loadMap_table
    have hload : ({ s.loadMap with startUpSteps := 2 } : State).CommitLaws := by
      generalize s.loadMap = u at htable hcommit
      have hgone : u.commitImage = none := hcommit.trans hnone
      refine ⟨fun j r hr => ?_, fun _ => hgone, fun m hm => ?_⟩
      · have hregion : u.region j = some r := hr
        rw [State.region_of_map htable] at hregion
        split at hregion
        · obtain ⟨d, -, rfl⟩ := Option.map_eq_some_iff.1 hregion
          exact fun h => absurd rfl h
        · cases hregion
      · have himage : u.commitImage = some m := hm
        rw [hgone] at himage
        cases himage
    exact hload
  · exact hs.relet (.startUpStep mv hk hnone)

theorem State.CommitLaws.lease {i : Nat} {f : Lease → Lease} (hs : s.CommitLaws)
    (htidy : ∀ r, s.region i = some r → r.Tidy → (f r.lease).holder ≠ none → (f r.lease).state = .held)
    (hfrozen : ∀ r, s.region i = some r → r.lease.state = .frozen → (f r.lease).state = .frozen) :
    (s.modifyLease i f).CommitLaws :=
  hs.relet (.of_lease rfl rfl (s.region_modifyLease_map i · f) htidy fun r hr _ => hfrozen r hr)

theorem Move.keeps_commitLaws (h : Move a s t) (hs : s.CommitLaws) : t.CommitLaws := by
  cases h with
  | taken l is ha => exact hs.of_eq rfl rfl rfl
  | unread pages n => exact hs.of_eq rfl rfl rfl
  | own ha h => exact hs.of_eq rfl rfl rfl
  | post p k => exact hs.of_eq rfl rfl rfl
  | signal v ha hd he => exact hs.of_eq rfl rfl rfl
  | look => exact hs.relet (.look s)
  | clearInterrupted => exact hs.of_eq rfl rfl rfl
  | fill st b ha hf =>
    rw [State.released_eq]
    exact hs.of_eq rfl rfl rfl
  | hold st ha hf hc =>
    rw [State.released_eq]
    exact hs.of_eq rfl rfl rfl
  | close ha hf =>
    rw [State.released_eq]
    exact hs.of_eq rfl rfl rfl
  | request h =>
    rw [State.requestSuspend_eq]
    exact hs.of_eq rfl rfl rfl
  | load b offset data => exact hs.of_eq rfl rfl rfl
  | allocate offset data ha hle hnone hfree hown => exact hs.of_eq rfl rfl rfl
  | discard ha hle hb => exact hs.of_eq rfl rfl rfl
  | program ha hd hok =>
    unfold State.acceptProgram
    dsimp only
    split <;> exact hs.of_eq rfl rfl rfl
  | sectorErase hd hok => exact hs.of_eq rfl rfl rfl
  | blockErase hd hok => exact hs.of_eq rfl rfl rfl
  | commit hd hok => exact hs.acceptCommit hd hok
  | cancel ha hi he hp => exact hs.relet (.cancelEntry s _ _)
  | lose ha hr hh =>
    rw [State.loseEntries_eq]
    exact hs.of_eq rfl rfl rfl
  | resetQueue p => exact hs.relet (.resetQueue s p)
  | resetHandles ha =>
    rw [State.resetHandles_eq]
    exact hs.of_eq rfl rfl rfl
  | @take p i r hr hm hfree =>
    refine hs.lease (fun _ _ _ _ => rfl) fun r' hr' hf => ?_
    obtain rfl : r = r' := Option.some.inj (hr.symm.trans hr')
    rw [hfree] at hf
    cases hf
  | wait hr hm hstate hh hw => exact hs.lease (fun _ _ h => h) fun _ _ hf => hf
  | renew hr hh => exact hs.lease (fun _ _ h => h) fun _ _ hf => hf
  | leave p i => exact hs.lease (fun _ _ h => h) fun _ _ hf => hf
  | @endLease p i r hr hh hq =>
    have hl := OnlyLeases.endLease s i
    refine hs.relet (.of_lease hl.commitImage hl.device (s.region_endLease i)
      (fun r' _ _ => r'.tidy_leaseEnded) fun r' hr' htidy hf => ?_)
    obtain rfl : r = r' := Option.some.inj (hr.symm.trans hr')
    rw [htidy (by rw [hh]; exact nofun)] at hf
    cases hf
  | tick hr hheld hn => exact hs.lease (fun _ _ h => h) fun _ _ hf => hf
  | stage h => exact hs.of_eq rfl rfl rfl
  | @endEntry i e outcome ha hstop hi he =>
    by_cases h : e.kind ≠ .mapCommit ∨ outcome = .failed ∨ s.commitImage = none
    · exact hs.relet (.endEntry outcome h)
    · obtain ⟨hk, hdone, hsome⟩ : e.kind = .mapCommit ∧ outcome ≠ .failed ∧ s.commitImage ≠ none := by
        simpa only [not_or, not_not, ne_eq] using h
      obtain ⟨m, hm⟩ := Option.ne_none_iff_exists'.1 hsome
      cases outcome with
      | failed => exact absurd rfl hdone
      | done => exact hs.commitDone hk hm
  | park hstop heng hi => exact hs.of_eq rfl rfl rfl
  | windowStep hw h1 => exact hs.of_eq rfl rfl rfl
  | windowClose => exact hs.of_eq rfl rfl rfl
  | supply h hx => exact hs.of_eq rfl rfl rfl
  | power ha h =>
    refine hs.relet ⟨.inl rfl, fun j r hr => ?_⟩
    rw [State.powerOnValues_regions] at hr
    cases hr
  | fallUnpowered h => exact hs.of_eq rfl rfl rfl
  | fall ha hlow h hi =>
    exact hs.relet (.of_map (.inl rfl) (s.atReset_region _) fun j r _ =>
      ⟨rfl, fun _ => ⟨fun h => absurd rfl h, fun h => absurd rfl h⟩⟩)
  | riseUnpowered h => exact hs.of_eq rfl rfl rfl
  | rise ha hlow h => exact hs.of_eq rfl rfl rfl
  | arrayStops =>
    unfold State.arrayStops
    split <;> exact hs.of_eq rfl rfl rfl
  | startUp mv ha hd hlow hsup hstop hk => exact hs.startUpStep hd mv _

/-! ### The slots -/

/-- R155: the image of a valid slot is valid. -/
def State.Loadable (s : State) : Prop := ∀ n, (s.slot n).mark = true → (s.slot n).image.valid = true

theorem State.Loadable.of_slots (hs : s.Loadable) (hx : t.slotX = s.slotX) (hy : t.slotY = s.slotY) : t.Loadable := by
  intro n
  rw [State.slot_of_eq hx hy]
  exact hs n

theorem Move.keeps_loadable (h : Move a s t) (hc : s.CommitLaws) (hs : s.Loadable) : t.Loadable := by
  have hmove := h.coreMove
  clear h
  cases hmove with
  | still h => exact hs.of_slots (congrArg Core.slotX h) (congrArg Core.slotY h)
  | look =>
    intro n
    rcases s.look_slot n with h | ⟨-, h⟩ <;> rw [h]
    · exact hs n
    · exact nofun
  | @endEntry i e outcome ha hstop hi he =>
    rcases s.endEntry_core i e outcome with h | ⟨-, -, m, hm, h⟩
    · exact hs.of_slots (congrArg Core.slotX h) (congrArg Core.slotY h)
    · intro n
      rw [State.slot_of_eq (congrArg Core.slotX h) (congrArg Core.slotY h), State.slot_setSlot]
      split
      · exact fun _ => (hc.fits m hm).1
      · exact hs n
  | supply h hx => exact hs.of_slots rfl rfl
  | power ha h => exact hs.of_slots rfl rfl
  | fallUnpowered h => exact hs.of_slots rfl rfl
  | fall ha hlow h hi => exact hs.of_slots rfl rfl
  | riseUnpowered h => exact hs.of_slots rfl rfl
  | rise ha hlow h => exact hs.of_slots rfl rfl
  | arrayStops => exact hs.of_slots s.arrayStops_slotX s.arrayStops_slotY
  | startUp mv ha hd hlow hsup hstop hk =>
    intro n
    rw [State.startUpStep_slot]
    exact hs n

/-! ### The table -/

/-- Every definition that the commit image puts in force is its own (R94, R95). -/
theorem State.Fits.applied {m : MapImage} (h : s.Fits m) {j : Nat} (hj : j < 16) :
    (applyDefinition (s.region j) (m.regions[j]?).join).map (fun r => r.definition) = (m.regions[j]?).join := by
  have fresh : ∀ o : Option RegionDef,
      ((o.map (fun x => (⟨x, freshLease⟩ : Region))).map (fun r => r.definition)) = o := by
    intro o
    cases o <;> rfl
  unfold applyDefinition
  cases hr : s.region j with
  | none => exact fresh _
  | some r =>
    dsimp only
    split
    · exact fresh _
    · next hf =>
      rcases h.2 j r hj hr with hfrozen | hkept
      · exact absurd hfrozen hf
      · rw [hkept]
        rfl

theorem State.startImage_valid (hl : s.Loadable) (hslot : s.slotLaw = true) (hd : s.device = .starting)
    (hsteps : s.startUpSteps ≠ 0) : s.startImage.valid = true := by
  obtain ⟨hchosen, -⟩ := (State.slotLaw_iff.1 hslot).2 hd
  obtain ⟨⟨hmark, -⟩, -⟩ := hchosen hsteps
  unfold State.startImage
  cases hcur : s.currentSlot with
  | none => exact factoryMap_valid
  | some n => exact hl n (hmark n hcur).1

theorem State.loadMap_definitions (s : State) :
    s.loadMap.definitions = regionIndices.map (fun i => (s.startImage.regions[i]?).join) := by
  obtain ⟨htable, -⟩ := s.loadMap_table
  unfold State.definitions
  rw [htable, List.map_map]
  refine List.map_congr_left fun i _ => ?_
  show (((s.startImage.regions[i]?).join).map _).map _ = _
  cases (s.startImage.regions[i]?).join <;> rfl

theorem State.regionLaw_of_definitions (h : t.definitions = s.definitions) (hs : s.regionLaw = true) :
    t.regionLaw = true := by
  rw [State.regionLaw_iff] at hs ⊢
  rw [h]
  exact hs

theorem State.startUpStep_regionLaw {k : StartUpStep} (mv : Nat) (hl : s.Loadable) (hslot : s.slotLaw = true)
    (hd : s.device = .starting) (hk : s.startUpSteps = startUpPlace k) (hs : s.regionLaw = true) :
    (s.startUpStep mv k).regionLaw = true := by
  by_cases hload : k = .mapLoad
  · subst hload
    have hdefs := s.loadMap_definitions
    have hvalid := State.startImage_valid hl hslot hd (by rw [hk]; decide)
    have hlaw : ({ s.loadMap with startUpSteps := 2 } : State).regionLaw = true := by
      generalize s.loadMap = u at hdefs
      exact State.regionLaw_of_image hvalid hdefs
    exact hlaw
  · obtain ⟨hr, -⟩ := Prod.mk.inj (s.startUpStep_table mv hload)
    exact State.regionLaw_of_definitions (by rw [State.definitions, State.definitions, hr]) hs

theorem Move.keeps_regionLaw (h : Move a s t) (hc : s.CommitLaws) (hl : s.Loadable) (hslot : s.slotLaw = true)
    (hs : s.regionLaw = true) : t.regionLaw = true := by
  have hmove := h.coreMove
  clear h
  cases hmove with
  | still h => exact State.regionLaw_of_definitions (congrArg Core.definitions h) hs
  | look => exact State.regionLaw_of_definitions (congrArg Core.definitions s.look_core) hs
  | @endEntry i e outcome ha hstop hi he =>
    rcases s.endEntry_core i e outcome with h | ⟨-, -, m, hm, h⟩
    · exact State.regionLaw_of_definitions (congrArg Core.definitions h) hs
    · have hfits := hc.fits m hm
      refine State.regionLaw_of_image hfits.1 ((congrArg Core.definitions h).trans (List.map_congr_left fun j hj => ?_))
      exact hfits.applied (List.mem_range.1 hj)
  | supply h hx => exact hs
  | power ha h => rfl
  | fallUnpowered h => exact hs
  | fall ha hlow h hi =>
    refine State.regionLaw_of_definitions ?_ hs
    show ((s.regions.map _).map _) = s.regions.map _
    rw [List.map_map]
    refine List.map_congr_left fun slot _ => ?_
    cases slot <;> rfl
  | riseUnpowered h => exact hs
  | rise ha hlow h => exact hs
  | arrayStops =>
    unfold State.arrayStops
    split <;> exact hs
  | startUp mv ha hd hlow hsup hstop hk => exact State.startUpStep_regionLaw mv hl hslot hd hk hs

/-! ### The statement -/

theorem State.imageLaw_iff : s.imageLaw = true ↔ s.Loadable ∧ ∀ m, s.commitImage = some m → s.Fits m := by
  have agrees : ∀ m, s.commitAgrees m = true ↔ ∀ j r, j < 16 → s.region j = some r →
      r.lease.state = .frozen ∨ (m.regions[j]?).join = some r.definition := by
    intro m
    unfold State.commitAgrees regionIndices
    rw [List.all_eq_true]
    constructor
    · intro h j r hj hr
      simpa [hr] using h j (List.mem_range.2 hj)
    · intro h j hj
      cases hr : s.region j with
      | none => rfl
      | some r => simpa using h j r (List.mem_range.1 hj) hr
  have slots : s.Loadable ↔ ((!s.slotX.mark || s.slotX.image.valid) && (!s.slotY.mark || s.slotY.image.valid)) = true := by
    simp only [State.Loadable, Bool.and_eq_true, Bool.or_eq_true, Bool.not_eq_true', ← Bool.not_eq_true, ← imp_iff_not_or]
    exact ⟨fun h => ⟨h .x, h .y⟩, fun ⟨hx, hy⟩ n => by cases n <;> assumption⟩
  unfold State.imageLaw
  rw [Bool.and_eq_true, ← slots]
  refine and_congr_right fun _ => ?_
  cases s.commitImage with
  | none => simp
  | some m => simp [State.Fits, agrees]

/-- The laws of leases, commits and start-up give what the moves need of them. -/
theorem State.CommitLaws.of_laws (hfits : ∀ m, s.commitImage = some m → s.Fits m) (hlease : s.leaseLaw = true)
    (hcommit : s.commitLaw = true) (hstart : s.startingLaw = true) : s.CommitLaws := by
  refine ⟨fun j r hr hh => ?_, fun hd => ?_, hfits⟩
  · obtain ⟨q, hq⟩ := Option.ne_none_iff_exists'.1 hh
    exact Region.held_of_holder (State.leaseLaw_iff.1 hlease j r hr).1 hq
  · obtain ⟨hqueue, -⟩ := (State.startingLaw_iff.1 hstart).1 hd
    obtain ⟨-, himage⟩ := State.commitLaw_iff.1 hcommit
    cases hc : s.commitImage with
    | none => rfl
    | some m =>
      rw [hc] at himage
      obtain ⟨k, hk, -⟩ := himage.1 rfl
      simp [State.jobs, hqueue] at hk

/-- Settles O57: the table is remade only from a valid image, and a commit image agrees with the table until then. -/
theorem stepsKeepTheRegionsDisjoint : Obligations.StepsKeepTheRegionsDisjoint := by
  intro s t hs h
  simp only [Bool.and_eq_true] at hs ⊢
  obtain ⟨⟨⟨⟨⟨hregion, himage⟩, hlease⟩, hcommit⟩, hstart⟩, hslot⟩ := hs
  obtain ⟨hl, hfits⟩ := State.imageLaw_iff.1 himage
  obtain ⟨⟨hregion', hl', hc'⟩, -⟩ :=
    step_keeps (P := fun u => (u.regionLaw = true ∧ u.Loadable ∧ u.CommitLaws) ∧ u.startingLaw = true ∧ u.slotLaw = true)
      (fun a u v hm ⟨⟨hr, hl, hc⟩, hst, hsl⟩ =>
        ⟨⟨hm.keeps_regionLaw hc hl hsl hr, hm.keeps_loadable hc hl, hm.keeps_commitLaws hc⟩,
          hm.keeps_startingLaw hst, hm.keeps_slotLaw hst hsl⟩) h
      ⟨⟨hregion, hl, .of_laws hfits hlease hcommit hstart⟩, hstart, hslot⟩
  exact ⟨hregion', State.imageLaw_iff.2 ⟨hl', hc'.fits⟩⟩

end Sys2Proof.Machine
end

section
/-! The array's stored bytes change only at the end of an operation; the working map only at start-up, at a commit's
end and with power (R2, R3, R54, R156, R158). -/

namespace Sys2Proof.Machine

variable {a : Actor} {p : Port} {s t u : State}

/-- The stored bytes and the working map are as they were. -/
structure State.MapKept (s t : State) : Prop where
  authority : t.authority = s.authority
  currentSlot : t.currentSlot = s.currentSlot
  generation : t.generation = s.generation
  definitions : t.definitions = s.definitions
  profiles : t.profiles = s.profiles

theorem State.MapKept.refl (s : State) : s.MapKept s := ⟨rfl, rfl, rfl, rfl, rfl⟩

theorem State.MapKept.trans (h : s.MapKept t) (k : t.MapKept u) : s.MapKept u :=
  ⟨k.authority.trans h.authority, k.currentSlot.trans h.currentSlot, k.generation.trans h.generation,
    k.definitions.trans h.definitions, k.profiles.trans h.profiles⟩

theorem State.MapKept.region (h : s.MapKept t) (i : Nat) :
    (t.region i).map (fun r => r.definition) = (s.region i).map (fun r => r.definition) := by
  rw [← State.definitions_getElem?, ← State.definitions_getElem?, h.definitions]

theorem State.MapKept.profile (h : s.MapKept t) (q : Port) : (t.port q).profile = (s.port q).profile := by
  rw [← State.profiles_get, ← State.profiles_get, h.profiles]

/-- Both the stored bytes and the map. -/
def State.Unmoved (s t : State) : Prop := t.mem = s.mem ∧ s.MapKept t

theorem State.Unmoved.refl (s : State) : s.Unmoved s := ⟨rfl, .refl s⟩

theorem State.Unmoved.trans (h : s.Unmoved t) (k : t.Unmoved u) : s.Unmoved u := ⟨k.1.trans h.1, h.2.trans k.2⟩

theorem State.Unmoved.of_core (h : t.core = s.core) : s.Unmoved t :=
  ⟨congrArg Core.mem h, congrArg Core.authority h, congrArg Core.currentSlot h, congrArg Core.generation h,
    congrArg Core.definitions h, congrArg Core.profiles h⟩

theorem State.Unmoved.look (s : State) : s.Unmoved s.look :=
  ⟨congrArg Core.mem s.look_core, congrArg Core.authority s.look_core, congrArg Core.currentSlot s.look_core,
    congrArg Core.generation s.look_core, congrArg Core.definitions s.look_core, congrArg Core.profiles s.look_core⟩

theorem State.Unmoved.thenLook (h : s.Unmoved t) : s.Unmoved t.look := h.trans (.look t)

theorem State.Unmoved.arrayStops (s : State) : s.Unmoved s.arrayStops := by
  unfold State.arrayStops
  split
  · exact .refl s
  · exact ⟨rfl, rfl, rfl, rfl, rfl, rfl⟩

theorem State.Unmoved.fall (s : State) (items : List InterruptedItem) : s.Unmoved (s.atReset items) := by
  refine ⟨rfl, rfl, rfl, rfl, ?_, rfl⟩
  show ((s.regions.map _).map _) = s.regions.map _
  rw [List.map_map]
  refine List.map_congr_left fun slot _ => ?_
  cases slot <;> rfl

theorem State.Unmoved.rise (s : State) : s.Unmoved { s with resetLow := false }.deselectAll :=
  ⟨rfl, rfl, rfl, rfl, rfl, rfl⟩

/-! ### Frames and events on the lines -/

/-- A frame of a port moves neither. -/
theorem Move.unmoved (h : Move a s t) (ha : a ≠ .event) : s.Unmoved t := by
  have hmove := h.coreMove
  clear h
  cases hmove with
  | still h => exact .of_core h
  | look => exact .look s
  | endEntry outcome hev hstop hi he => exact absurd hev ha
  | supply h hx => exact ⟨rfl, rfl, rfl, rfl, rfl, rfl⟩
  | power hev h => exact absurd hev ha
  | fallUnpowered h => exact ⟨rfl, rfl, rfl, rfl, rfl, rfl⟩
  | fall hev hlow h hi => exact absurd hev ha
  | riseUnpowered h => exact ⟨rfl, rfl, rfl, rfl, rfl, rfl⟩
  | rise hev hlow h => exact absurd hev ha
  | arrayStops => exact .arrayStops s
  | startUp mv hev hd hlow hs hstop hk => exact absurd hev ha

theorem Moves.unmoved (h : Moves a s t) (ha : a ≠ .event) : s.Unmoved t :=
  h.keep (P := fun u => s.Unmoved u) (fun _ _ hm hu => hu.trans (hm.unmoved ha)) (.refl s)

theorem Actor.ne_event (h : a.acts p) : a ≠ .event := by
  rintro rfl
  exact h

theorem pinEvent_unmoved {e : PinEvent} (h : pinEvent p e s = .next t) : s.Unmoved t := by
  obtain ⟨a, ha, hm⟩ := pinEvent_moves h
  exact hm.unmoved (Actor.ne_event ha)

/-- A row of a frame moves neither. -/
theorem exec_unmoved_of_framePort {c : Instr} (hc : c.framePort = some p) (h : exec c s = .next t) : s.Unmoved t :=
  (exec_moves h).unmoved (Actor.ne_event (rowActor_acts hc))

/-! ### The happenings -/

theorem State.expireLease_core (s : State) (p : Port) (i : Nat) : (s.expireLease p i).core = s.core := by
  unfold State.expireLease
  rw [State.endLease_core]
  exact (State.core_modifyPort rfl).trans (s.loseEntries_core p i)

theorem State.countdown_core (s : State) (i : Nat) : (s.countdown i).core = s.core := by
  have held : ∀ r p, (s.countdownHeld i r p).core = s.core := by
    intro r p
    have warned : (if r.lease.remaining - 1 = warningPoint r.definition.limit.toNat ∧ 1 ≤ r.lease.remaining - 1 then
        (s.modifyLease i (fun l => { l with remaining := r.lease.remaining - 1 })).post p .leaseWarning
        else s.modifyLease i (fun l => { l with remaining := r.lease.remaining - 1 })).core = s.core := by
      split
      · exact (State.core_modifyPort rfl).trans (s.core_modifyLease i _)
      · exact s.core_modifyLease i _
    unfold State.countdownHeld
    dsimp only
    split
    · exact (State.expireLease_core _ p i).trans warned
    · exact warned
  unfold State.countdown
  split
  · split
    · split
      · exact held _ _
      · rfl
    · rfl
  · rfl

theorem execSuspendPoint_unmoved (h : execSuspendPoint s = .next t) : s.Unmoved t := by
  unfold execSuspendPoint at h
  split at h
  · split at h
    · cases h
      exact State.Unmoved.thenLook ⟨rfl, rfl, rfl, rfl, rfl, rfl⟩
    · cases h
  · cases h

theorem closeWindow_unmoved (s : State) : s.Unmoved { s with window := none }.look :=
  State.Unmoved.thenLook ⟨rfl, rfl, rfl, rfl, rfl, rfl⟩

theorem execReadWindowStep_unmoved (h : execReadWindowStep s = .next t) : s.Unmoved t := by
  unfold execReadWindowStep at h
  split at h
  · cases h
    unfold State.windowStep
    split
    · exact closeWindow_unmoved s
    · exact ⟨rfl, rfl, rfl, rfl, rfl, rfl⟩
  · cases h

theorem execReadWindowClose_unmoved (h : execReadWindowClose s = .next t) : s.Unmoved t := by
  unfold execReadWindowClose at h
  split at h
  · split at h
    · cases h
      exact closeWindow_unmoved s
    · cases h
  · cases h

theorem execLeaseTick_unmoved (h : execLeaseTick s = .next t) : s.Unmoved t := by
  unfold execLeaseTick at h
  split at h
  · have hcore := foldl_keeps State.core State.countdown_core regionIndices s
    generalize regionIndices.foldl State.countdown s = u at h hcore
    cases h
    exact .of_core hcore
  · cases h

theorem execLeaseExpiry_unmoved {i : Fin 16} (h : execLeaseExpiry i s = .next t) : s.Unmoved t := by
  unfold execLeaseExpiry at h
  split at h
  · cases h
  · split at h
    · cases h
      exact .of_core (s.countdown_core _)
    · cases h

theorem State.Unmoved.postAll (h : s.Unmoved t) (k : NoticeKind) : s.Unmoved (t.postAll k) :=
  h.trans (.of_core (t.postAll_core k))

theorem State.Unmoved.supply (s : State) (x : SupplyState) : s.Unmoved { s with supply := x } :=
  ⟨rfl, rfl, rfl, rfl, rfl, rfl⟩

theorem execSupplyMarginal_unmoved {mv : Nat} (h : execSupplyMarginal mv s = .next t) : s.Unmoved t := by
  unfold execSupplyMarginal at h
  split at h
  · cases h
    unfold State.postSupplyChange
    split
    · exact (State.Unmoved.supply s _).postAll _
    · exact .supply s _
  · cases h

theorem execSupplyNormal_unmoved {mv : Nat} (h : execSupplyNormal mv s = .next t) : s.Unmoved t := by
  unfold execSupplyNormal at h
  split at h
  · split at h
    · cases h
      exact ((State.Unmoved.supply s _).postAll _).trans (.look _)
    · cases h
      exact .supply s _
  · cases h

theorem State.Unmoved.cutOff (s : State) : s.Unmoved s.cutOff := by
  rw [State.cutOff_eq]
  exact ⟨rfl, rfl, rfl, rfl, rfl, rfl⟩

theorem execResetFall_unmoved (h : execResetFall s = .next t) : s.Unmoved t := by
  obtain ⟨-, ⟨-, rfl⟩ | ⟨-, -, rfl⟩ | ⟨-, -, rfl⟩⟩ := execResetFall_next h
  · exact ⟨rfl, rfl, rfl, rfl, rfl, rfl⟩
  · exact .fall s _
  · exact (State.Unmoved.cutOff s).trans (.fall _ _)

theorem execResetRise_unmoved (h : execResetRise s = .next t) : s.Unmoved t := by
  unfold execResetRise at h
  split at h
  · split at h
    · cases h
      exact ⟨rfl, rfl, rfl, rfl, rfl, rfl⟩
    · cases h
      exact .rise s
  · cases h

/-- R156: the end of an entry moves the map only as a commit's, ended DONE. -/
theorem execOperationEnd_map {o : EndOutcome} (h : execOperationEnd o s = .next t) :
    s.MapKept t ∨ o = .done ∧ t.generation = s.generation + 1 ∧ ∃ e, s.activeEntry = some e ∧ e.kind = .mapCommit := by
  unfold execOperationEnd at h
  split at h
  · cases h
  · split at h
    · next i hi =>
      split at h
      · next e he =>
        cases h
        have hlook := State.Unmoved.look (s.endEntry i e o)
        obtain ⟨-, x, hx, -, hactive⟩ := State.activeIndex_some hi
        obtain rfl : e = x := Option.some.inj (he.symm.trans hx)
        rcases s.endEntry_core i e o with hcore | ⟨hk, hdone, m, -, hcore⟩
        · refine .inl (State.MapKept.trans ?_ hlook.2)
          exact ⟨congrArg Core.authority hcore, congrArg Core.currentSlot hcore, congrArg Core.generation hcore,
            congrArg Core.definitions hcore, congrArg Core.profiles hcore⟩
        · exact .inr ⟨hdone, hlook.2.generation.trans (congrArg Core.generation hcore), e, hactive, hk⟩
      · cases h
    · cases h

theorem State.startUp_mem (s : State) (mv : Nat) (ks : List StartUpStep) :
    (ks.foldl (State.startUpStep mv) s.arrayStops).mem = s.mem :=
  (foldl_keeps State.mem (fun u k => u.startUpStep_mem mv k) ks _).trans s.arrayStops_mem

/-! ### Every command -/

/-- No command but the end of an operation moves the stored bytes. -/
theorem exec_mem {c : Instr} (hc : ∀ o, c ≠ .operationEnd o) (h : exec c s = .next t) : t.mem = s.mem := by
  cases hp : c.framePort with
  | some p => exact (exec_unmoved_of_framePort hp h).1
  | none =>
    cases c with
    | operationEnd o => exact absurd rfl (hc o)
    | suspendPoint => exact (execSuspendPoint_unmoved h).1
    | readWindowStep => exact (execReadWindowStep_unmoved h).1
    | readWindowClose => exact (execReadWindowClose_unmoved h).1
    | leaseTick => exact (execLeaseTick_unmoved h).1
    | leaseExpiry i => exact (execLeaseExpiry_unmoved h).1
    | supplyMarginal mv => exact (execSupplyMarginal_unmoved h).1
    | supplyNormal mv => exact (execSupplyNormal_unmoved h).1
    | supplyFailed mv =>
      simp only [exec, execSupplyFailed] at h
      split at h
      · cases h
        exact (State.Unmoved.cutOff s).1
      · cases h
    | powerOnDetection mv =>
      simp only [exec, execPowerOnDetection] at h
      split at h
      · cases h
        rfl
      · cases h
    | resetFall => exact (execResetFall_unmoved h).1
    | resetRise => exact (execResetRise_unmoved h).1
    | startUp run =>
      obtain ⟨-, -, -, rfl⟩ := execStartUp_next h
      exact s.startUp_mem run.mv _
    | _ => cases hp

/-- No command but start-up, loss of power, power-on detection and the end of a commit moves the map. -/
theorem exec_map {c : Instr} (hstart : ∀ run, c ≠ .startUp run) (hfail : ∀ mv, c ≠ .supplyFailed mv)
    (hpower : ∀ mv, c ≠ .powerOnDetection mv) (h : exec c s = .next t) :
    s.MapKept t ∨ c = .operationEnd .done ∧ t.generation = s.generation + 1 ∧
      ∃ e, s.activeEntry = some e ∧ e.kind = .mapCommit := by
  cases hp : c.framePort with
  | some p => exact .inl (exec_unmoved_of_framePort hp h).2
  | none =>
    cases c with
    | operationEnd o =>
      rcases execOperationEnd_map h with hkept | ⟨rfl, hgen, he⟩
      · exact .inl hkept
      · exact .inr ⟨rfl, hgen, he⟩
    | suspendPoint => exact .inl (execSuspendPoint_unmoved h).2
    | readWindowStep => exact .inl (execReadWindowStep_unmoved h).2
    | readWindowClose => exact .inl (execReadWindowClose_unmoved h).2
    | leaseTick => exact .inl (execLeaseTick_unmoved h).2
    | leaseExpiry i => exact .inl (execLeaseExpiry_unmoved h).2
    | supplyMarginal mv => exact .inl (execSupplyMarginal_unmoved h).2
    | supplyNormal mv => exact .inl (execSupplyNormal_unmoved h).2
    | supplyFailed mv => exact absurd rfl (hfail mv)
    | powerOnDetection mv => exact absurd rfl (hpower mv)
    | resetFall => exact .inl (execResetFall_unmoved h).2
    | resetRise => exact .inl (execResetRise_unmoved h).2
    | startUp run => exact absurd rfl (hstart run)
    | _ => cases hp

/-- A step that takes no command moves neither. -/
theorem step_unmoved (hp : s.pending = []) (hc : ∀ c, s.inputs.head? ≠ some (.command c)) (h : step s = .next t) :
    s.Unmoved t := by
  have taken : ∀ is : List Input, s.Unmoved { s with inputs := is } := fun _ => ⟨rfl, rfl, rfl, rfl, rfl, rfl⟩
  unfold step at h
  split at h
  · split at h
    · cases h
      exact .arrayStops s
    · next i rest hi =>
      cases i with
      | pin p e => exact (taken rest).trans (pinEvent_unmoved h)
      | command c => exact absurd (by rw [hi]; rfl) (hc c)
      | arrayStops =>
        cases h
        exact (taken rest).trans (.arrayStops _)
  · next c rest hpending => cases hp.symm.trans hpending

/-- Settles O59: what is no end of an operation moves no stored byte, and what is neither start-up, nor power, nor the
end of a commit leaves the map. -/
theorem arrayAndMapChangeOnlyThere : Obligations.ArrayAndMapChangeOnlyThere := by
  refine ⟨fun c s t h => ⟨fun hc => exec_mem hc h, fun hstart hfail hpower => ?_⟩, fun p e s t h => ?_,
    fun s t hp hc h => ?_⟩
  · exact (exec_map hstart hfail hpower h).imp_left fun hk =>
      ⟨hk.authority, hk.currentSlot, hk.generation, hk.region, hk.profile⟩
  · obtain ⟨hmem, hk⟩ := pinEvent_unmoved h
    exact ⟨hmem, hk.authority, hk.currentSlot, hk.generation, hk.region, hk.profile⟩
  · obtain ⟨hmem, hk⟩ := step_unmoved hp hc h
    exact ⟨hmem, hk.authority, hk.currentSlot, hk.generation, hk.region, hk.profile⟩

end Sys2Proof.Machine
end

section
/-! A frame of one port leaves the other ports' own state alone (R117, R122, R128, R136, R143, R147). -/

namespace Sys2Proof.Machine

variable {a : Actor} {p : Port} {s t u : State}

/-! ### The other ports -/

/-- Of the other ports at most notices are posted. -/
structure State.Beside (p : Port) (s t : State) : Prop where
  ports : ∀ q, q ≠ p → { t.port q with
    latched := (s.port q).latched
    postedSinceView := (s.port q).postedSinceView } = s.port q
  rises : ∀ q, q ≠ p → ∀ k, (s.port q).latched.get k = true → (t.port q).latched.get k = true

theorem State.Beside.of_leases (h : OnlyLeases s t) : State.Beside p s t :=
  ⟨fun q _ => h.ports q, fun q _ => h.rises q⟩

theorem State.Beside.of_ports (h : t.ports = s.ports) : State.Beside p s t := by
  have hport : ∀ q, t.port q = s.port q := fun q => by rw [State.port, State.port, h]
  exact ⟨fun q _ => by rw [hport], fun q _ k hk => by rw [hport]; exact hk⟩

theorem State.Beside.refl (p : Port) (s : State) : State.Beside p s s := .of_ports rfl

theorem State.Beside.trans (h : State.Beside p s t) (k : State.Beside p t u) : State.Beside p s u where
  ports q hq := by
    have h1 := h.ports q hq
    have h2 := k.ports q hq
    calc { u.port q with latched := (s.port q).latched, postedSinceView := (s.port q).postedSinceView }
        = { ({ u.port q with latched := (t.port q).latched, postedSinceView := (t.port q).postedSinceView } :
            PortState) with latched := (s.port q).latched, postedSinceView := (s.port q).postedSinceView } := rfl
      _ = { t.port q with latched := (s.port q).latched, postedSinceView := (s.port q).postedSinceView } := by rw [h2]
      _ = s.port q := h1
  rises q hq n hn := k.rises q hq n (h.rises q hq n hn)

theorem State.Beside.modifyPort (p : Port) (s : State) (f : PortState → PortState) :
    State.Beside p s (s.modifyPort p f) := by
  have hport : ∀ q, q ≠ p → (s.modifyPort p f).port q = s.port q := fun q hq => by
    rw [State.port_modifyPort, if_neg hq]
  exact ⟨fun q hq => by rw [hport q hq], fun q hq k hk => by rw [hport q hq]; exact hk⟩

theorem State.Beside.thenModify (h : State.Beside p s t) (f : PortState → PortState) :
    State.Beside p s (t.modifyPort p f) := h.trans (.modifyPort p t f)

theorem State.Beside.of_leases_from (hu : u.ports = s.ports) (h : OnlyLeases u t) : State.Beside p s t :=
  State.Beside.trans (.of_ports hu) (.of_leases h)

theorem State.Beside.released (s : State) (p r : Port) : State.Beside p s (s.released r) := by
  rw [State.released_eq]
  exact .of_ports rfl

theorem State.Beside.cancelEntry {i : Nat} {e : Entry} (hp : e.port = p) : State.Beside p s (s.cancelEntry i e) := by
  have freed : State.Beside p s (({ s with queue := s.queue.eraseIdx i } : State).freeEntryBuffer e) := by
    rw [State.freeEntryBuffer_eq]
    exact .of_ports rfl
  have left : State.Beside p s
      ((({ s with queue := s.queue.eraseIdx i } : State).freeEntryBuffer e).postRecord e .cancelled) := by
    unfold State.postRecord
    rw [hp]
    exact freed.trans (.modifyPort p _ _)
  unfold State.cancelEntry
  dsimp only
  split
  · refine left.trans (State.Beside.trans (.of_ports ?_) (.of_leases (State.dropCommit_leases _)))
    rfl
  · exact left

theorem State.Beside.acceptProgram (s : State) (p : Port) (handle : Byte) (addr : Addr) (tag cls : Byte) :
    State.Beside p s (s.acceptProgram p handle addr tag cls) := by
  have hport : ∀ q, q ≠ p → (s.acceptProgram p handle addr tag cls).port q = s.port q := fun q hq => by
    rw [State.acceptProgram_port, if_neg hq]
  exact ⟨fun q hq => by rw [hport q hq], fun q hq k hk => by rw [hport q hq]; exact hk⟩

/-- A move of a frame of a port, that signals no other port. -/
theorem Move.beside (h : Move (.port p) s t) : State.Beside p s t := by
  cases h with
  | taken l is ha => cases ha
  | unread pages n => exact .of_ports rfl
  | own ha h =>
    obtain rfl := ha
    exact .modifyPort p s _
  | post q k => exact .of_leases (OnlyLeases.post s q k)
  | signal v ha hd he => cases ha
  | look => exact .of_ports s.look_ports
  | clearInterrupted => exact .of_ports rfl
  | fill st b ha hf =>
    obtain rfl := ha
    exact (State.Beside.released s p p).trans (.modifyPort p _ _)
  | hold st ha hf hc =>
    obtain rfl := ha
    exact (State.Beside.trans (.released s p p) (.of_ports (by rfl))).thenModify _
  | close ha hf =>
    obtain rfl := ha
    exact (State.Beside.released s p p).trans (.modifyPort p _ _)
  | request h =>
    rw [State.requestSuspend_eq]
    exact .of_ports rfl
  | load b offset data => exact .of_ports rfl
  | allocate offset data ha hle hnone hfree hown =>
    obtain rfl := ha
    exact State.Beside.thenModify (.of_ports (by rfl)) _
  | discard ha hle hb =>
    obtain rfl := ha
    exact State.Beside.thenModify (.of_ports (by rfl)) _
  | program ha hd hok =>
    obtain rfl := ha
    exact .acceptProgram s p _ _ _ _
  | sectorErase hd hok => exact .of_ports rfl
  | blockErase hd hok => exact .of_ports rfl
  | commit hd hok =>
    obtain ⟨m, hm, -⟩ := State.commitChecks_pass hok
    have hfrozen := s.frozen_leases m
    rw [State.acceptCommit_some hm]
    generalize s.frozen m = u at hfrozen
    exact (State.Beside.of_leases_from (by rfl) hfrozen).trans (.of_ports (by rfl))
  | cancel ha hi he hp =>
    obtain rfl := ha
    exact .cancelEntry hp
  | lose ha hr hh => cases ha
  | resetQueue q =>
    obtain ⟨image, hl⟩ := s.resetQueue_leases q
    generalize s.resetQueue q = u at hl
    exact .of_leases_from (by rfl) hl
  | resetHandles ha =>
    obtain rfl := ha
    rw [State.resetHandles_eq]
    exact State.Beside.thenModify (.of_ports (by rfl)) _
  | take hr hm hs => exact .of_ports rfl
  | wait hr hm hs hh hw => exact .of_ports rfl
  | renew hr hh => exact .of_ports rfl
  | leave q i => exact .of_ports rfl
  | endLease hr hh hq => exact .of_leases (OnlyLeases.endLease s _)
  | tick hr hs hn => exact .of_ports rfl
  | stage h => exact .of_ports rfl
  | endEntry outcome ha hstop hi he => cases ha
  | park hstop heng hi => exact .of_ports rfl
  | windowStep hw h1 => exact .of_ports rfl
  | windowClose => exact .of_ports rfl
  | supply h hx => exact .of_ports rfl
  | power ha h => cases ha
  | fallUnpowered h => exact .of_ports rfl
  | fall ha hlow h hi => cases ha
  | riseUnpowered h => exact .of_ports rfl
  | rise ha hlow h => cases ha
  | arrayStops => exact .of_ports s.arrayStops_ports
  | startUp mv ha hd hlow hs hstop hk => cases ha

theorem Moves.beside (h : Moves (.port p) s t) : State.Beside p s t :=
  h.keep (P := State.Beside p s) (fun _ _ hm hu => hu.trans hm.beside) (.refl p s)

/-- The port whose frame it is makes every move of a row but SIGNAL PORT's. -/
theorem rowActor_port {c : Instr} (hc : c.framePort = some p) (hs : ∀ d v, c ≠ .signalPort p d v) :
    rowActor c = .port p := by
  unfold rowActor
  split
  · next r d v =>
    obtain rfl : r = p := Option.some.inj hc
    exact absurd rfl (hs d v)
  · rw [hc]

/-- SIGNAL PORT fills an EMPTY mailbox of one other port with the sender and the value, or leaves all others. -/
theorem execSignalPort_others {target value : Byte} (h : execSignalPort p target value s = .next t) :
    State.Beside p s t ∨ ∃ d, d ≠ p ∧ (s.port d).mailbox = none ∧
      State.Beside p (s.modifyPort d (fun q => { q with mailbox := some ⟨p, value⟩ })) t := by
  rcases takeCommand_next h with ⟨-, rfl⟩ | ⟨-, -, rfl⟩ | ⟨-, rfl⟩
  · exact .inl (.refl p t)
  · exact .inl (.modifyPort p s _)
  · have answered : ∀ (u : State) (r : Response), State.Beside p s u → State.Beside p s (u.respond p r) :=
      fun u r hu => hu.trans (.modifyPort p u _)
    split
    · next d _ =>
      split
      · exact .inl (answered s _ (.refl p s))
      · next hd =>
        split
        · exact .inl (answered s _ (.refl p s))
        · next hempty =>
          refine .inr ⟨d, hd, by simpa using hempty, ?_⟩
          exact State.Beside.trans (.of_leases (OnlyLeases.post _ d .peerSignal)) (.modifyPort p _ _)
    · exact .inl (answered s _ (.refl p s))

/-- What the statement says of the other ports. -/
theorem State.Beside.others (h : State.Beside p s t) {q : Port} (hq : q ≠ p) :
    { t.port q with
      latched := (s.port q).latched
      postedSinceView := (s.port q).postedSinceView
      mailbox := (s.port q).mailbox } = s.port q ∧
    (∀ k, (s.port q).latched.get k = true → (t.port q).latched.get k = true) ∧
    (t.port q).mailbox = (s.port q).mailbox := by
  have hport := h.ports q hq
  have hmail : (t.port q).mailbox = (s.port q).mailbox := by
    have heq := congrArg PortState.mailbox hport
    exact heq
  refine ⟨?_, h.rises q hq, hmail⟩
  rw [← hmail]
  exact hport

theorem frame_others {c : Instr} {q : Port} (hc : c.framePort = some p) (hq : q ≠ p) (h : exec c s = .next t) :
    { t.port q with
      latched := (s.port q).latched
      postedSinceView := (s.port q).postedSinceView
      mailbox := (s.port q).mailbox } = s.port q ∧
    (∀ k, (s.port q).latched.get k = true → (t.port q).latched.get k = true) ∧
    ((t.port q).mailbox = (s.port q).mailbox ∨
      ∃ target value, c = .signalPort p target value ∧ (s.port q).mailbox = none ∧
        (t.port q).mailbox = some ⟨p, value⟩) := by
  by_cases hs : ∃ d v, c = .signalPort p d v
  · obtain ⟨target, value, rfl⟩ := hs
    rcases execSignalPort_others h with hb | ⟨d, hd, hempty, hb⟩
    · obtain ⟨h1, h2, h3⟩ := hb.others hq
      exact ⟨h1, h2, .inl h3⟩
    · obtain ⟨h1, h2, h3⟩ := hb.others hq
      rw [State.port_modifyPort] at h1 h2 h3
      by_cases hqd : q = d
      · subst hqd
        rw [if_pos rfl] at h1 h2 h3
        refine ⟨?_, h2, .inr ⟨target, value, rfl, hempty, h3⟩⟩
        calc _ = { ({ t.port q with
                  latched := (s.port q).latched
                  postedSinceView := (s.port q).postedSinceView
                  mailbox := some ⟨p, value⟩ } : PortState) with mailbox := (s.port q).mailbox } := rfl
          _ = _ := by rw [h1]
      · rw [if_neg hqd] at h1 h2 h3
        exact ⟨h1, h2, .inl h3⟩
  · have hactor := rowActor_port hc fun d v he => hs ⟨d, v, he⟩
    have hmoves := exec_moves h
    rw [hactor] at hmoves
    obtain ⟨h1, h2, h3⟩ := hmoves.beside.others hq
    exact ⟨h1, h2, .inl h3⟩

/-! ### Last Response -/

/-- The three values of Last Response. -/
def State.responses (s : State) (q : Port) : Response := (s.port q).lastResponse

theorem State.responses_of_ports (h : t.ports = s.ports) : t.responses = s.responses := by
  funext q
  rw [State.responses, State.responses, State.port, State.port, h]

theorem State.responses_modifyPort (s : State) (p : Port) {f : PortState → PortState}
    (h : ∀ r, (f r).lastResponse = r.lastResponse) : (s.modifyPort p f).responses = s.responses := by
  funext q
  unfold State.responses
  rw [State.port_modifyPort]
  split
  · exact h _
  · rfl

theorem State.requestSuspend_responses (s : State) (w : Nat) : (s.requestSuspend w).responses = s.responses :=
  State.responses_of_ports (by rw [State.requestSuspend_eq])

theorem State.checkStream_responses (s : State) (p : Port) (st : ReadStream) :
    (s.checkStream p st).responses = s.responses := by
  have filled : ∀ u : State, (u.fillStream p st).responses = u.responses := fun u =>
    u.responses_modifyPort p fun _ => by rfl
  unfold State.checkStream
  split
  · exact (State.responses_modifyPort _ p fun _ => by rfl).trans (filled s)
  · split
    · have met : (((s.fillStream p st).modifyPort p (fun q => { q with conflictSeen := true })).post p
          .readConflict).responses = s.responses :=
        (State.responses_modifyPort _ p fun _ => by rfl).trans
          ((State.responses_modifyPort _ p fun _ => by rfl).trans (filled s))
      unfold State.conflictStream
      dsimp only
      split
      · exact (State.requestSuspend_responses _ _).trans met
      · exact met
    · exact (State.responses_modifyPort _ p fun _ => by rfl).trans (State.responses_of_ports (by rfl))

theorem State.clockOut_responses (s : State) (p : Port) (st : ReadStream) (d : Nat) :
    (s.clockOut p st d).responses = s.responses :=
  (State.responses_of_ports (s := s.modifyPort p (fun q =>
    { q with frame := .readStream (st.advance d), output := q.output ++ s.streamBytes st d })) rfl).trans
    (s.responses_modifyPort p fun _ => by rfl)

theorem State.look_responses (s : State) : s.look.responses = s.responses := State.responses_of_ports s.look_ports

theorem State.recheckStream_responses (s : State) (p : Port) (st : ReadStream) :
    (s.recheckStream p st).responses = s.responses := by
  unfold State.recheckStream
  split
  · split
    · exact s.responses_modifyPort p fun _ => by rfl
    · exact (State.look_responses _).trans ((State.checkStream_responses _ p _).trans (State.responses_of_ports (by rfl)))
  · exact s.checkStream_responses p st

theorem State.walkStream_responses (s : State) (p : Port) (st : ReadStream) (d : Nat) :
    (s.walkStream p st d).responses = s.responses := by
  unfold State.walkStream
  split
  · exact s.clockOut_responses p st d
  · exact (State.recheckStream_responses _ p _).trans (s.clockOut_responses p st d)

theorem State.clockBytes_responses (s : State) (p : Port) (fuel n : Nat) :
    (s.clockBytes p fuel n).responses = s.responses :=
  State.clockBytes_keeps (P := fun u => u.responses = s.responses)
    (fun u st d _ hu => (u.clockOut_responses p st d).trans hu)
    (fun u st d _ hu => (u.walkStream_responses p st d).trans hu) fuel n s rfl

theorem State.releaseHeld_responses (s : State) (st : ReadStream) : (s.releaseHeld st).responses = s.responses := by
  unfold State.releaseHeld
  split <;> exact State.responses_of_ports (by rfl)

theorem State.closeStream_responses (s : State) (p : Port) : (s.closeStream p).responses = s.responses := by
  unfold State.closeStream
  split
  · exact (State.look_responses _).trans
      ((State.responses_modifyPort _ p fun _ => by rfl).trans (s.releaseHeld_responses _))
  · rfl

theorem State.endFrame_responses (s : State) (p : Port) (bytes : List Byte) :
    (s.endFrame p bytes).responses = s.responses := s.responses_modifyPort p fun _ => by rfl

/-- The views whose rise answers with a response code (R120, R127, R132, R144). -/
def View.answers : View → Bool
  | .notReady _ => true
  | .completion _ => true
  | .notices _ _ => true
  | .mailbox _ => true
  | _ => false

/-- The rise of a frame whose view does not answer with a code. -/
theorem State.endOutput_responses {n : Nat} (h : ∀ v, (s.port p).frame = .dataOut v → v.answers = false) :
    (s.endOutput p n).responses = s.responses := by
  unfold State.endOutput
  split
  · next v hv =>
    have hanswers := h v hv
    cases v with
    | status bytes conflict denied =>
      show (s.endReadStatus p bytes conflict denied n).responses = _
      unfold State.endReadStatus
      dsimp only
      split
      · exact (State.responses_modifyPort _ p fun _ => by rfl).trans (s.endFrame_responses p _)
      · exact s.endFrame_responses p _
    | inquiry kind bytes => exact s.endFrame_responses p _
    | _ => cases hanswers
  · exact s.endFrame_responses p _
  · exact (State.closeStream_responses _ p).trans (s.clockBytes_responses p n n)
  · rfl

theorem riseFrame_responses {n : Nat} (hv : ∀ v, (s.port p).frame = .dataOut v → v.answers = false)
    (h : riseFrame p s n = .next t) : t.responses = s.responses := by
  rw [riseFrame_next h]
  exact State.endOutput_responses hv

theorem openFrame_responses {quad : Bool} {answer : State → State} (ha : (answer s).responses = s.responses)
    (h : openFrame quad p s answer = .next t) : t.responses = s.responses := by
  rcases openFrame_next h with ⟨-, rfl⟩ | ⟨-, -, rfl⟩ | ⟨-, rfl⟩
  · rfl
  · exact s.responses_modifyPort p fun _ => by rfl
  · exact ha

theorem openInquiry_responses {kind : InquiryKind} {bytes : List Byte} (h : openInquiry p s kind bytes = .next t) :
    t.responses = s.responses :=
  openFrame_responses (s.responses_modifyPort p fun _ => by rfl) h

theorem openStream_responses {quad : Bool} {x : Addr} (h : openStream quad p x s = .next t) :
    t.responses = s.responses :=
  openFrame_responses ((State.checkStream_responses _ p _).trans (s.responses_modifyPort p fun _ => by rfl)) h

theorem crossBlock_responses (h : crossBlock p s = .next t) : t.responses = s.responses := by
  unfold crossBlock at h
  split at h <;> cases h
  · exact s.clockBytes_responses p _ _
  · rfl

theorem execTargetEntry_responses (h : execTargetEntry p s = .next t) : t.responses = s.responses := by
  unfold execTargetEntry at h
  split at h
  · split at h
    · cases h
      exact s.clockBytes_responses p _ _
    · cases h
  · cases h
    rfl

theorem execReadStatus_responses {m : FramePart Unit} (hv : ∀ v, (s.port p).frame = .dataOut v → v.answers = false)
    (h : execReadStatus p m s = .next t) : t.responses = s.responses := by
  cases m with
  | fixed x =>
    simp only [execReadStatus] at h
    split at h <;> cases h
    · rfl
    · exact s.responses_modifyPort p fun _ => by rfl
  | rise n => exact riseFrame_responses hv h

/-- An inquiry that ends no frame which answers with a code. -/
theorem inquiry_responses {c : Instr} (hc : c.isInquiry = true) (hp : c.framePort = some p)
    (hv : ∀ v, (s.port p).frame = .dataOut v → v.answers = false) (h : exec c s = .next t) :
    t.responses = s.responses := by
  cases c with
  | readArray r x => exact openStream_responses h
  | quadReadArray r x => exact openStream_responses h
  | blockCrossing r => exact crossBlock_responses h
  | targetEntry r => exact execTargetEntry_responses h
  | blockCrossingNewBank r => exact crossBlock_responses h
  | readStreamClose r n =>
    obtain rfl : r = p := Option.some.inj hp
    exact riseFrame_responses hv h
  | readBuffer r m =>
    obtain rfl : r = p := Option.some.inj hp
    cases m with
    | fixed f =>
      have hopen : openFrame false r s (fun t => t.setFrame r (.bufferStream ⟨(t.port r).handle f.1, f.2⟩)) = .next t := h
      exact openFrame_responses (State.responses_modifyPort _ r fun _ => by rfl) hopen
    | rise n => exact riseFrame_responses hv h
  | readStatus r m =>
    obtain rfl : r = p := Option.some.inj hp
    exact execReadStatus_responses hv h
  | readIdentity r m =>
    obtain rfl : r = p := Option.some.inj hp
    cases m with
    | fixed f => exact openInquiry_responses h
    | rise n => exact riseFrame_responses hv h
  | readMap r m =>
    obtain rfl : r = p := Option.some.inj hp
    cases m with
    | fixed f => exact openInquiry_responses h
    | rise n => exact riseFrame_responses hv h
  | readQueue r m =>
    obtain rfl : r = p := Option.some.inj hp
    cases m with
    | fixed f => exact openInquiry_responses h
    | rise n => exact riseFrame_responses hv h
  | readRegions r m =>
    obtain rfl : r = p := Option.some.inj hp
    cases m with
    | fixed f => exact openInquiry_responses h
    | rise n => exact riseFrame_responses hv h
  | readInterrupted r m =>
    obtain rfl : r = p := Option.some.inj hp
    cases m with
    | fixed f => exact openInquiry_responses h
    | rise n => exact riseFrame_responses hv h
  | inquiryDropped r =>
    have hdropped : execInquiryDropped r s = .next t := h
    unfold execInquiryDropped at hdropped
    split at hdropped <;> cases hdropped <;> rfl
  | _ => cases hc

/-- Settles O60: a row of a frame moves its own port, posts notices, and at most fills one mailbox. -/
theorem framesLeaveOtherPortsAlone : Obligations.FramesLeaveOtherPortsAlone := by
  refine ⟨fun c p q s t hc hq h => frame_others hc hq h, ?_⟩
  intro c p s t hc _ hp hnot hcompletion hnotices hmailbox h q
  refine congrFun (inquiry_responses hc hp (fun v hv => ?_) h) q
  cases v with
  | notReady quad => exact absurd hv (hnot quad)
  | completion head => exact absurd hv (hcompletion head)
  | notices shown enables => exact absurd hv (hnotices shown enables)
  | mailbox content => exact absurd hv (hmailbox content)
  | status bytes conflict denied => rfl
  | inquiry kind bytes => rfl

end Sys2Proof.Machine
end

section
/-! What a step takes from the queue and from the inputs, and what it leaves of them (R135, R143; logs 15, 16, 32). -/

namespace Sys2Proof.Machine

variable {a : Actor} {p : Port} {s t : State}

/-- The commands and inputs that wait. -/
def State.waiting (s : State) : List Instr × List Input := (s.pending, s.inputs)

theorem OnlyLeases.waiting (h : OnlyLeases s t) : t.waiting = s.waiting := by
  rw [h.eq]
  rfl

theorem State.waiting_endEntry (s : State) (i : Nat) (e : Entry) (outcome : EndOutcome) :
    (s.endEntry i e outcome).waiting = s.waiting := by
  have harray := s.endedArray_eq i e outcome
  have hneighbours : ∀ u : State, (u.endInNeighbours e outcome).waiting = u.waiting := by
    intro u
    unfold State.endInNeighbours
    split
    · cases outcome with
      | done =>
        cases hm : u.commitImage with
        | none => simp only [State.commitDone_none hm]
        | some m =>
          simp only [State.commitDone_some hm]
          rfl
      | failed => exact u.commitFailed_leases.waiting
    · split
      · exact (OnlyLeases.drainDown u _).waiting
      · rfl
  have hended : (s.ended i e outcome).waiting = s.waiting := by
    rw [State.ended_eq, hneighbours, harray]
    rfl
  rw [State.endEntry_eq]
  generalize s.ended i e outcome = u at hended
  split <;> exact hended

theorem State.waiting_cancelEntry (s : State) (i : Nat) (e : Entry) : (s.cancelEntry i e).waiting = s.waiting := by
  have left : ((({ s with queue := s.queue.eraseIdx i } : State).freeEntryBuffer e).postRecord e .cancelled).waiting =
      s.waiting := by
    rw [State.freeEntryBuffer_eq]
    rfl
  unfold State.cancelEntry
  dsimp only
  split
  · exact (State.dropCommit_leases _).waiting.trans left
  · exact left

theorem State.waiting_startUpStep (s : State) (mv : Nat) (k : StartUpStep) :
    (s.startUpStep mv k).waiting = s.waiting :=
  Prod.ext (s.startUpStep_pending mv k) (s.startUpStep_inputs mv k)

/-- Only the part itself takes from them. -/
theorem Move.keeps_waiting (h : Move a s t) (ha : a ≠ .intake) : t.waiting = s.waiting := by
  cases h with
  | taken l is hi => exact absurd hi ha
  | unread pages n => rfl
  | own ha h => rfl
  | post p k => rfl
  | signal v ha hd he => rfl
  | look => exact Prod.ext s.look_pending s.look_inputs
  | clearInterrupted => rfl
  | fill st b ha hf =>
    rw [State.released_eq]
    rfl
  | hold st ha hf hc =>
    rw [State.released_eq]
    rfl
  | close ha hf =>
    rw [State.released_eq]
    rfl
  | request h =>
    rw [State.requestSuspend_eq]
    rfl
  | load b offset data => rfl
  | allocate offset data ha hle hnone hfree hown => rfl
  | discard ha hle hb => rfl
  | program ha hd hok =>
    unfold State.acceptProgram
    dsimp only
    split <;> rfl
  | sectorErase hd hok => rfl
  | blockErase hd hok => rfl
  | commit hd hok =>
    obtain ⟨m, hm, -⟩ := State.commitChecks_pass hok
    have hfrozen := (s.frozen_leases m).waiting
    rw [State.acceptCommit_some hm]
    generalize s.frozen m = u at hfrozen
    exact hfrozen
  | cancel ha hi he hp => exact s.waiting_cancelEntry _ _
  | lose ha hr hh =>
    rw [State.loseEntries_eq]
    rfl
  | resetQueue q =>
    obtain ⟨image, hl⟩ := s.resetQueue_leases q
    exact hl.waiting
  | resetHandles ha =>
    rw [State.resetHandles_eq]
    rfl
  | take hr hm hs => rfl
  | wait hr hm hs hh hw => rfl
  | renew hr hh => rfl
  | leave p i => rfl
  | endLease hr hh hq => exact (OnlyLeases.endLease s _).waiting
  | tick hr hs hn => rfl
  | stage h => rfl
  | endEntry outcome ha hstop hi he => exact s.waiting_endEntry _ _ outcome
  | park hstop heng hi => rfl
  | windowStep hw h1 => rfl
  | windowClose => rfl
  | supply h hx => rfl
  | power ha h => rfl
  | fallUnpowered h => rfl
  | fall ha hlow h hi => rfl
  | riseUnpowered h => rfl
  | rise ha hlow h => rfl
  | arrayStops => exact Prod.ext s.arrayStops_pending s.arrayStops_inputs
  | startUp mv ha hd hlow hs hstop hk => exact s.waiting_startUpStep mv _

theorem rowActor_ne_intake (c : Instr) : rowActor c ≠ .intake := by
  unfold rowActor
  split
  · exact nofun
  · split <;> exact nofun

/-- A row leaves the queue and the inputs. -/
theorem exec_waiting {c : Instr} (h : exec c s = .next t) : t.waiting = s.waiting :=
  (exec_moves h).keep (P := fun u => u.waiting = s.waiting)
    (fun _ _ hm hu => (hm.keeps_waiting (rowActor_ne_intake c)).trans hu) rfl

/-- Settles O1: the step function's own cases, and every row leaves what waits. -/
theorem stepRunsTheFrontCommand : Obligations.StepRunsTheFrontCommand := by
  refine ⟨fun c rest s hp => ?_, fun s hp hi => ?_, fun rest s hp hi => ?_, fun p e rest s hp hi => ?_,
    fun c rest s hp hi => ?_, fun c s t h => ?_⟩
  · simp only [step, hp]
  · have hstep : step s = .next s.arrayStops := by simp only [step, hp, hi]
    refine ⟨hstep, fun hs => ?_⟩
    rw [hstep, State.arrayStops_of_nil hs]
  · simp only [step, hp, hi, takeInput_arrayStops]
  · simp only [step, hp, hi, takeInput_pin]
  · simp only [step, hp, hi, takeInput_command]
  · exact ⟨congrArg Prod.fst (exec_waiting h), congrArg Prod.snd (exec_waiting h)⟩

/-! ### The laws at power-on -/

set_option maxRecDepth 4000 in
/-- Settles O50: each law is evaluated of the reset state. -/
theorem lawsHoldAtReset : Obligations.LawsHoldAtReset := by
  unfold Obligations.LawsHoldAtReset
  decide

end Sys2Proof.Machine
end

section
/-! The read window and the supply monitor (R66, R70, R172, R173). -/

namespace Sys2Proof.Machine

variable {s : State}

/-! ### The read window -/

/-- Settles O31: the two rows, by the time that remains. -/
theorem readWindowCountsDown : Obligations.ReadWindowCountsDown := by
  refine fun s => ⟨fun w hw h1 => ?_, fun hw => ?_, fun hw => ?_⟩
  · have hle : ¬w ≤ 1 := by omega
    simp only [exec, execReadWindowStep, execReadWindowClose, hw, State.windowStep, if_neg hle, and_self]
  · simp only [exec, execReadWindowStep, execReadWindowClose, hw, State.windowStep, le_refl, if_true, and_self]
  · simp only [exec, execReadWindowStep, execReadWindowClose, hw, and_self]

/-! ### The supply -/

theorem SupplyState.after_normal (mv : Nat) : SupplyState.normal.after mv =
    if mv < 2450 then .failed else if mv < 2750 then .marginal else .normal := rfl

theorem SupplyState.after_marginal (mv : Nat) : SupplyState.marginal.after mv =
    if mv < 2450 then .failed else if 2850 < mv then .normal else .marginal := rfl

theorem State.postSupplyChange_eq (s : State) :
    s.postSupplyChange = if s.device = .ready then s.postAll .deviceEvent else s := by
  unfold State.postSupplyChange
  cases s.device <;> rfl

theorem execSupplyMarginal_of {mv : Nat} (hs : s.supply = .normal) (h1 : 2450 ≤ mv) (h2 : mv < 2750) :
    execSupplyMarginal mv s = .next ({ s with supply := .marginal } : State).postSupplyChange := by
  have hafter : s.supply.after mv = .marginal := by
    rw [hs, SupplyState.after_normal, if_neg (by omega), if_pos h2]
  unfold execSupplyMarginal
  rw [if_pos ⟨hs, hafter⟩]

theorem execSupplyNormal_of {mv : Nat} (hs : s.supply = .marginal) (h : 2850 < mv) :
    execSupplyNormal mv s = .next (if s.device = .ready then
      (({ s with supply := .normal } : State).postAll .deviceEvent).look else { s with supply := .normal }) := by
  have hafter : s.supply.after mv = .normal := by
    rw [hs, SupplyState.after_marginal, if_neg (by omega), if_pos h]
  unfold execSupplyNormal
  rw [if_pos ⟨hs, hafter⟩]
  cases s.device <;> rfl

/-- Settles O45: the thresholds, and the effects of each change. -/
theorem supplyChangesPostAndLook : Obligations.SupplyChangesPostAndLook := by
  intro s mv events
  refine ⟨fun hs h1 h2 => ?_, fun hs h => ?_, fun hs h => ?_, fun hs h => ?_⟩
  · show execSupplyMarginal mv s = _
    rw [execSupplyMarginal_of hs h1 h2, State.postSupplyChange_eq]
    rfl
  · show execSupplyNormal mv s = _
    rw [execSupplyNormal_of hs h]
    rfl
  · show execSupplyMarginal mv s = _
    unfold execSupplyMarginal
    rw [if_neg]
    rintro ⟨-, hafter⟩
    rw [hs, SupplyState.after_normal, if_neg (by omega), if_neg (by omega)] at hafter
    cases hafter
  · show execSupplyNormal mv s = _
    unfold execSupplyNormal
    rw [if_neg]
    rintro ⟨-, hafter⟩
    rw [hs, SupplyState.after_marginal] at hafter
    split at hafter
    · cases hafter
    · rw [if_neg (by omega)] at hafter
      cases hafter

end Sys2Proof.Machine
end

section
/-! Supply failure, power-on, and the fall and rise of RESET# (R4, R72, R73, R137, R174, R175, R180, R181, R182). -/

namespace Sys2Proof.Machine

variable {s t : State}

/-! ### The cut-off -/

theorem State.mem_cutOffTarget (s : State) (o : Option Entry) (n : Nat) :
    n ∈ (s.cutOffTarget o).unsettled ↔
      n ∈ s.unsettled ∨ ∃ e tg, o = some e ∧ e.target = some tg ∧ n ∈ tg.pages := by
  unfold State.cutOffTarget
  cases o with
  | none => simp
  | some e => cases ht : e.target <;> simp [ht, State.mem_unsettle]

/-- R4, R73: the pages of the targets of the active entry and of the parked erase are unsettled. -/
theorem State.mem_cutOff (s : State) (n : Nat) : n ∈ s.cutOff.unsettled ↔ n ∈ s.unsettled ∨
    ∃ e tg, (s.activeEntry = some e ∨ s.parkedErase = some e) ∧ e.target = some tg ∧ n ∈ tg.pages := by
  unfold State.cutOff
  rw [State.mem_cutOffTarget, State.mem_cutOffTarget]
  constructor
  · rintro ((h | ⟨e, tg, he, ht⟩) | ⟨e, tg, he, ht⟩)
    · exact .inl h
    · exact .inr ⟨e, tg, .inl he, ht⟩
    · exact .inr ⟨e, tg, .inr he, ht⟩
  · rintro (h | ⟨e, tg, he | he, ht⟩)
    · exact .inl (.inl h)
    · exact .inl (.inr ⟨e, tg, he, ht⟩)
    · exact .inr ⟨e, tg, he, ht⟩

/-! ### Power -/

theorem SupplyState.after_failed (mv : Nat) :
    SupplyState.failed.after mv = if 2600 < mv then .marginal else .failed := rfl

/-- R172: below 2.45 V the supply fails. -/
theorem SupplyState.after_low {x : SupplyState} {mv : Nat} (hx : x ≠ .failed) (h : mv < 2450) : x.after mv = .failed := by
  cases x with
  | normal => rw [SupplyState.after_normal, if_pos h]
  | marginal => rw [SupplyState.after_marginal, if_pos h]
  | failed => exact absurd rfl hx

theorem execSupplyFailed_of {mv : Nat} (hs : s.supply ≠ .failed) (h : mv < 2450) :
    execSupplyFailed mv s = .next (s.cutOff.powerOnValues .failed .inert) := by
  unfold execSupplyFailed
  rw [if_pos ⟨hs, SupplyState.after_low hs h⟩]

theorem execPowerOnDetection_of {mv : Nat} (hs : s.supply = .failed) : execPowerOnDetection mv s =
    if 2600 < mv then .next (s.powerOnValues .marginal (if s.resetLow then .inert else .deselected))
    else .refused .notThisSupplyChange := by
  unfold execPowerOnDetection
  rw [hs, SupplyState.after_failed]
  by_cases h : 2600 < mv <;> simp [h]

/-- Settles O46: the cut-off, and the power-on values of everything but the array, the slots and RESET#. -/
theorem powerFailsAndReturns : Obligations.PowerFailsAndReturns := by
  refine ⟨fun s mv hs h => ⟨s.cutOff.unsettled, ?_, s.mem_cutOff⟩, fun s mv hs h => ?_, fun s mv hs h => ?_⟩
  · show execSupplyFailed mv s = _
    rw [execSupplyFailed_of hs h]
    conv_lhs => rw [State.cutOff_eq]
    rfl
  · show execPowerOnDetection mv s = _
    rw [execPowerOnDetection_of hs, if_pos h]
    rfl
  · show execPowerOnDetection mv s = _
    rw [execPowerOnDetection_of hs, if_neg (by omega)]

/-! ### RESET# -/

theorem State.cutOffItems_eq (s : State) : s.cutOffItems =
    s.activeEntry.toList.map (fun e => (⟨e.kind, e.targetAddr, e.port, e.tag, false⟩ : InterruptedItem)) ++
      s.parkedErase.toList.map (fun e => ⟨e.kind, e.targetAddr, e.port, e.tag, true⟩) := by
  unfold State.cutOffItems
  cases s.activeEntry <;> cases s.parkedErase <;> rfl

/-- What the fall of RESET# leaves while the supply has not failed, and what more it does (R180). -/
def State.Fallen (s t : State) (more : Prop) : Prop :=
  t.resetLow = true ∧ t.device = .starting ∧ t.queue = [] ∧ t.arrival = 0 ∧
  t.window = none ∧ t.noted = none ∧ t.holders = ⟨0, 0, 0, 0⟩ ∧ t.staged = none ∧ t.commitImage = none ∧
  t.leaseClock = false ∧ (∀ u ∈ t.buffers, u.state = .free) ∧
  (∀ i r, t.region i = some r → r.lease = ⟨.free, none, 0, [], 0⟩) ∧
  (∀ p, (t.port p).frame = .inert ∧ (t.port p).lastResponse = .ok ∧ (t.port p).conflictSeen = false ∧
    (t.port p).deniedSeen = false ∧ (t.port p).handles = [none, none, none, none] ∧
    (t.port p).completions = [] ∧ (t.port p).sequence = 0 ∧ (t.port p).latched = .none ∧
    (t.port p).mailbox = none ∧ t.alertLow p = false) ∧
  t.mem = s.mem ∧ t.slotX = s.slotX ∧ t.slotY = s.slotY ∧ t.supply = s.supply ∧ t.interrupted = s.interrupted ∧
  t.engine = (if t.stopping = [] then .idle else s.engine) ∧ more

/-- A port at the fall of RESET# has no pending notice. -/
theorem State.atReset_alertLow (s : State) (items : List InterruptedItem) (p : Port) :
    (s.atReset items).alertLow p = false := by
  unfold State.alertLow
  rw [State.atReset_port]
  rfl

/-- At the fall nothing but the unsettled pages of the array is a matter of the cut-off. -/
theorem State.fallen_atReset (s : State) (pages : List Nat) (items : List InterruptedItem) {more : Prop} (h : more) :
    s.Fallen (({ s with unsettled := pages } : State).atReset items) more := by
  refine ⟨rfl, rfl, rfl, rfl, rfl, rfl, rfl, rfl, rfl, rfl, fun u hu => ?_, fun i r hr => ?_, fun p => ?_, rfl, rfl, rfl,
    rfl, rfl, ?_, h⟩
  · obtain ⟨b, -, rfl⟩ := List.mem_map.1 (show u ∈ s.buffers.map (fun b => { b with state := .free }) from hu)
    rfl
  · rw [State.atReset_region] at hr
    obtain ⟨r', -, rfl⟩ := Option.map_eq_some_iff.1 hr
    rfl
  · rw [State.atReset_alertLow, State.atReset_port]
    exact ⟨rfl, rfl, rfl, rfl, rfl, rfl, rfl, rfl, rfl, rfl⟩
  · show (if items.isEmpty then EngineState.idle else s.engine) = if items = [] then .idle else s.engine
    cases items <;> rfl

theorem State.cutOff_atReset (s : State) (items : List InterruptedItem) :
    s.cutOff.atReset items = ({ s with unsettled := s.cutOff.unsettled } : State).atReset items := by
  conv_lhs => rw [State.cutOff_eq]

theorem execResetFall_of (hlow : s.resetLow = false) (hs : s.supply ≠ .failed) : execResetFall s =
    .next (if s.stopping ≠ [] then s.atReset s.stopping else s.cutOff.atReset s.cutOffItems) := by
  unfold execResetFall
  rw [hlow, if_neg nofun, if_neg hs]
  split <;> rfl

theorem execResetRise_of (hlow : s.resetLow = true) (hs : s.supply ≠ .failed) :
    execResetRise s = .next { s with resetLow := false }.deselectAll := by
  simp [execResetRise, hlow, hs]

/-- Settles O47: the fall, the stop that hands the items over, and the rise. -/
theorem resetFallAndRise : Obligations.ResetFallAndRise := by
  refine ⟨fun s hlow hs => ?_, fun s => ⟨State.arrayStops_of_nil, fun h => ?_⟩, fun s => ⟨fun hlow hs => ?_,
    fun hlow hs => ?_, fun hlow hs => ?_⟩⟩
  · refine ⟨_, execResetFall_of hlow hs, ?_⟩
    by_cases hstop : s.stopping = []
    · rw [if_neg (not_not.2 hstop), State.cutOff_atReset]
      exact s.fallen_atReset _ _ ⟨fun h => absurd hstop h, fun _ => ⟨s.cutOffItems_eq, s.mem_cutOff⟩⟩
    · rw [if_pos hstop]
      exact s.fallen_atReset s.unsettled _ ⟨fun _ => ⟨rfl, rfl⟩, fun h => absurd h hstop⟩
  · refine ⟨State.arrayStops_of_ne_nil h, fun outcome => ?_, ?_⟩
    · show execOperationEnd outcome s = _
      unfold execOperationEnd
      rw [if_pos (.inr (.inr h))]
    · show execSuspendPoint s = _
      unfold execSuspendPoint
      rw [if_neg fun hc => h hc.2]
  · show execResetRise s = _
    rw [execResetRise_of hlow hs]
    rfl
  · show execResetRise s = _
    simp [execResetRise, hlow, hs]
  · show execResetFall s = _
    simp [execResetFall, hlow, hs]

end Sys2Proof.Machine
end

section
/-! Start-up, step by step (R156, R157, R172, R177, R178, R179, R181). -/

namespace Sys2Proof.Machine

variable {s t : State} {k j : StartUpStep} {mv : Nat}

/-! ### What a row of start-up runs -/

theorem startUpOrder_drop (k : StartUpStep) :
    startUpOrder.drop (startUpPlace k) = k :: startUpOrder.drop (startUpPlace k + 1) := by
  cases k <;> rfl

theorem startUpPlace_eq (k : StartUpStep) :
    [StartUpStep.slotChoice, .mapLoad, .enables, .assessment, .ready].idxOf k = startUpPlace k := by
  cases k <;> rfl

theorem State.StartUpDue.exec (h : s.StartUpDue) (k : StartUpStep) (mv : Nat) : exec (.startUp ⟨k, mv⟩) s =
    .next (((startUpOrder.drop s.startUpSteps).take (startUpPlace k + 1 - s.startUpSteps)).foldl
      (State.startUpStep mv) s) := by
  show execStartUp ⟨k, mv⟩ s = _
  unfold execStartUp
  rw [if_pos ⟨h.device, h.low, h.supply⟩, State.arrayStops_of_nil h.stopped, State.stepsThrough_eq_drop_take]

/-- The row of the step that is due makes that step. -/
theorem State.StartUpDue.exec_one (h : s.StartUpDue) (hk : s.startUpSteps = startUpPlace k) (mv : Nat) :
    Machine.exec (.startUp ⟨k, mv⟩) s = .next (s.startUpStep mv k) := by
  have hone : startUpPlace k + 1 - startUpPlace k = 1 := by omega
  rw [h.exec, hk, startUpOrder_drop, hone]
  rfl

/-- The row of a later step makes the due step first, and then does what it does from there. -/
theorem State.StartUpDue.exec_later (h : s.StartUpDue) (hk : s.startUpSteps = startUpPlace k)
    (hj : startUpPlace k < startUpPlace j) (mv : Nat) :
    Machine.exec (.startUp ⟨j, mv⟩) s = Machine.exec (.startUp ⟨j, mv⟩) (s.startUpStep mv k) := by
  have hlast : startUpPlace j ≤ 4 := by cases j <;> decide
  have hready : k ≠ .ready := by
    rintro rfl
    exact absurd hlast (by simpa [startUpPlace] using hj)
  obtain ⟨hdue, hsteps⟩ := h.step mv hready
  have hcount : startUpPlace j + 1 - startUpPlace k = startUpPlace j + 1 - (startUpPlace k + 1) + 1 := by omega
  rw [h.exec, hdue.exec, hsteps, hk, startUpOrder_drop, hcount, List.take_succ_cons, List.foldl_cons]

/-- The row of a step that is made changes nothing (log 17). -/
theorem State.StartUpDue.exec_made (h : s.StartUpDue) (hk : startUpPlace k < s.startUpSteps) (mv : Nat) :
    Machine.exec (.startUp ⟨k, mv⟩) s = .next s := by
  have hnone : startUpPlace k + 1 - s.startUpSteps = 0 := by omega
  rw [h.exec, hnone]
  rfl

/-- Where a cut-off is unfinished, the row waits for the stop of the array (log 16). -/
theorem execStartUp_arrayStops (run : StartUpRun) (s : State) : execStartUp run s = execStartUp run s.arrayStops := by
  have hstops : s.arrayStops.arrayStops = s.arrayStops := State.arrayStops_of_nil s.arrayStops_stopping
  have hsteps : s.arrayStops.stepsThrough run.through = s.stepsThrough run.through := by
    unfold State.stepsThrough
    rw [State.arrayStops_startUpSteps]
  unfold execStartUp
  rw [State.arrayStops_device, State.arrayStops_resetLow, State.arrayStops_supply, hstops, hsteps]

/-! ### What each step does -/

/-- The three ports, each changed alike. -/
def State.mapPorts (s : State) (f : PortState → PortState) : PerPort PortState :=
  ⟨f s.ports.a, f s.ports.b, f s.ports.c⟩

/-- R122, R173: DEVICE_EVENT posted to a port. -/
def PortState.eventPosted (q : PortState) : PortState :=
  { q with
    latched := { q.latched with deviceEvent := true }
    postedSinceView := { q.postedSinceView with deviceEvent := true } }

theorem State.startUpStep_slotChoice (s : State) (mv : Nat) : s.startUpStep mv .slotChoice = { s with
    currentSlot := chooseSlot s.slotX s.slotY
    mapDefaulted := (chooseSlot s.slotX s.slotY).isNone
    startUpSteps := 1 } := rfl

theorem State.startUpStep_mapLoad (s : State) (mv : Nat) : s.startUpStep mv .mapLoad = { s with
    generation := s.startGeneration
    regions := regionIndices.map (fun i => ((s.startImage.regions[i]?).join).map (fun d => ⟨d, freshLease⟩))
    authority := s.startImage.authority
    ports := ⟨{ s.ports.a with profile := s.startImage.profiles.a },
      { s.ports.b with profile := s.startImage.profiles.b }, { s.ports.c with profile := s.startImage.profiles.c }⟩
    startUpSteps := 2 } := by
  unfold State.startUpStep State.loadMap
  generalize s.startImage = m
  rfl

theorem State.startUpStep_enables (s : State) (mv : Nat) : s.startUpStep mv .enables = { s with
    ports := s.mapPorts (fun q => { q with enables := .all })
    startUpSteps := 3 } := rfl

theorem State.startUpStep_assessment (s : State) (mv : Nat) : s.startUpStep mv .assessment = { s with
    supply := if 2850 < mv then .normal else .marginal
    startUpSteps := 4 } := rfl

theorem State.startUpStep_ready (s : State) (mv : Nat) : s.startUpStep mv .ready = { s with
    device := .ready
    leaseClock := true
    startUpSteps := 0
    ports := s.mapPorts PortState.eventPosted } := rfl

/-- The table that the map load makes. -/
theorem State.region_mapLoad (s : State) (mv : Nat) {i : Nat} (hi : i < 16) : (s.startUpStep mv .mapLoad).region i =
    ((s.startImage.regions[i]?).join).map (fun d => ⟨d, ⟨.free, none, 0, [], 0⟩⟩) := by
  have htable : (s.startUpStep mv .mapLoad).regions =
      regionIndices.map (fun i => ((s.startImage.regions[i]?).join).map (fun d => ⟨d, freshLease⟩)) := by
    rw [State.startUpStep_mapLoad]
  rw [State.region_of_map htable, if_pos hi]
  rfl

/-! ### The choice of the slot -/

theorem chooseSlot_none {x y : Slot} : (chooseSlot x y).isNone = true ↔ x.mark = false ∧ y.mark = false := by
  unfold chooseSlot
  cases x.mark <;> cases y.mark <;> simp
  split <;> exact nofun

theorem chooseSlot_x {x y : Slot} (hx : x.mark = true) (h : y.mark = true → y.generation.toNat < x.generation.toNat ∨
    y.generation = x.generation) : chooseSlot x y = some .x := by
  unfold chooseSlot
  rw [hx]
  cases hy : y.mark with
  | false => rfl
  | true =>
    refine if_neg ?_
    rcases h hy with hlt | heq
    · omega
    · rw [heq]
      omega

theorem chooseSlot_y {x y : Slot} (hy : y.mark = true) (h : x.mark = true → x.generation.toNat < y.generation.toNat) :
    chooseSlot x y = some .y := by
  unfold chooseSlot
  rw [hy]
  cases hx : x.mark with
  | false => rfl
  | true => exact if_pos (h hx)

/-! ### The whole of start-up -/

/-- The state after start-up, from its first step on, where an image and a generation are loaded. -/
def State.startedUp (s : State) (m : MapImage) (g : Word16) (mv : Nat) : State :=
  { s with
    currentSlot := chooseSlot s.slotX s.slotY
    mapDefaulted := (chooseSlot s.slotX s.slotY).isNone
    generation := g
    regions := regionIndices.map (fun i => ((m.regions[i]?).join).map (fun d => ⟨d, freshLease⟩))
    authority := m.authority
    ports := ⟨{ s.ports.a.eventPosted with profile := m.profiles.a, enables := .all },
      { s.ports.b.eventPosted with profile := m.profiles.b, enables := .all },
      { s.ports.c.eventPosted with profile := m.profiles.c, enables := .all }⟩
    supply := if 2850 < mv then .normal else .marginal
    device := .ready
    leaseClock := true
    startUpSteps := 0 }

theorem State.startedUp_eq (s : State) (mv : Nat) :
    startUpOrder.foldl (State.startUpStep mv) s =
      s.startedUp (s.startUpStep mv .slotChoice).startImage (s.startUpStep mv .slotChoice).startGeneration mv := by
  unfold startUpOrder
  rw [List.foldl_cons, List.foldl_cons, State.startUpStep_mapLoad]
  generalize (s.startUpStep mv .slotChoice).startImage = m
  generalize (s.startUpStep mv .slotChoice).startGeneration = g
  rw [List.foldl_cons, List.foldl_cons, List.foldl_cons, List.foldl_nil, State.startUpStep_slotChoice,
    State.startUpStep_enables, State.startUpStep_assessment, State.startUpStep_ready]
  rfl

theorem State.StartUpDue.exec_all (h : s.StartUpDue) (h0 : s.startUpSteps = 0) (mv : Nat) :
    Machine.exec (.startUp ⟨.ready, mv⟩) s = .next
      (s.startedUp (s.startUpStep mv .slotChoice).startImage (s.startUpStep mv .slotChoice).startGeneration mv) := by
  rw [h.exec, h0, ← State.startedUp_eq]
  rfl

theorem State.region_startedUp (s : State) (m : MapImage) (g : Word16) (mv : Nat) {i : Nat} (hi : i < 16) :
    (s.startedUp m g mv).region i = ((m.regions[i]?).join).map (fun d => ⟨d, ⟨.free, none, 0, [], 0⟩⟩) := by
  have htable : (s.startedUp m g mv).regions =
      regionIndices.map (fun i => ((m.regions[i]?).join).map (fun d => ⟨d, freshLease⟩)) := rfl
  rw [State.region_of_map htable, if_pos hi]
  rfl

theorem State.port_startedUp (s : State) (m : MapImage) (g : Word16) (mv : Nat) (p : Port) :
    (s.startedUp m g mv).port p = { (s.port p).eventPosted with profile := m.profiles.get p, enables := .all } := by
  cases p <;> rfl

/-- What start-up loads, by the slot chosen. -/
theorem State.startImage_slotChoice (s : State) (mv : Nat) {n : SlotName}
    (h : chooseSlot s.slotX s.slotY = some n) :
    (s.startUpStep mv .slotChoice).startImage = (s.slot n).image ∧
      (s.startUpStep mv .slotChoice).startGeneration = (s.slot n).generation := by
  rw [State.startUpStep_slotChoice, h]
  cases n <;> exact ⟨rfl, rfl⟩

theorem State.startImage_factory (s : State) (mv : Nat) (h : chooseSlot s.slotX s.slotY = none) :
    (s.startUpStep mv .slotChoice).startImage = factoryMap ∧ (s.startUpStep mv .slotChoice).startGeneration = 0 := by
  rw [State.startUpStep_slotChoice, h]
  exact ⟨rfl, rfl⟩

/-! ### Start-up that RESET# abandons -/

/-- A start-up that has begun, and is not assessed: from there the row of READY does what it does from the first step. -/
structure State.Begun (s t : State) : Prop where
  due : t.StartUpDue
  latched : ∀ p, (t.port p).latched = (s.port p).latched
  clock : t.leaseClock = s.leaseClock
  supply : t.supply = s.supply
  later : ∀ mv, exec (.startUp ⟨.ready, mv⟩) t = exec (.startUp ⟨.ready, mv⟩) s

theorem State.startUpStep_begun (s : State) (mv : Nat) (hk : k ≠ .ready) :
    (∀ p, ((s.startUpStep mv k).port p).latched = (s.port p).latched) ∧
      (s.startUpStep mv k).leaseClock = s.leaseClock := by
  cases k with
  | slotChoice => exact ⟨fun p => rfl, rfl⟩
  | mapLoad =>
    rw [State.startUpStep_mapLoad]
    exact ⟨fun p => by cases p <;> rfl, rfl⟩
  | enables => exact ⟨fun p => by cases p <;> rfl, rfl⟩
  | assessment => exact ⟨fun p => rfl, rfl⟩
  | ready => exact absurd rfl hk

theorem State.Begun.step (h : s.Begun t) (hk : t.startUpSteps = startUpPlace k) (hlate : startUpPlace k < 3) (mv : Nat) :
    s.Begun (t.startUpStep mv k) ∧ (t.startUpStep mv k).startUpSteps = startUpPlace k + 1 := by
  have hready : k ≠ .ready := by
    rintro rfl
    exact absurd hlate (by decide)
  have hassess : k ≠ .assessment := by
    rintro rfl
    exact absurd hlate (by decide)
  have hsame : ∀ mv', t.startUpStep mv' k = t.startUpStep mv k := by
    intro mv'
    cases k <;> first | rfl | exact absurd rfl hassess
  have hsupply : (t.startUpStep mv k).supply = t.supply := by
    cases k <;> first | rfl | exact absurd rfl hassess
  obtain ⟨hdue, hsteps⟩ := h.due.step mv hready
  obtain ⟨hlatched, hclock⟩ := t.startUpStep_begun mv hready
  refine ⟨⟨hdue, fun p => (hlatched p).trans (h.latched p), hclock.trans h.clock, hsupply.trans h.supply,
    fun mv' => ?_⟩, hsteps⟩
  rw [← h.later mv', h.due.exec_later (j := .ready) hk (by simpa [startUpPlace] using Nat.lt_succ_of_lt hlate) mv',
    hsame mv']

/-- The fall of RESET# abandons it; MAP_DEFAULTED and the supply state stay (log 27). -/
theorem State.StartUpDue.resetFall (h : s.StartUpDue) : ∃ u, Machine.exec .resetFall s = .next u ∧ u.startUpSteps = 0 ∧
    u.device = .starting ∧ u.mapDefaulted = s.mapDefaulted ∧ u.supply = s.supply := by
  refine ⟨_, execResetFall_of h.low h.supply, ?_⟩
  rw [if_neg (not_not.2 h.stopped), State.cutOff_atReset]
  exact ⟨rfl, rfl, rfl, rfl⟩

/-- Where start-up up to a step before the last leads, from the first. -/
structure State.Reaches (s : State) (k : StartUpStep) (mv : Nat) (t : State) : Prop where
  row : exec (.startUp ⟨k, mv⟩) s = .next t
  due : t.StartUpDue
  latched : ∀ p, (t.port p).latched = (s.port p).latched
  clock : t.leaseClock = s.leaseClock
  supply : t.supply = (if k = .assessment then (if 2850 < mv then .normal else .marginal) else s.supply)
  later : k ≠ .assessment → ∀ mv', exec (.startUp ⟨.ready, mv'⟩) t = exec (.startUp ⟨.ready, mv'⟩) s

theorem State.Begun.reaches (h : s.Begun t) (hk : k ≠ .assessment) (hrow : exec (.startUp ⟨k, mv⟩) s = .next t) :
    s.Reaches k mv t :=
  ⟨hrow, h.due, h.latched, h.clock, by rw [if_neg hk]; exact h.supply, fun _ => h.later⟩

theorem State.StartUpDue.reaches (h : s.StartUpDue) (h0 : s.startUpSteps = 0) (hk : k ≠ .ready) (mv : Nat) :
    ∃ t, s.Reaches k mv t := by
  have begun : s.Begun s := ⟨h, fun _ => rfl, rfl, rfl, fun _ => rfl⟩
  obtain ⟨chosen, hsteps1⟩ := begun.step (k := .slotChoice) h0 (by decide) mv
  obtain ⟨loaded, hsteps2⟩ := chosen.step (k := .mapLoad) hsteps1 (by decide) mv
  obtain ⟨enabled, hsteps3⟩ := loaded.step (k := .enables) hsteps2 (by decide) mv
  cases k with
  | slotChoice => exact ⟨_, chosen.reaches nofun (h.exec_one (k := .slotChoice) h0 mv)⟩
  | mapLoad =>
    refine ⟨_, loaded.reaches nofun ?_⟩
    rw [h.exec_later (k := .slotChoice) h0 (by decide) mv]
    exact chosen.due.exec_one (k := .mapLoad) hsteps1 mv
  | enables =>
    refine ⟨_, enabled.reaches nofun ?_⟩
    rw [h.exec_later (k := .slotChoice) h0 (by decide) mv, chosen.due.exec_later (k := .mapLoad) hsteps1 (by decide) mv]
    exact loaded.due.exec_one (k := .enables) hsteps2 mv
  | assessment =>
    obtain ⟨hdue, -⟩ := enabled.due.step (k := .assessment) mv nofun
    obtain ⟨hlatched, hclock⟩ := State.startUpStep_begun
      (((s.startUpStep mv .slotChoice).startUpStep mv .mapLoad).startUpStep mv .enables) (k := .assessment) mv nofun
    refine ⟨_, ?_, hdue, fun p => (hlatched p).trans (enabled.latched p), hclock.trans enabled.clock, rfl,
      fun h => absurd rfl h⟩
    rw [h.exec_later (k := .slotChoice) h0 (by decide) mv, chosen.due.exec_later (k := .mapLoad) hsteps1 (by decide) mv,
      loaded.due.exec_later (k := .enables) hsteps2 (by decide) mv]
    exact enabled.due.exec_one (k := .assessment) hsteps3 mv
  | ready => exact absurd rfl hk

end Sys2Proof.Machine
end

section
/-! What start-up loads, and the statement about it. -/

namespace Sys2Proof.Machine

variable {s t : State} {mv : Nat}

/-- R156: slot n is chosen over slot o. -/
def State.better (s : State) (n o : SlotName) : Prop := (s.slot n).mark = true ∧
  ((s.slot o).mark = true → (s.slot o).generation.toNat < (s.slot n).generation.toNat ∨
    (s.slot o).generation = (s.slot n).generation ∧ n = .x)

theorem State.chooseSlot_of_better_x (h : s.better .x .y) : chooseSlot s.slotX s.slotY = some .x :=
  chooseSlot_x h.1 fun hy => (h.2 hy).imp_right And.left

theorem State.chooseSlot_of_better_y (h : s.better .y .x) : chooseSlot s.slotX s.slotY = some .y :=
  chooseSlot_y h.1 fun hx => (h.2 hx).resolve_right fun hn => nomatch hn.2

/-- The image and the generation that start-up loads, in each case (R156, R157, R158). -/
theorem State.loads_cases (s : State) (mv : Nat) :
    let m := (s.startUpStep mv .slotChoice).startImage
    let g := (s.startUpStep mv .slotChoice).startGeneration
    (s.better .x .y → chooseSlot s.slotX s.slotY = some .x ∧ m = s.slotX.image ∧ g = s.slotX.generation) ∧
    (s.better .y .x → chooseSlot s.slotX s.slotY = some .y ∧ m = s.slotY.image ∧ g = s.slotY.generation) ∧
    (s.slotX.mark = false → s.slotY.mark = false →
      chooseSlot s.slotX s.slotY = none ∧ m = factoryMap ∧ g = 0) := by
  refine ⟨fun h => ?_, fun h => ?_, fun hx hy => ?_⟩
  · have hchoice := State.chooseSlot_of_better_x h
    exact ⟨hchoice, s.startImage_slotChoice mv hchoice⟩
  · have hchoice := State.chooseSlot_of_better_y h
    exact ⟨hchoice, s.startImage_slotChoice mv hchoice⟩
  · have hchoice : chooseSlot s.slotX s.slotY = none := by simp only [chooseSlot, hx, hy]
    exact ⟨hchoice, s.startImage_factory mv hchoice⟩

/-- The whole of start-up from its first step. -/
theorem startUp_whole (s : State) (mv : Nat) (hd : s.device = .starting) (h0 : s.startUpSteps = 0)
    (hstop : s.stopping = []) (hlow : s.resetLow = false) (hsup : s.supply ≠ .failed) :
    ∃ (t : State) (m : MapImage), exec (.startUp ⟨.ready, mv⟩) s = .next t ∧
      (s.better .x .y → t.currentSlot = some .x ∧ m = s.slotX.image ∧ t.generation = s.slotX.generation) ∧
      (s.better .y .x → t.currentSlot = some .y ∧ m = s.slotY.image ∧ t.generation = s.slotY.generation) ∧
      (s.slotX.mark = false → s.slotY.mark = false →
        t.currentSlot = none ∧ m = factoryMap ∧ t.generation = 0) ∧
      (t.mapDefaulted = true ↔ s.slotX.mark = false ∧ s.slotY.mark = false) ∧
      (∀ i, i < 16 → t.region i = ((m.regions[i]?).join).map (fun d => ⟨d, ⟨.free, none, 0, [], 0⟩⟩)) ∧
      t.authority = m.authority ∧
      (∀ p, (t.port p).profile = m.profiles.get p ∧ (t.port p).enables = .all ∧
        (t.port p).latched = { (s.port p).latched with deviceEvent := true } ∧
        { t.port p with
          profile := (s.port p).profile
          enables := (s.port p).enables
          latched := (s.port p).latched
          postedSinceView := (s.port p).postedSinceView } = s.port p) ∧
      t.supply = (if 2850 < mv then .normal else .marginal) ∧ t.device = .ready ∧ t.leaseClock = true ∧
      { t with
        currentSlot := s.currentSlot
        generation := s.generation
        mapDefaulted := s.mapDefaulted
        regions := s.regions
        authority := s.authority
        ports := s.ports
        supply := s.supply
        device := s.device
        leaseClock := s.leaseClock } = s := by
  have hdue : s.StartUpDue := ⟨hd, hlow, hsup, hstop⟩
  obtain ⟨hx, hy, hnone⟩ := s.loads_cases mv
  have hrun := hdue.exec_all h0 mv
  generalize (s.startUpStep mv .slotChoice).startImage = m at hx hy hnone hrun
  generalize (s.startUpStep mv .slotChoice).startGeneration = g at hx hy hnone hrun
  refine ⟨_, m, hrun, hx, hy, hnone, chooseSlot_none, fun i hi => s.region_startedUp m g mv hi, rfl, fun p => ?_, rfl, rfl,
    rfl, ?_⟩
  · rw [State.port_startedUp]
    exact ⟨rfl, rfl, rfl, rfl⟩
  · unfold State.startedUp
    rw [← h0]

/-- Slot choice alone, and any step before the last, from the first. -/
theorem startUp_begun (s : State) (mv : Nat) (hd : s.device = .starting) (h0 : s.startUpSteps = 0)
    (hstop : s.stopping = []) (hlow : s.resetLow = false) (hsup : s.supply ≠ .failed) :
    (∃ t, exec (.startUp ⟨.slotChoice, mv⟩) s = .next t ∧
      (t.mapDefaulted = true ↔ s.slotX.mark = false ∧ s.slotY.mark = false) ∧ t.startUpSteps = 1 ∧
      { t with currentSlot := s.currentSlot, mapDefaulted := s.mapDefaulted, startUpSteps := 0 } = s) ∧
    (∀ k mv', k ≠ .ready → ∃ t, exec (.startUp ⟨k, mv'⟩) s = .next t ∧ t.device = .starting ∧
      (∀ p, (t.port p).latched = (s.port p).latched) ∧ t.leaseClock = s.leaseClock ∧
      t.supply = (if k = .assessment then (if 2850 < mv' then .normal else .marginal) else s.supply) ∧
      (k ≠ .assessment → exec (.startUp ⟨.ready, mv⟩) t = exec (.startUp ⟨.ready, mv⟩) s) ∧
      ∃ u, exec .resetFall t = .next u ∧ u.startUpSteps = 0 ∧ u.device = .starting ∧
        u.mapDefaulted = t.mapDefaulted ∧ u.supply = t.supply) := by
  have hdue : s.StartUpDue := ⟨hd, hlow, hsup, hstop⟩
  refine ⟨⟨_, hdue.exec_one (k := .slotChoice) h0 mv, chooseSlot_none, rfl, ?_⟩, fun k mv' hk => ?_⟩
  · rw [State.startUpStep_slotChoice, ← h0]
  · obtain ⟨t, h⟩ := hdue.reaches h0 hk mv'
    exact ⟨t, h.row, h.due.device, h.latched, h.clock, h.supply, fun hka => h.later hka mv, h.due.resetFall⟩

/-- Settles O48: the whole, the beginning, the wait, and each step by itself. -/
theorem startUpLoadsTheCurrentSlot : Obligations.StartUpLoadsTheCurrentSlot := by
  refine ⟨startUp_whole, startUp_begun, fun s run h => ?_, ?_⟩
  · show execStartUp run s = execStartUp run _
    rw [execStartUp_arrayStops, State.arrayStops_of_ne_nil h]
  · intro s mv hd hstop hlow hsup place one ports
    have hdue : s.StartUpDue := ⟨hd, hlow, hsup, hstop⟩
    have hone : ∀ k, s.startUpSteps = startUpPlace k → one k (s.startUpStep mv k) := fun k hk =>
      ⟨hdue.exec_one hk mv, fun j hj => hdue.exec_later hk (by simpa only [place, startUpPlace_eq] using hj) mv⟩
    refine ⟨fun h => ⟨_, hone .mapLoad h, fun i hi => s.region_mapLoad mv hi, ?_⟩, fun h => hone .enables h,
      fun h => hone .assessment h, fun h => hone .ready h, fun k hk => ?_⟩
    · rw [State.startUpStep_mapLoad]
      rfl
    · exact hdue.exec_made (by simpa only [place, startUpPlace_eq] using hk) mv

end Sys2Proof.Machine
end

section
/-! The decoder (R136 to R142, R185, R187): what complete frames, short frames and unknown opcodes decode to. -/

namespace Sys2Proof.Machine

variable {p : Port} {op : Byte} {rest : List Byte} {short : List Instr}

/-! ### Opcodes -/

theorem frameShape_of_not_mem (h : op ∉ commandOpcodes) : frameShape op = none := by
  simp only [commandOpcodes, List.mem_cons, List.not_mem_nil, or_false, not_or] at h
  simp only [frameShape, h, or_self, if_false]

theorem mem_commandOpcodes_iff : op ∈ commandOpcodes ↔ frameShape op ≠ none := by
  have known : ∀ op ∈ commandOpcodes, frameShape op ≠ none := by decide
  exact ⟨known op, fun h => by_contra fun hno => h (frameShape_of_not_mem hno)⟩

/-- The opcodes of the commands with bytes in their fixed part (R187). -/
def fieldOpcodes : List Byte :=
  [0x48, 0x4C, 0x56, 0x57, 0x59, 0x5A, 0x93, 0x95, 0x96, 0x97, 0x9A, 0xA2, 0xA4, 0xA6, 0xA9, 0xC1, 0xC3, 0xC6, 0xE6,
   0xE8]

theorem mem_fieldOpcodes {m : Nat} {after : AfterFixed} (hs : frameShape op = some (m, after)) (hm : 0 < m) :
    op ∈ fieldOpcodes := by
  have sorted : ∀ op ∈ commandOpcodes, op ∈ fieldOpcodes ∨ (frameShape op).map Prod.fst = some 0 := by decide
  have hop : op ∈ commandOpcodes := mem_commandOpcodes_iff.2 (by rw [hs]; exact nofun)
  refine (sorted op hop).resolve_right fun h => ?_
  rw [hs] at h
  exact absurd (Option.some.inj h) (Nat.pos_iff_ne_zero.1 hm)

/-! ### Frames with no command -/

/-- R139: a complete opcode that no command has. -/
theorem decodeCommand_unknown (h : op ∉ commandOpcodes) : decodeCommand p op rest short = [.unknownOpcode p op] := by
  simp only [commandOpcodes, List.mem_cons, List.not_mem_nil, or_false, not_or] at h
  simp only [decodeCommand, h, if_false]

/-- R140, R142: a frame of a known opcode that ends inside its fixed part. -/
theorem decodeCommand_short {m : Nat} {after : AfterFixed} (hs : frameShape op = some (m, after)) (hlen : rest.length < m) :
    decodeCommand p op rest short = if after = .stream ∨ op = 0x9A then [.inquiryDropped p] else short := by
  have hop := mem_fieldOpcodes hs (Nat.zero_lt_of_lt hlen)
  simp only [fieldOpcodes, List.mem_cons, List.not_mem_nil, or_false] at hop
  rcases hop with rfl | rfl | rfl | rfl | rfl | rfl | rfl | rfl | rfl | rfl | rfl | rfl | rfl | rfl | rfl | rfl | rfl |
    rfl | rfl | rfl
  all_goals
    cases hs
    simp only [decodeCommand, decodeArrayRead, BitVec.reduceEq, if_true, if_false, reduceCtorEq, or_self, or_true, true_or]
    split
    · simp only [List.length_cons] at hlen
      omega
    · rfl

/-- Settles O3: by what has been received, and by the length of the fixed part. -/
theorem shortFramesCarryNoCommand : Obligations.ShortFramesCarryNoCommand := by
  refine fun p k => ⟨rfl, fun hk => ?_, fun op fields m after hs hlen => ?_, fun op fields hs => ?_⟩
  · exact if_neg (Nat.pos_iff_ne_zero.1 hk)
  · exact decodeCommand_short hs hlen
  · exact decodeCommand_unknown fun hop => mem_commandOpcodes_iff.1 hop hs

/-! ### Frames with a command -/

theorem addrOf_bytes (x : Addr) : addrOf (byteOf (x.toNat / 65536)) (byteOf (x.toNat / 256)) (byteOf x.toNat) = x := by
  have hx := x.isLt
  unfold addrOf byteOf
  refine BitVec.eq_of_toNat_eq ?_
  simp only [BitVec.toNat_ofNat]
  omega

/-- The frame of a command with no data phase in, and whatever comes after it. -/
theorem decodeFrame_encodeFrame {i : Instr} {bs : List Byte} (hw : i.wellFormed = true) (hl : i.isLoad = false)
    (h : encodeFrame i = some (p, bs)) (more : List Byte) (k : Nat) : (decodeFrame p ⟨bs ++ more, k⟩).head? = some i := by
  cases i with
  | loadBuffer r handle offset data => cases hl
  | loadBufferQuad r handle offset data => cases hl
  | readArray r x =>
    cases h
    exact congrArg (fun y => some (Instr.readArray p y)) (addrOf_bytes x)
  | quadReadArray r x =>
    cases h
    exact congrArg (fun y => some (Instr.quadReadArray p y)) (addrOf_bytes x)
  | submitProgram r handle x tag cls =>
    cases h
    exact congrArg (fun y => some (Instr.submitProgram p handle y tag cls)) (addrOf_bytes x)
  | submitSectorErase r x tag cls =>
    cases h
    exact congrArg (fun y => some (Instr.submitSectorErase p y tag cls)) (addrOf_bytes x)
  | submitBlockErase r x tag cls =>
    cases h
    exact congrArg (fun y => some (Instr.submitBlockErase p y tag cls)) (addrOf_bytes x)
  | unknownOpcode r op =>
    cases h
    have hop : op ∉ commandOpcodes := by simpa [Instr.wellFormed] using hw
    exact congrArg List.head? (decodeCommand_unknown hop)
  | readBuffer r m => cases m <;> cases h; rfl
  | readStatus r m => cases m <;> cases h; rfl
  | readIdentity r m => cases m <;> cases h; rfl
  | readMap r m => cases m <;> cases h; rfl
  | readQueue r m => cases m <;> cases h; rfl
  | readRegions r m => cases m <;> cases h; rfl
  | popCompletion r m => cases m <;> cases h; rfl
  | readNotices r m => cases m <;> cases h; rfl
  | readMailbox r m => cases m <;> cases h; rfl
  | readInterrupted r m => cases m <;> cases h; rfl
  | _ => cases h <;> rfl

/-- The frame of a LOAD is its data to its end (R104, R107). -/
theorem decodeFrame_load {i : Instr} {bs : List Byte} (hw : i.wellFormed = true) (hl : i.isLoad = true)
    (h : encodeFrame i = some (p, bs)) (k : Nat) : (decodeFrame p ⟨bs, k⟩).head? = some i := by
  cases i with
  | loadBuffer r handle offset data =>
    cases h
    cases data with
    | nil => cases hw
    | cons d ds => rfl
  | loadBufferQuad r handle offset data =>
    cases h
    cases data with
    | nil => cases hw
    | cons d ds => rfl
  | _ => cases hl

/-- Settles O2: a frame that carries a command says which and with what operands. -/
theorem frameDecodesToItsCommand : Obligations.FrameDecodesToItsCommand := by
  refine fun i p bs hw h => ⟨fun k => ?_, fun hl more k => decodeFrame_encodeFrame hw hl h more k⟩
  cases hl : i.isLoad with
  | true => exact decodeFrame_load hw hl h k
  | false =>
    have hframe := decodeFrame_encodeFrame hw hl h [] k
    rwa [List.append_nil] at hframe

end Sys2Proof.Machine
end


section
/-! The moments of a frame, row by row (O4 to O7, O36 to O38): what the rows of taken commands, of openings and of rises
are in terms of `takeCommand`, `openFrame` and `riseFrame`, and what they answer. -/

namespace Sys2Proof.Machine

variable {s : State} {p : Port} {i : Instr} {n : Nat}

theorem State.modifyPort_congr {f g : PortState → PortState} (h : f (s.port p) = g (s.port p)) :
    s.modifyPort p f = s.modifyPort p g := by
  unfold State.port at h
  unfold State.modifyPort
  rw [h]

/-! ### The rows as moments of a frame -/

theorem exec_takenBy (hi : i.takenBy = some p) (hw : i.wellFormed = true) (s : State) :
    ∃ owner, exec i s = takeCommand p s owner := by
  cases i with
  | frameEndsShort r bits =>
    cases hi
    have hbits : bits ≠ 0 := Nat.pos_iff_ne_zero.1 (of_decide_eq_true hw)
    exact ⟨_, if_neg hbits⟩
  | unknownOpcode r op =>
    cases hi
    have hop : ¬commandOpcodes.contains op = true := by simpa [Instr.wellFormed] using hw
    exact ⟨_, if_neg hop⟩
  | _ =>
    cases hi <;> simp only [exec, execLoadBuffer, execLoadBufferQuad, loadFrame]
    all_goals exact ⟨_, rfl⟩

theorem exec_outputOpens (hi : i.outputOpens = some p) (hn : i ≠ .notReadyAnswer p (.fixed ())) (s : State) :
    ∃ answer, exec i s = openFrame i.quadOut p s answer := by
  unfold Instr.outputOpens at hi
  split at hi <;> cases hi
  pick_goal 12
  · exact absurd rfl hn
  all_goals
    simp only [exec, execReadArray, execQuadReadArray, openStream, execReadBuffer, execReadIdentity, execReadMap,
      execReadQueue, execReadRegions, execReadInterrupted, execPopCompletion, execReadNotices, execReadMailbox,
      openInquiry, Instr.quadOut]
    exact ⟨_, rfl⟩

/-- The rows of a rise: those that end a frame with an output phase, and READ STATUS's own. -/
def Instr.risesWith (i : Instr) (p : Port) (n : Nat) : Prop :=
  i.outputRises = some (p, n) ∨ i = .readStatus p (.rise n)

theorem exec_rises (hi : Instr.risesWith i p n) (hn : i ≠ .notReadyAnswer p (.rise n)) (s : State) :
    exec i s = riseFrame p s n := by
  rcases hi with hi | rfl
  · unfold Instr.outputRises at hi
    split at hi <;> cases hi
    pick_goal 11
    · exact absurd rfl hn
    all_goals rfl
  · rfl

/-- NOT_READY_ANSWER's rise is the rise of the frame, where the port is in the midst of one. -/
theorem exec_notReadyRise (hi : (s.port p).frame ≠ .inert) (hd : (s.port p).frame ≠ .deselected) :
    exec (.notReadyAnswer p (.rise n)) s = riseFrame p s n := by
  show execNotReadyAnswer p (.rise n) s = riseFrame p s n
  cases hf : (s.port p).frame with
  | inert => exact absurd hf hi
  | deselected => exact absurd hf hd
  | _ => simp only [execNotReadyAnswer, hf]

theorem exec_rises_of_frame (hi : Instr.risesWith i p n) (hin : (s.port p).frame ≠ .inert)
    (hd : (s.port p).frame ≠ .deselected) : exec i s = riseFrame p s n := by
  by_cases hn : i = .notReadyAnswer p (.rise n)
  · rw [hn]
    exact exec_notReadyRise hin hd
  · exact exec_rises hi hn s

theorem riseFrame_idle (h : (s.port p).frame = .inert ∨ (s.port p).frame = .deselected) :
    riseFrame p s n = .next s := by
  rcases h with h | h <;> simp only [riseFrame, State.endOutput, h]

/-- Which moments the frame rows of a port are. -/
theorem Instr.framePort_cases (hi : i.framePort = some p) :
    i.takenBy = some p ∨ i.outputOpens = some p ∨ (∃ n, Instr.risesWith i p n) ∨ i = .readStatus p (.fixed ()) ∨
    i = .inquiryDropped p ∨ i = .blockCrossing p ∨ i = .blockCrossingNewBank p ∨ i = .targetEntry p := by
  revert hi
  cases i with
  | readBuffer r m | readStatus r m | readIdentity r m | readMap r m | readQueue r m | readRegions r m
  | popCompletion r m | readNotices r m | readMailbox r m | readInterrupted r m | notReadyAnswer r m =>
    cases m <;> simp [Instr.framePort, Instr.takenBy, Instr.outputOpens, Instr.outputRises, Instr.risesWith]
  | _ => simp [Instr.framePort, Instr.takenBy, Instr.outputOpens, Instr.outputRises, Instr.risesWith]

theorem exec_inert (hi : i.framePort = some p) (hw : i.wellFormed = true) (hf : (s.port p).frame = .inert) :
    exec i s = .next s := by
  rcases Instr.framePort_cases hi with h | h | ⟨n, h⟩ | rfl | rfl | rfl | rfl | rfl
  · obtain ⟨owner, h⟩ := exec_takenBy h hw s
    rw [h, takeCommand_inert owner hf]
  · by_cases hn : i = .notReadyAnswer p (.fixed ())
    · simp only [hn, exec, execNotReadyAnswer, hf]
    · obtain ⟨answer, h⟩ := exec_outputOpens h hn s
      rw [h, openFrame_inert answer hf]
  · by_cases hn : i = .notReadyAnswer p (.rise n)
    · simp only [hn, exec, execNotReadyAnswer, hf]
    · rw [exec_rises h hn, riseFrame_idle (.inl hf)]
  · simp only [exec, execReadStatus, hf]
  · simp only [exec, execInquiryDropped, hf]
  · simp only [exec, execBlockCrossing, crossBlock, hf]
  · simp only [exec, execBlockCrossingNewBank, crossBlock, hf]
  · simp only [exec, execTargetEntry, hf]

/-! ### STARTING, and frames with no command -/

theorem riseFrame_notReady {quad : Bool} (hf : (s.port p).frame = .dataOut (.notReady quad)) :
    riseFrame p s n = .next (s.modifyPort p (fun q =>
      { q with frame := .deselected, output := List.replicate n 0, lastResponse := .notReady })) := by
  rw [riseFrame_dataOut hf]
  simp only [State.endView, State.answerNotReady, State.endFrame, State.respond, State.modifyPort_modifyPort,
    clockedOut_nil]

/-- Settles O4, moment by moment: taken commands, openings, rises, and NOT_READY_ANSWER itself. -/
theorem startingAnswersNotReady : Obligations.StartingAnswersNotReady := by
  refine ⟨fun i p s hi hw hf hd => ?_, fun i p s hi hf hd => ?_, fun i p n quad s hi hf => ?_, fun p n s hf hd => ?_⟩
  · obtain ⟨owner, h⟩ := exec_takenBy hi hw s
    rw [h, takeCommand_starting owner hf hd, State.answers_eq]
  · by_cases hn : i = .notReadyAnswer p (.fixed ())
    · simp only [hn, exec, execNotReadyAnswer, hf, hd, Instr.quadOut, State.setFrame]
    · obtain ⟨answer, h⟩ := exec_outputOpens hi hn s
      rw [h, openFrame_starting answer hf hd, State.setFrame]
  · rw [exec_rises_of_frame (.inl hi) (by simp [hf]) (by simp [hf]), riseFrame_notReady hf]
  · simp only [exec, execNotReadyAnswer, hf, hd, State.answers_eq]

/-- Settles O5: short frames and unknown opcodes are taken commands that only answer; an INERT port's rows do
nothing. -/
theorem framesWithNoCommand : Obligations.FramesWithNoCommand := by
  refine ⟨fun i p s => exec_inert, fun p s => ⟨fun bits hp hbits => ?_, fun op hp hop => ?_, fun hf => ?_,
    fun i n hi hn hf => ?_⟩⟩
  · exact (if_neg (Nat.pos_iff_ne_zero.1 hbits)).trans (takeCommand_ready _ hp)
  · have hc : ¬commandOpcodes.contains op = true := by simpa using hop
    exact (if_neg hc).trans (takeCommand_ready _ hp)
  · simp only [exec, execInquiryDropped, hf]
  · rw [exec_rises hi hn, riseFrame_idle (.inr hf)]

/-! ### READ STATUS and the view inquiries -/

theorem riseFrame_status {bytes : List Byte} {conflict denied : Bool}
    (hf : (s.port p).frame = .dataOut (.status bytes conflict denied)) :
    riseFrame p s n = .next (s.modifyPort p (fun q =>
      { q with
        frame := .deselected
        output := (bytes ++ List.replicate n 0).take n
        conflictSeen := if 8 ≤ n ∧ conflict = true then false else q.conflictSeen
        deniedSeen := if 8 ≤ n ∧ denied = true then false else q.deniedSeen })) := by
  rw [riseFrame_dataOut hf]
  simp only [State.endView, State.endReadStatus, State.endFrame, clockedOut_eq]
  split
  · next hn =>
    rw [State.modifyPort_modifyPort]
    cases conflict <;> cases denied <;> simp [hn]
  · next hn => simp [hn]

/-- A flag at its place in a byte. -/
theorem mul_toNat (k : Nat) (b : Bool) : k * b.toNat = if b then k else 0 := by
  cases b <;> simp

/-- R146: the bytes of READ STATUS, flag by flag. -/
theorem State.statusView_eq (s : State) (p : Port) : s.statusView p =
    [(s.port p).lastResponse.code,
      byteOf ((if s.device = .ready then 1 else 0) + (if s.supply = .normal then 0 else 2)),
      byteOf s.engine.code,
      byteOf (s.entryCount p),
      byteOf (s.port p).completions.length,
      byteOf (8 - s.entryCount p - (s.port p).completions.length),
      byteOf (16 * s.buffers.countP (fun b => decide (b.state = .free)) + (s.port p).handles.countP Option.isSome),
      byteOf ((if (s.port p).conflictSeen then 1 else 0) + (if (s.port p).deniedSeen then 2 else 0)
        + (if s.mapDefaulted then 4 else 0) + (if s.interrupted = [] then 0 else 8)
        + (if s.staged = none then 0 else 16))] := by
  have hready : (decide (s.device = .ready)).toNat = if s.device = .ready then 1 else 0 := by
    cases s.device <;> rfl
  have hsupply : 2 * (decide (s.supply ≠ .normal)).toNat = if s.supply = .normal then 0 else 2 := by
    cases s.supply <;> rfl
  have hconflict : (s.port p).conflictSeen.toNat = if (s.port p).conflictSeen then 1 else 0 := by
    cases (s.port p).conflictSeen <;> rfl
  have hinterrupted : 8 * (!s.interrupted.isEmpty).toNat = if s.interrupted = [] then 0 else 8 := by
    cases s.interrupted <;> simp
  have hstaged : 16 * s.staged.isSome.toNat = if s.staged = none then 0 else 16 := by
    cases s.staged <;> simp
  simp only [State.statusView, hready, hsupply, hconflict, mul_toNat 2, mul_toNat 4, hinterrupted, hstaged]
  rfl

/-- Settles O6: the two rows of READ STATUS, at the end of the fixed part and at the rise. -/
theorem readStatusShowsAndClears : Obligations.ReadStatusShowsAndClears := by
  refine ⟨fun p s hf => ?_, fun p n bytes conflict denied s hf => riseFrame_status hf⟩
  simp only [exec, execReadStatus, hf, State.setFrame]
  refine congrArg _ (State.modifyPort_congr ?_)
  rw [State.statusView_eq]

theorem openInquiry_ready (hp : s.portReady p = true) (kind : InquiryKind) (bytes : List Byte) :
    openInquiry p s kind bytes =
      .next (s.modifyPort p (fun q => { q with frame := .dataOut (.inquiry kind bytes) })) :=
  openFrame_ready _ hp

/-- Settles O7: each view inquiry is an opening and a rise of the port's frame. -/
theorem viewInquiriesChangeNothing : Obligations.ViewInquiriesChangeNothing := by
  refine ⟨fun i p kind bytes s hi hp => ?_, fun i p kind n bytes s hi hf => ?_, rfl, rfl, rfl⟩
  · unfold Instr.inquiryView at hi
    split at hi <;> cases hi <;> exact openInquiry_ready hp _ _
  · have hrise : exec i s = riseFrame p s n := by
      unfold Instr.inquiryRise at hi
      split at hi <;> cases hi <;> rfl
    rw [hrise, riseFrame_dataOut hf]
    simp only [State.endView, State.endFrame, clockedOut_eq]

/-! ### The commands that report and clear -/

theorem riseFrame_completion {head : Option CompletionRecord} (hf : (s.port p).frame = .dataOut (.completion head)) :
    riseFrame p s n = .next (s.modifyPort p (fun q =>
      { q with
        frame := .deselected
        output := (recordBytes head ++ List.replicate n 0).take n
        lastResponse := .ok
        completions := if head ≠ none ∧ 8 ≤ n then q.completions.drop 1 else q.completions })) := by
  rw [riseFrame_dataOut hf]
  simp only [State.endView, State.endPopCompletion, State.endFrame, State.respond, State.modifyPort_modifyPort,
    clockedOut_eq]
  cases head with
  | none => simp
  | some r => by_cases hn : 8 ≤ n <;> simp [hn]

theorem riseFrame_mailbox {content : Option Signal} (hf : (s.port p).frame = .dataOut (.mailbox content)) :
    riseFrame p s n = .next (s.modifyPort p (fun q =>
      { q with
        frame := .deselected
        output := (mailboxBytes content ++ List.replicate n 0).take n
        lastResponse := .ok
        mailbox := if content ≠ none ∧ 2 ≤ n then none else q.mailbox })) := by
  rw [riseFrame_dataOut hf]
  simp only [State.endView, State.endReadMailbox, State.endFrame, State.respond, State.modifyPort_modifyPort,
    clockedOut_eq]
  cases content with
  | none => simp
  | some x => by_cases hn : 2 ≤ n <;> simp [hn]

/-- Settles O36: the opening shows the head, the rise empties what was wholly clocked out. -/
theorem popAndMailboxEmptyWhenRead : Obligations.PopAndMailboxEmptyWhenRead := by
  refine ⟨⟨fun p s hp => ?_, fun p n head s hf => riseFrame_completion hf⟩, fun p s hp => ?_, fun p n content s hf => ?_⟩
  · simp only [exec, execPopCompletion]
    rw [openFrame_ready _ hp]
    rfl
  · simp only [exec, execReadMailbox]
    rw [openFrame_ready _ hp]
    rfl
  · cases content <;> exact riseFrame_mailbox hf

theorem NoticeFlags.get_afterReading (latched shown since : NoticeFlags) (k : NoticeKind) :
    (latched.afterReading shown since).get k = (latched.get k && !(shown.get k && !since.get k)) := by
  cases k <;> rfl

theorem PortState.pendingNotices_get (q : PortState) (k : NoticeKind) :
    q.pendingNotices.get k = if k = .completion then decide (q.completions ≠ []) else q.latched.get k := by
  cases k with
  | completion => cases hq : q.completions <;> simp [PortState.pendingNotices, NoticeFlags.get, hq]
  | _ => rfl

theorem riseFrame_notices {shown enables : NoticeFlags} (hf : (s.port p).frame = .dataOut (.notices shown enables)) :
    riseFrame p s n = .next (s.modifyPort p (fun q =>
      { q with
        frame := .deselected
        output := ([shown.toByte, enables.toByte] ++ List.replicate n 0).take n
        lastResponse := .ok
        latched := if 1 ≤ n then q.latched.afterReading shown q.postedSinceView else q.latched })) := by
  rw [riseFrame_dataOut hf]
  simp only [State.endView, State.endReadNotices, State.endFrame, State.respond, State.modifyPort_modifyPort,
    clockedOut_eq, noticesBytes]
  split <;> rfl

/-- Settles O37: the latched kinds are compared one by one with the view and with what was posted since. -/
theorem noticesClearWhatTheyReported : Obligations.NoticesClearWhatTheyReported := by
  refine ⟨fun p s hp => ?_, fun p n shown enables s hf => ?_⟩
  · simp only [exec, execReadNotices]
    rw [openFrame_ready _ hp]
    refine congrArg _ (State.modifyPort_congr ?_)
    cases hq : (s.port p).completions <;> simp [PortState.pendingNotices, hq]
  · refine ⟨if 1 ≤ n then (s.port p).latched.afterReading shown (s.port p).postedSinceView else (s.port p).latched,
      (riseFrame_notices hf).trans (congrArg _ (State.modifyPort_congr rfl)), fun k => ?_⟩
    by_cases hn : 1 ≤ n <;> simp [NoticeFlags.get_afterReading, hn]

theorem NoticeFlags.meet_iff {pending enables : NoticeFlags} :
    pending.meet enables = true ↔ ∃ k, pending.get k = true ∧ enables.get k = true := by
  simp only [NoticeFlags.meet, Bool.or_eq_true, Bool.and_eq_true]
  constructor
  · rintro (((((((h | h) | h) | h) | h) | h) | h) | h)
    exacts [⟨.completion, h⟩, ⟨.leaseGranted, h⟩, ⟨.leaseLost, h⟩, ⟨.leaseWarning, h⟩, ⟨.readConflict, h⟩,
      ⟨.mapChanged, h⟩, ⟨.peerSignal, h⟩, ⟨.deviceEvent, h⟩]
  · rintro ⟨k, h⟩
    cases k <;> simp only [NoticeFlags.get] at h <;> simp only [h, and_self, true_or, or_true]

/-- Settles O38: the enables bit by bit, and ALERT# from its definition. -/
theorem enablesReplacedAndAlertFollows : Obligations.EnablesReplacedAndAlertFollows := by
  refine ⟨fun p b s hp => ?_, fun s p => ?_⟩
  · simp only [exec, execSetNoticeEnables]
    rw [takeCommand_ready _ hp]
    simp only [State.respond, State.modifyPort_modifyPort, NoticeFlags.ofByte]
  · rw [State.alertLow, NoticeFlags.meet_iff]
    simp only [PortState.pendingNotices_get]
    constructor
    · rintro ⟨k, hp, he⟩
      by_cases hk : k = .completion
      · subst hk
        exact .inl ⟨of_decide_eq_true hp, he⟩
      · rw [if_neg hk] at hp
        exact .inr ⟨k, hk, hp, he⟩
    · rintro (⟨hp, he⟩ | ⟨k, hk, hp, he⟩)
      · exact ⟨.completion, decide_eq_true hp, he⟩
      · exact ⟨k, by rwa [if_neg hk], he⟩

end Sys2Proof.Machine
end


section
/-! The checks of a read (O12, O13, O14): what the permission check and the conflict check mean, when a conflict raises a
request, and what the checks make of a stream. -/

namespace Sys2Proof.Machine

variable {s t : State} {p : Port} {i b : Nat} {r : Region}

/-! ### The region of a block -/

theorem RegionDef.containsBlock_iff {d : RegionDef} : d.containsBlock b = true ↔ d.first.toNat ≤ b ∧ b ≤ d.last.toNat := by
  simp [RegionDef.containsBlock]

/-- R75: in a table whose regions share no block, the region of a block is the one that holds it. -/
theorem findIdx?_containsBlock {rs : List (Option Region)} (h : disjointRegions rs = true)
    (hi : (rs[i]?).join = some r) (hb : r.definition.containsBlock b = true) :
    rs.findIdx? (fun slot => match slot with
      | some r => r.definition.containsBlock b
      | none => false) = some i := by
  induction rs generalizing i with
  | nil => simp at hi
  | cons slot rs ih =>
    rw [List.findIdx?_cons]
    cases i with
    | zero =>
      have hslot : slot = some r := by simpa using hi
      rw [hslot, if_pos hb]
    | succ i =>
      have hi' : (rs[i]?).join = some r := by simpa using hi
      cases slot with
      | none => rw [if_neg nofun, ih h hi']; rfl
      | some q =>
        obtain ⟨⟨-, hall⟩, hrest⟩ : (_ ∧ _) ∧ _ := by
          simpa only [disjointRegions, Bool.and_eq_true, List.all_eq_true] using h
        have hmem : some r ∈ rs := List.mem_of_getElem? (Option.join_eq_some_iff.1 hi')
        have hapart := hall _ hmem
        rw [RegionDef.containsBlock_iff] at hb
        have hq : ¬q.definition.containsBlock b = true := by
          rw [RegionDef.containsBlock_iff]
          simp only [Bool.or_eq_true, decide_eq_true_eq] at hapart
          omega
        rw [if_neg hq, ih hrest hi']
        rfl

theorem State.regionOfBlock_eq (h : s.regionLaw = true) (hb : s.blockInRegion b i r) : s.regionOfBlock b = some i :=
  findIdx?_containsBlock h hb.1 (RegionDef.containsBlock_iff.2 hb.2)

theorem State.blockInRegion_of_regionOfBlock (h : s.regionOfBlock b = some i) : ∃ r, s.blockInRegion b i r := by
  obtain ⟨slot, hslot, hb⟩ := findIdx?_some h
  cases slot with
  | none => cases hb
  | some r => exact ⟨r, by rw [State.region, hslot]; rfl, RegionDef.containsBlock_iff.1 hb⟩

/-- The region of a block, where the regions share none. -/
theorem State.regionOfBlock_bind (h : s.regionLaw = true) :
    (s.regionOfBlock b).bind s.region = some r ↔ ∃ i, s.blockInRegion b i r := by
  constructor
  · intro hr
    obtain ⟨i, hi, hri⟩ := Option.bind_eq_some_iff.1 hr
    obtain ⟨q, hq⟩ := State.blockInRegion_of_regionOfBlock hi
    obtain rfl : q = r := Option.some.inj (hq.1.symm.trans hri)
    exact ⟨i, hq⟩
  · rintro ⟨i, hi⟩
    rw [State.regionOfBlock_eq h hi]
    exact hi.1

/-- A property of the region of a block, where the regions share none. -/
theorem State.regionOfBlock_all (h : s.regionLaw = true) (f : Region → Bool) :
    (match (s.regionOfBlock b).bind s.region with
      | some r => f r
      | none => false) = true ↔ ∃ i r, s.blockInRegion b i r ∧ f r = true := by
  constructor
  · intro hf
    split at hf
    · next r hr =>
      obtain ⟨i, hi⟩ := (State.regionOfBlock_bind h).1 hr
      exact ⟨i, r, hi, hf⟩
    · cases hf
  · rintro ⟨i, r, hi, hf⟩
    rw [(State.regionOfBlock_bind h).2 ⟨i, hi⟩]
    exact hf

/-! ### What the two checks mean -/

theorem State.readDenied_iff (h : s.regionLaw = true) {a : Addr} : s.readDenied p a = true ↔
    ∃ i r, s.blockInRegion (a.toNat / 65536) i r ∧ r.definition.readMask.has p = false := by
  refine (State.regionOfBlock_all h (fun r => !r.definition.readMask.has p)).trans ?_
  simp only [Bool.not_eq_true']
  rfl

theorem Entry.isActive_iff {e : Entry} : e.isActive = true ↔ e.state = .running ∨ e.state = .suspending := by
  simp [Entry.isActive]

theorem Entry.isParked_iff {e : Entry} : e.isParked = true ↔ e.state = .suspended := by
  simp [Entry.isParked]

theorem State.activeBank_iff (h : s.Agrees) {k : Fin 4} : s.activeBank = some k ↔
    ∃ e ∈ s.queue, (e.state = .running ∨ e.state = .suspending) ∧ e.bank = some k := by
  constructor
  · intro hk
    obtain ⟨e, he, hbank⟩ := Option.bind_eq_some_iff.1 hk
    obtain ⟨hmem, hactive⟩ := State.activeEntry_mem he
    exact ⟨e, hmem, Entry.isActive_iff.1 hactive, hbank⟩
  · rintro ⟨e, hmem, hactive, hbank⟩
    rw [State.activeBank, h.activeEntry_eq hmem (Entry.isActive_iff.2 hactive)]
    exact hbank

/-- Inside the parked target. -/
theorem State.parkedTarget_contains_iff (h : s.Agrees) {n : Nat} :
    (match s.parkedTarget with
      | some t => t.contains n
      | none => false) = true ↔ ∃ e ∈ s.queue, e.state = .suspended ∧ e.targetContains n = true := by
  constructor
  · intro hn
    split at hn
    · next x hx =>
      obtain ⟨e, he, htarget⟩ := Option.bind_eq_some_iff.1 hx
      obtain ⟨hmem, hparked⟩ := State.parkedErase_mem he
      exact ⟨e, hmem, Entry.isParked_iff.1 hparked, by rw [Entry.targetContains, htarget]; exact hn⟩
    · cases hn
  · rintro ⟨e, hmem, hparked, hn⟩
    have he : s.parkedTarget = e.target := by
      rw [State.parkedTarget, h.parkedErase_eq hmem (Entry.isParked_iff.2 hparked)]
      rfl
    rw [he]
    exact hn

/-- Settles O12: each check is read off the Region Table, or off the entries that the engine law ties to it. -/
theorem readChecksMeanTheirTables : Obligations.ReadChecksMeanTheirTables := by
  refine ⟨fun s p a h => State.readDenied_iff h, fun s a h => ?_⟩
  have hagrees := State.engineLaw_iff.1 h
  refine (Bool.or_eq_true ..).to_iff.trans (or_congr ?_ (State.parkedTarget_contains_iff hagrees))
  rw [decide_eq_true_iff]
  exact State.activeBank_iff hagrees

/-! ### When a conflict raises a request (R10) -/

/-- R10: the conditions on the active entry. -/
def State.wouldSuspend (s : State) (p : Port) (a : Addr) (x : Entry) : Prop :=
  s.engine = .busy ∧ (x.kind = .sectorErase ∨ x.kind = .blockErase) ∧ x.bank = some (bankOf a) ∧
  x.targetContains a.toNat = false ∧ (s.port p).profile.window ≠ 0 ∧
  x.effectiveClass ≤ (s.port p).profile.ceiling ∧ x.suspendCount < 16

theorem EntryKind.isErase_iff {k : EntryKind} : k.isErase = true ↔ k = .sectorErase ∨ k = .blockErase := by
  cases k <;> simp [EntryKind.isErase]

theorem State.raisesRequest_iff {a : Addr} : s.raisesRequest p a = true ↔
    ∃ x, s.activeEntry = some x ∧ s.wouldSuspend p a x := by
  unfold State.raisesRequest
  cases hx : s.activeEntry with
  | none => simp
  | some x =>
    simp [State.wouldSuspend, EntryKind.isErase_iff, and_assoc, show Config.suspendLimit = 16 from rfl]

/-! ### What the checks make of a stream -/

/-- R14, R9 check 1: the port with a denied stream. -/
def PortState.denied (st : ReadStream) (q : PortState) : PortState :=
  { q with frame := .readStream { st with held := none, fill := some q.profile.fill }, deniedSeen := true }

/-- R14, R9 check 2: the port with a stream in conflict. -/
def PortState.conflicting (st : ReadStream) (q : PortState) : PortState :=
  { q with
    frame := .readStream { st with held := none, fill := some q.profile.fill }
    conflictSeen := true
    latched := { q.latched with readConflict := true }
    postedSinceView := { q.postedSinceView with readConflict := true } }

section
variable (s : State) (p : Port) (st : ReadStream)

theorem State.checkStream_denied (hd : s.readDenied p st.current = true) :
    s.checkStream p st = s.modifyPort p (PortState.denied st) := by
  unfold State.checkStream
  rw [if_pos hd]
  simp only [State.denyStream, State.fillStream, State.setFrame, State.modifyPort_modifyPort]
  exact State.modifyPort_congr rfl

theorem State.checkStream_pass (hd : s.readDenied p st.current = false) (hc : s.readConflict st.current = false) :
    s.checkStream p st = (s.holdBank (bankOf st.current)).modifyPort p (fun q =>
      { q with frame := .readStream { st with held := some (bankOf st.current), fill := none } }) := by
  simp only [State.checkStream, hd, hc, State.setFrame, Bool.false_eq_true, if_false]

theorem State.conflictFill_eq :
    ((s.fillStream p st).modifyPort p (fun q => { q with conflictSeen := true })).post p .readConflict =
      s.modifyPort p (PortState.conflicting st) := by
  simp only [State.fillStream, State.setFrame, State.post, State.modifyPort_modifyPort]
  exact State.modifyPort_congr rfl

theorem State.checkStream_conflict (hd : s.readDenied p st.current = false) (hc : s.readConflict st.current = true)
    (hr : ∀ x, s.activeEntry = some x → ¬s.wouldSuspend p st.current x) :
    s.checkStream p st = s.modifyPort p (PortState.conflicting st) := by
  have hraise : ¬s.raisesRequest p st.current = true := fun h => by
    obtain ⟨x, hx, hwould⟩ := State.raisesRequest_iff.1 h
    exact hr x hx hwould
  simp only [State.checkStream, hd, hc, Bool.false_eq_true, if_false, if_true, State.conflictStream, hraise,
    State.conflictFill_eq]

theorem State.checkStream_request (hd : s.readDenied p st.current = false) (hc : s.readConflict st.current = true)
    {i : Nat} {x : Entry} (hi : s.activeIndex = some i) (hx : s.queue[i]? = some x)
    (hr : s.wouldSuspend p st.current x) :
    s.checkStream p st =
      { s.modifyPort p (PortState.conflicting st) with
        queue := s.queue.modify i (fun e => { e with state := .suspending })
        engine := .suspending
        noted := some (s.port p).profile.window } := by
  have hraise : s.raisesRequest p st.current = true :=
    State.raisesRequest_iff.2 ⟨x, by simp [State.activeEntry, State.entryAt, hi, hx], hr⟩
  have hactive : (s.modifyPort p (PortState.conflicting st)).activeIndex = some i := hi
  simp only [State.checkStream, hd, hc, Bool.false_eq_true, if_false, if_true, State.conflictStream, hraise,
    State.conflictFill_eq, State.requestSuspend, State.orderSuspend, hactive]
  rfl

end

/-! ### Opening a read (R8, R9, R10) -/

/-- The record of delivered bytes begins anew (log 9). -/
def State.clearOutput (s : State) (p : Port) : State := s.modifyPort p (fun q => { q with output := [] })

/-- A taken READ ARRAY or QUAD READ ARRAY makes the checks at its address. -/
theorem exec_read {row : Port → Addr → Instr} {quad : Bool} {a : Addr}
    (hrow : (row = .readArray ∧ quad = false) ∨ (row = .quadReadArray ∧ quad = true)) (hp : s.portReady p = true) :
    exec (row p a) s = .next ((s.clearOutput p).checkStream p ⟨a, none, none, quad⟩) := by
  rcases hrow with ⟨rfl, rfl⟩ | ⟨rfl, rfl⟩
  · simp only [exec, execReadArray, openStream]
    exact openFrame_ready _ hp
  · simp only [exec, execQuadReadArray, openStream]
    exact openFrame_ready _ hp

/-- Settles O13: an opening makes the checks of its address, and here they pass or deny. -/
theorem readOpensByItsChecks : Obligations.ReadOpensByItsChecks := by
  intro row quad p a s hrow hp
  refine ⟨fun hd hc => ?_, fun hd => ?_⟩
  · rw [exec_read hrow hp, State.checkStream_pass (s.clearOutput p) p ⟨a, none, none, quad⟩ hd hc]
    simp only [State.clearOutput, State.holdBank, State.modifyPort, PerPort.set_set, PerPort.get_set_self]
  · rw [exec_read hrow hp, State.checkStream_denied (s.clearOutput p) p ⟨a, none, none, quad⟩ hd, State.clearOutput,
      State.modifyPort_modifyPort]
    rfl

/-- Settles O14: the conflict's two outcomes, by the conditions of a request. -/
theorem readConflictFillsAndMayRequest : Obligations.ReadConflictFillsAndMayRequest := by
  intro row quad p a s hrow hp hd hc
  have hprofile : ((s.clearOutput p).port p).profile = (s.port p).profile := by simp [State.clearOutput]
  have hwould : ∀ x, (s.clearOutput p).wouldSuspend p a x ↔ s.wouldSuspend p a x := fun x => by
    simp only [State.wouldSuspend, hprofile]
    rfl
  refine ⟨fun hr => ?_, fun i x hi hx hr => ?_⟩
  · rw [exec_read hrow hp, State.checkStream_conflict (s.clearOutput p) p ⟨a, none, none, quad⟩ hd hc
      (fun x hx h => hr x hx ((hwould x).1 h)), State.clearOutput, State.modifyPort_modifyPort]
    rfl
  · rw [exec_read hrow hp, State.checkStream_request (s.clearOutput p) p ⟨a, none, none, quad⟩ hd hc hi hx
      ((hwould x).2 hr), hprofile, State.clearOutput, State.modifyPort_modifyPort]
    rfl

end Sys2Proof.Machine
end


section
/-! Read streams (O15 to O18): what the clocks of a stream come to, whatever the fuel, and what its close, its crossings
and its target entry do. -/

namespace Sys2Proof.Machine

variable {s t : State} {p : Port} {st : ReadStream} {n d : Nat}

/-! ### Runs of bytes -/

theorem ReadStream.advance_zero (st : ReadStream) : st.advance 0 = st := by
  simp [ReadStream.advance]

theorem State.clockOut_zero (hf : (s.port p).frame = .readStream st) : s.clockOut p st 0 = s := by
  have hbytes : s.streamBytes st 0 = [] := by
    unfold State.streamBytes
    split <;> rfl
  have hport : s.modifyPort p (fun q =>
      { q with frame := .readStream (st.advance 0), output := q.output ++ s.streamBytes st 0 }) = s := by
    refine State.modifyPort_eq_self ?_
    rw [hbytes, List.append_nil, ReadStream.advance_zero, ← hf]
  unfold State.clockOut
  rw [hport]
  split <;> rfl

theorem bytesToBlockEnd_pos (a : Addr) : 0 < bytesToBlockEnd a :=
  Nat.sub_pos_of_lt (Nat.mod_lt _ (by decide))

theorem State.bytesToTarget_pos {a : Addr} (h : s.bytesToTarget a = some d) : 0 < d := by
  unfold State.bytesToTarget at h
  split at h
  · dsimp only at h
    split at h
    · next hd =>
      cases h
      exact hd
    · cases h
  · cases h

theorem State.bytesToRecheck_pos (s : State) (a : Addr) : 0 < s.bytesToRecheck a := by
  unfold State.bytesToRecheck
  split
  · next d hd => exact lt_min (State.bytesToTarget_pos hd) (bytesToBlockEnd_pos a)
  · exact bytesToBlockEnd_pos a

theorem State.clockBytes_none {fuel : Nat} (s : State) (p : Port) : s.clockBytes p fuel 0 = s := by
  cases fuel with
  | zero => rfl
  | succ fuel =>
    unfold State.clockBytes
    split
    · next st hf => rw [if_pos (.inr (s.bytesToRecheck_pos _)), State.clockOut_zero hf]
    · rfl

/-- The fuel of n bytes is enough: every run of bytes between re-check points has one at least. -/
theorem State.clockBytes_fuel (p : Port) (f : Nat) : ∀ (g n : Nat) (s : State), n ≤ f → n ≤ g →
    s.clockBytes p f n = s.clockBytes p g n := by
  induction f with
  | zero =>
    intro g n s hf hg
    obtain rfl : n = 0 := by omega
    rw [s.clockBytes_none, s.clockBytes_none]
  | succ f ih =>
    intro g n s hf hg
    cases g with
    | zero =>
      obtain rfl : n = 0 := by omega
      rw [s.clockBytes_none, s.clockBytes_none]
    | succ g =>
      unfold State.clockBytes
      split
      · next st _ =>
        have hpos := s.bytesToRecheck_pos st.current
        rw [ih g (n - s.bytesToRecheck st.current) _ (by omega) (by omega)]
      · rfl

/-- Bytes that bring no check. -/
theorem State.clockBytes_clockOut (hf : (s.port p).frame = .readStream st)
    (hn : st.fill.isSome = true ∨ n < s.bytesToRecheck st.current) : s.clockBytes p n n = s.clockOut p st n := by
  cases n with
  | zero => exact (State.clockOut_zero hf).symm
  | succ n => exact State.clockBytes_run hf hn

/-- Bytes past the next re-check point come after those up to it. -/
theorem State.clockBytes_past (hf : (s.port p).frame = .readStream st) (hfill : st.fill = none)
    (hd : s.bytesToRecheck st.current ≤ n) : s.clockBytes p n n =
      (s.walkStream p st (s.bytesToRecheck st.current)).clockBytes p (n - s.bytesToRecheck st.current)
        (n - s.bytesToRecheck st.current) := by
  have hpos := s.bytesToRecheck_pos st.current
  obtain ⟨k, rfl⟩ : ∃ k, n = k + 1 := ⟨n - 1, by omega⟩
  rw [State.clockBytes]
  simp only [hf]
  rw [if_neg (by simp [hfill]; omega)]
  split
  · next heq => rw [← heq, Nat.sub_self, State.clockBytes_none]
  · exact State.clockBytes_fuel p _ _ _ _ (by omega) (le_refl _)

/-- The bytes up to the next re-check point. -/
theorem State.clockBytes_walkStream (hf : (s.port p).frame = .readStream st) (hfill : st.fill = none)
    (hd : s.bytesToRecheck st.current = d) : s.clockBytes p d d = s.walkStream p st d := by
  subst hd
  rw [State.clockBytes_past hf hfill (le_refl _), Nat.sub_self, State.clockBytes_none]

/-! ### The rows of a stream -/

theorem execTargetEntry_eq (hf : (s.port p).frame = .readStream st) (hd : s.bytesToTarget st.current = some d) :
    exec (.targetEntry p) s = .next (s.clockBytes p d d) := by
  simp only [exec, execTargetEntry, hf, hd]

theorem crossBlock_eq (hf : (s.port p).frame = .readStream st) (hd : d = bytesToBlockEnd st.current) :
    crossBlock p s = .next (s.clockBytes p d d) := by
  simp only [crossBlock, hf, hd]

/-- Either crossing row, as the address has it. -/
theorem exec_crossing {P : Prop} [Decidable P] (s : State) (p : Port) :
    exec (if P then .blockCrossing p else .blockCrossingNewBank p) s = crossBlock p s := by
  split <;> rfl

/-- The row of the next re-check point of a stream that makes checks. -/
theorem exec_recheck (hf : (s.port p).frame = .readStream st) (hfill : st.fill = none)
    (hd : s.bytesToRecheck st.current = d) :
    exec (if s.bytesToTarget st.current = some d then .targetEntry p
      else if bankOf (st.current + BitVec.ofNat 24 d) = bankOf st.current then .blockCrossing p
      else .blockCrossingNewBank p) s = .next (s.walkStream p st d) := by
  rw [← State.clockBytes_walkStream hf hfill hd]
  split
  · next ht => exact execTargetEntry_eq hf ht
  · next ht =>
    rw [exec_crossing]
    refine crossBlock_eq hf ?_
    unfold State.bytesToRecheck at hd
    split at hd
    · next e he =>
      have hne : e ≠ d := fun h => ht (he.trans (congrArg some h))
      omega
    · exact hd.symm

theorem closeStream_eq (hf : (s.port p).frame = .readStream st) :
    s.closeStream p = ((s.releaseHeld st).setFrame p .deselected).look := by
  simp only [State.closeStream, hf]

theorem State.clockOut_frame (s : State) (p : Port) (st : ReadStream) (n : Nat) :
    ((s.clockOut p st n).port p).frame = .readStream (st.advance n) := by
  simp [State.clockOut, State.port, State.modifyPort]

theorem State.requestSuspend_ports (s : State) (w : Nat) : (s.requestSuspend w).ports = s.ports := by
  unfold State.requestSuspend State.orderSuspend
  split <;> rfl

theorem State.checkStream_frame (s : State) (p : Port) (st : ReadStream) :
    ∃ st', ((s.checkStream p st).port p).frame = .readStream st' ∧ st'.quad = st.quad := by
  cases hd : s.readDenied p st.current with
  | true =>
    exact ⟨{ st with held := none, fill := some (s.port p).profile.fill },
      by rw [State.checkStream_denied s p st hd, State.port_modifyPort_self, PortState.denied], rfl⟩
  | false =>
    cases hc : s.readConflict st.current with
    | false =>
      exact ⟨{ st with held := some (bankOf st.current), fill := none },
        by rw [State.checkStream_pass s p st hd hc, State.port_modifyPort_self], rfl⟩
    | true =>
      simp only [State.checkStream, hd, hc, Bool.false_eq_true, if_false, if_true, State.conflictStream,
        State.conflictFill_eq]
      have hfill : ((s.modifyPort p (PortState.conflicting st)).port p).frame =
          .readStream { st with held := none, fill := some (s.port p).profile.fill } := by
        rw [State.port_modifyPort_self, PortState.conflicting]
      split
      · exact ⟨{ st with held := none, fill := some (s.port p).profile.fill },
          by rw [State.port, State.requestSuspend_ports]; exact hfill, rfl⟩
      · exact ⟨_, hfill, rfl⟩

theorem State.walkStream_frame (s : State) (p : Port) (st : ReadStream) (d : Nat) :
    ∃ st', ((s.walkStream p st d).port p).frame = .readStream st' ∧ st'.quad = st.quad := by
  unfold State.walkStream
  split
  · exact ⟨_, s.clockOut_frame p st d, rfl⟩
  · unfold State.recheckStream
    split
    · split
      · exact ⟨st.advance d, by rw [State.setFrame, State.port_modifyPort_self], rfl⟩
      · rw [State.look_port]
        exact State.checkStream_frame _ p _
    · exact State.checkStream_frame _ p _

/-! ### The close of a stream -/

theorem exec_readStreamClose (hf : (s.port p).frame = .readStream st) :
    exec (.readStreamClose p n) s = .next ((s.clockBytes p n n).closeStream p) := riseFrame_readStream hf

theorem State.arrayByte_settled {a : Addr} (k : Nat) (h : a.toNat / 256 ∉ s.unsettled) :
    s.arrayByte a k = s.mem.read a.toNat := by
  have hpage : s.unsettled.contains (pageOf a) = false := by simpa [pageOf, Config.pageBytes] using h
  rw [State.arrayByte, hpage]
  rfl

section
variable (s : State) (p : Port) (st : ReadStream) (d : Nat) (k : Fin 4)

/-- A stream that holds bank k delivers d bytes and lets the bank go. -/
def State.leaveBank : State := (s.clockOut p st d).releaseBank k

/-- The bytes delivered and the bank released, and what comes of the port besides. -/
theorem State.leaveBank_modifyPort (hfill : st.fill = none) (f : PortState → PortState) :
    (s.leaveBank p st d k).modifyPort p f =
      { s.modifyPort p (fun q => f
          { q with
            frame := .readStream (st.advance d)
            output := q.output ++ (List.range d).map (fun j =>
              s.arrayByte (st.current + BitVec.ofNat 24 j) (s.freeIndex + j)) }) with
        holders := s.holders.set k (s.holders.get k - 1)
        freeIndex := s.freeIndex + d } := by
  unfold State.leaveBank State.clockOut State.releaseBank State.modifyPort
  rw [hfill]
  simp only [PerPort.set_set, PerPort.get_set_self, State.streamBytes, hfill, Option.isNone_none, if_true]

theorem State.leaveBank_profile : ((s.leaveBank p st d k).port p).profile = (s.port p).profile := by
  simp [State.leaveBank, State.releaseBank, State.clockOut, State.port, State.modifyPort]

end

/-- Settles O15: the clocks before the next re-check point, and what comes after it. -/
theorem streamCloseDeliversAndReleases : Obligations.StreamCloseDeliversAndReleases := by
  refine ⟨fun p n s st k hf hfill hk hn => ?_, fun p n s t st hf hfill hd ht => ?_,
    fun s a k h => State.arrayByte_settled k h⟩
  · rw [exec_readStreamClose hf, State.clockBytes_clockOut hf (.inr hn), closeStream_eq (s.clockOut_frame p st n)]
    simp only [State.releaseHeld, ReadStream.advance, hk, State.setFrame]
    exact congrArg _ (congrArg State.look (State.leaveBank_modifyPort s p st n k hfill _))
  · rw [exec_recheck hf hfill rfl] at ht
    cases ht
    obtain ⟨st', hf', -⟩ := s.walkStream_frame p st (s.bytesToRecheck st.current)
    rw [exec_readStreamClose hf, exec_readStreamClose hf', State.clockBytes_past hf hfill hd]

/-! ### Crossings -/

/-- A stream d bytes on that holds no bank. -/
def ReadStream.unheld (st : ReadStream) (d : Nat) : ReadStream := { st.advance d with held := none }

/-- A stream that holds a bank and passes no longer, or stands in another bank, lets go and makes the checks afresh. -/
theorem State.walkStream_checks {k : Fin 4} (hfill : st.fill = none) (hk : st.held = some k)
    (hfail : ¬(bankOf (st.current + BitVec.ofNat 24 d) = k ∧
      s.readDenied p (st.current + BitVec.ofNat 24 d) = false ∧
      s.readConflict (st.current + BitVec.ofNat 24 d) = false)) :
    s.walkStream p st d =
      ((s.leaveBank p st d k).checkStream p (st.unheld d)).look := by
  simp only [State.walkStream, hfill, State.recheckStream, ReadStream.advance, hk]
  rw [if_neg]
  · rfl
  · exact hfail

/-- A stream that holds the bank where it goes on, and passes, goes on. -/
theorem State.walkStream_passes {k : Fin 4} (hfill : st.fill = none) (hk : st.held = some k)
    (hbank : bankOf (st.current + BitVec.ofNat 24 d) = k)
    (hd : s.readDenied p (st.current + BitVec.ofNat 24 d) = false)
    (hc : s.readConflict (st.current + BitVec.ofNat 24 d) = false) :
    s.walkStream p st d = s.clockOut p st d := by
  simp only [State.walkStream, hfill, State.recheckStream, ReadStream.advance, hk]
  rw [if_pos]
  · refine State.modifyPort_eq_self ?_
    have hframe := s.clockOut_frame p st d
    simp only [ReadStream.advance, hfill, hk] at hframe
    rw [← hframe]
  · exact ⟨hbank, hd, hc⟩

/-- A port with no stream has no re-check point (log 33). -/
theorem crossings_idle (hf : ∀ st, (s.port p).frame ≠ .readStream st) :
    exec (.blockCrossing p) s = .next s ∧ exec (.blockCrossingNewBank p) s = .next s ∧
    exec (.targetEntry p) s = .next s := by
  have hcross : crossBlock p s = .next s := by
    unfold crossBlock
    split
    · next st h => exact absurd h (hf st)
    · rfl
  refine ⟨hcross, hcross, ?_⟩
  show execTargetEntry p s = .next s
  unfold execTargetEntry
  split
  · next st h => exact absurd h (hf st)
  · rfl

theorem State.holdBank_modifyPort (s : State) (p : Port) (k : Fin 4) (f : PortState → PortState) :
    (s.holdBank k).modifyPort p f =
      { s.modifyPort p f with holders := s.holders.set k (s.holders.get k + 1) } := rfl

/-- Settles O16: the walk to the block end, where the stream keeps its bank or takes the next. -/
theorem crossingsThatPass : Obligations.CrossingsThatPass := by
  refine ⟨fun p s => crossings_idle, fun p s st k hf hfill hk _ hd hdeny hconf => ?_⟩
  have hrow : crossBlock p s = .next (s.walkStream p st (bytesToBlockEnd st.current)) := by
    rw [← State.clockBytes_walkStream hf hfill hd]
    exact crossBlock_eq hf rfl
  refine ⟨fun hbank => hrow.trans (congrArg _ ?_), fun hbank => hrow.trans (congrArg _ ?_)⟩
  · rw [State.walkStream_passes hfill hk hbank hdeny hconf, State.clockOut]
    simp only [State.streamBytes, ReadStream.advance, hfill, hk, Option.isNone_none, if_true]
  · have hother : (s.holders.set k (s.holders.get k - 1)).get (bankOf (st.current + BitVec.ofNat 24
        (bytesToBlockEnd st.current))) = s.holders.get (bankOf (st.current + BitVec.ofNat 24
        (bytesToBlockEnd st.current))) := BankCounts.get_set_ne _ _ hbank
    rw [State.walkStream_checks hfill hk (fun h => hbank h.1),
      State.checkStream_pass (s.leaveBank p st _ k) p (st.unheld _) hdeny hconf,
      State.holdBank_modifyPort, State.leaveBank_modifyPort s p st _ k hfill]
    refine congrArg State.look ?_
    rw [← hother]
    rfl

/-- The row of a re-check point: a crossing of the block end, or the entry into the parked target. -/
theorem exec_recheckRow {row : Instr} (hf : (s.port p).frame = .readStream st) (hfill : st.fill = none)
    (hrow : (d = bytesToBlockEnd st.current ∧ s.bytesToRecheck st.current = d ∧
        row = (if bankOf (st.current + BitVec.ofNat 24 d) = bankOf st.current then .blockCrossing p
          else .blockCrossingNewBank p)) ∨
      (s.bytesToTarget st.current = some d ∧ d ≤ bytesToBlockEnd st.current ∧ row = .targetEntry p)) :
    exec row s = .next (s.walkStream p st d) := by
  rcases hrow with ⟨hd, hrecheck, rfl⟩ | ⟨ht, hd, rfl⟩
  · rw [← State.clockBytes_walkStream hf hfill hrecheck, exec_crossing]
    exact crossBlock_eq hf hd
  · have hrecheck : s.bytesToRecheck st.current = d := by
      simp only [State.bytesToRecheck, ht]
      exact Nat.min_eq_left hd
    rw [← State.clockBytes_walkStream hf hfill hrecheck]
    exact execTargetEntry_eq hf ht

/-- A look in SUSPENDING changes nothing (R48). -/
theorem State.look_suspending (h : s.engine = .suspending) : s.look = s := by
  simp only [State.look, h]

/-- Settles O17: the walk to a re-check point that denies or meets a conflict. -/
theorem crossingsThatFill : Obligations.CrossingsThatFill := by
  intro p s st k row d hf hfill hk a hrow filled conflict requests
  have hexec := exec_recheckRow hf hfill hrow
  have hwould : ∀ x, (s.leaveBank p st d k).wouldSuspend p a x ↔ requests x := fun x => by
    simp only [State.wouldSuspend, s.leaveBank_profile p st d k]
    rfl
  refine ⟨fun hdeny => hexec.trans (congrArg _ ?_), fun hdeny hconf => ⟨fun hr => hexec.trans (congrArg _ ?_),
    fun i x hi hx hr => hexec.trans (congrArg _ ?_)⟩⟩
  · rw [State.walkStream_checks hfill hk (fun h => Bool.false_ne_true (h.2.1.symm.trans hdeny)),
      State.checkStream_denied (s.leaveBank p st d k) p (st.unheld d) hdeny,
      State.leaveBank_modifyPort s p st d k hfill]
    rfl
  · rw [State.walkStream_checks hfill hk (fun h => Bool.false_ne_true (h.2.2.symm.trans hconf)),
      State.checkStream_conflict (s.leaveBank p st d k) p (st.unheld d) hdeny hconf
        (fun x hx h => hr x hx ((hwould x).1 h)),
      State.leaveBank_modifyPort s p st d k hfill]
    rfl
  · rw [State.walkStream_checks hfill hk (fun h => Bool.false_ne_true (h.2.2.symm.trans hconf)),
      State.checkStream_request (s.leaveBank p st d k) p (st.unheld d) hdeny hconf hi hx ((hwould x).2 hr),
      State.leaveBank_modifyPort s p st d k hfill, State.look_suspending rfl, s.leaveBank_profile p st d k]
    rfl

/-! ### Fill streams -/

/-- Settles O18: a fill stream makes no check on any row. -/
theorem fillStreamsOnlyFill : Obligations.FillStreamsOnlyFill := by
  intro p s st b hf hfill hk walked
  have hrun : ∀ d, s.clockBytes p d d = walked d := fun d => by
    rw [State.clockBytes_clockOut hf (.inl (by simp [hfill])), State.clockOut]
    simp only [State.streamBytes, ReadStream.advance, hfill, Option.isNone_some, Bool.false_eq_true, if_false, walked]
    rfl
  refine ⟨fun n => ?_, fun d hd => ?_, fun d ht _ => ?_⟩
  · have hframe : ((walked n).port p).frame = .readStream { st with current := st.current + BitVec.ofNat 24 n } := by
      rw [State.port_modifyPort_self]
    rw [exec_readStreamClose hf, hrun, closeStream_eq hframe]
    simp only [State.releaseHeld, hk, State.setFrame, walked, State.modifyPort_modifyPort]
  · rw [exec_crossing, crossBlock_eq hf hd, hrun]
  · rw [execTargetEntry_eq hf ht, hrun]

end Sys2Proof.Machine
end


section
/-! Program Buffers (O20, O22): where the bytes of a LOAD go, and what READ BUFFER delivers. -/

namespace Sys2Proof.Machine

variable {s : State} {p : Port} {buf data : List Byte} {o i k n : Nat}

/-! ### The bytes of a LOAD (R106) -/

theorem loadBytes_length (buf : List Byte) (o : Nat) (data : List Byte) : (loadBytes buf o data).length = buf.length := by
  induction data generalizing buf o with
  | nil => rfl
  | cons d ds ih => rw [loadBytes, ih, List.length_set]

/-- An offset that no byte reaches. -/
theorem loadBytes_untouched (h : ∀ i, i < data.length → (o + i) % 256 ≠ k) : (loadBytes buf o data)[k]? = buf[k]? := by
  induction data generalizing buf o with
  | nil => rfl
  | cons d ds ih =>
    have hhead : o % 256 ≠ k := h 0 (by simp)
    rw [loadBytes, ih fun j hj => ?_, List.getElem?_set_ne hhead]
    have htail := h (j + 1) (by simpa using hj)
    rwa [show o + 1 + j = o + (j + 1) by omega]

/-- An offset holds the last byte that reaches it. -/
theorem loadBytes_reached (hbuf : buf.length = 256) (hi : i < data.length) (hk : (o + i) % 256 = k)
    (hlast : ∀ j, i < j → j < data.length → (o + j) % 256 ≠ k) : (loadBytes buf o data)[k]? = data[i]? := by
  induction data generalizing buf o i with
  | nil => cases hi
  | cons d ds ih =>
    cases i with
    | zero =>
      have hlt : o % 256 < buf.length := by omega
      rw [loadBytes, loadBytes_untouched fun j hj => ?_, show k = o % 256 by omega, List.getElem?_set_self hlt]
      · rfl
      · have h := hlast (j + 1) (by omega) (by simpa using hj)
        rwa [show o + 1 + j = o + (j + 1) by omega]
    | succ i =>
      have hi' : i < ds.length := by simpa using hi
      rw [loadBytes, List.getElem?_cons_succ]
      refine ih (by rwa [List.length_set]) hi' (by rw [← hk]; congr 1; omega) fun j hij hj => ?_
      have h := hlast (j + 1) (by omega) (by simpa using hj)
      rwa [show o + 1 + j = o + (j + 1) by omega]

/-- Settles O20: by induction on the data, the last byte to reach an offset stands. -/
theorem loadedBytesByOffset : Obligations.LoadedBytesByOffset := fun buf data o _ hbuf _ =>
  ⟨(loadBytes_length buf o data).trans hbuf, fun _ hi hk hlast => loadBytes_reached hbuf hi hk hlast,
    fun h => loadBytes_untouched h⟩

/-! ### READ BUFFER (R108) -/

/-- The bytes of a stream on a buffer, place by place. -/
theorem State.bufferBytes_getElem? {st : BufferStream} {b : Nat} {u : Buffer} (hb : st.buffer = some b)
    (hu : s.buffers[b]? = some u) (hdata : u.data.length = 256) (hi : i < n) :
    (s.bufferBytes st n)[i]? = u.data[(st.offset.toNat + i) % 256]? := by
  have hlt : (st.offset.toNat + i) % 256 < u.data.length := by omega
  simp [State.bufferBytes, hb, hu, hi, List.getElem?_eq_getElem hlt]

theorem State.bufferBytes_length (s : State) (st : BufferStream) (n : Nat) : (s.bufferBytes st n).length = n := by
  unfold State.bufferBytes
  split <;> simp

/-- Settles O22: the opening on the buffer, and the bytes of its stream place by place. -/
theorem readBufferDeliversItsBuffer : Obligations.ReadBufferDeliversItsBuffer := by
  refine ⟨fun p h o s hp => ?_, fun p n o b u s hf hu hdata => ?_, fun p n o s hf => ?_⟩
  · simp only [exec, execReadBuffer]
    rw [openFrame_ready _ hp]
    exact congrArg _ (State.modifyPort_congr rfl)
  · exact ⟨_, riseFrame_bufferStream hf, s.bufferBytes_length _ n, fun i hi => State.bufferBytes_getElem? rfl hu hdata hi⟩
  · exact riseFrame_bufferStream hf

end Sys2Proof.Machine
end


section
/-! Submissions and MAP COMMIT (O23, O24, O42): their checks mean their tables, and what an acceptance appends. -/

namespace Sys2Proof.Machine

variable {s t : State} {p : Port} {block : Nat} {tag cls handle : Byte} {a : Addr}

/-! ### Commands with checks and a look -/

section
variable {checks : State → List (Bool × Response)} {accepted : State → State} {table : List (Prop × Response)}

theorem takeCommand_refused {r : Response} (hp : s.portReady p = true) (h : ChecksMean (checks s) table)
    (hr : firstHolds table r) :
    takeCommand p s (fun t => t.checkedAccept (checks t) (accepted t)) = s.answers p r := by
  rw [takeCommand_ready _ hp, State.checkedAccept, h.firstFailing_eq_some hr]
  rfl

theorem takeCommand_accepted (hp : s.portReady p = true) (h : ChecksMean (checks s) table) (hn : noneHolds table) :
    takeCommand p s (fun t => t.checkedAccept (checks t) (accepted t)) = .next ((accepted s).look.respond p .ok) := by
  rw [takeCommand_ready _ hp, State.checkedAccept, h.firstFailing_eq_none hn]

end

/-! ### The shared checks of a submission (R24) -/

theorem State.tagInUse_iff_hasTag : s.tagInUse p tag = true ↔ s.hasTag p tag := by
  simp [State.tagInUse, State.hasTag]

theorem State.mayWrite_iff (h : s.regionLaw = true) : s.mayWrite p block = true ↔
    ∃ i r, s.blockInRegion block i r ∧ r.definition.writeMask.has p = true :=
  State.regionOfBlock_all h (fun r => r.definition.writeMask.has p)

theorem State.holdsBlock_iff_lease (h : s.regionLaw = true) : s.holdsBlock p block = true ↔
    ∃ i r, s.blockInRegion block i r ∧ r.lease.state = .held ∧ r.lease.holder = some p := by
  refine (State.regionOfBlock_all h
    (fun r => decide (r.lease.state = .held) && decide (r.lease.holder = some p))).trans ?_
  simp only [Bool.and_eq_true, decide_eq_true_eq]

theorem State.credit_eq_zero_iff : s.credit p = 0 ↔ 8 ≤ s.entryCount p + s.recordCount p := by
  unfold State.credit Config.portCredit
  omega

theorem State.commonChecks_mean (h : s.regionLaw = true) :
    ChecksMean (s.commonChecks p block tag) (s.sharedRefusals p block tag) :=
  .cons State.tagInUse_iff_hasTag
    (.cons ((Bool.not_eq_true' _).to_iff.trans (Bool.eq_false_iff.trans (not_congr (State.mayWrite_iff h))))
      (.cons ((Bool.not_eq_true' _).to_iff.trans (Bool.eq_false_iff.trans (not_congr (State.holdsBlock_iff_lease h))))
        (.cons (decide_eq_true_iff.trans State.credit_eq_zero_iff) (.cons decide_eq_true_iff .nil))))

theorem State.programChecks_mean (h : s.regionLaw = true) :
    ChecksMean (s.programChecks p handle a tag cls) (s.programRefusals p handle a tag cls) :=
  .cons (by simp) (.cons Option.isNone_iff_eq_none (.cons decide_eq_true_iff (State.commonChecks_mean h)))

theorem State.eraseChecks_mean (h : s.regionLaw = true) :
    ChecksMean (s.eraseChecks p a tag cls) (s.eraseRefusals p a tag cls) :=
  .cons decide_eq_true_iff (State.commonChecks_mean h)

/-- Settles O23: the checks of each submission mean the conditions of its table, in order. -/
theorem submissionRefusedByFirstCheck : Obligations.SubmissionRefusedByFirstCheck := by
  intro p h a tag cls r s hp hlaw
  refine ⟨fun hr => ?_, fun hr => ⟨?_, ?_⟩⟩
  · exact takeCommand_refused (checks := fun t => t.programChecks p h a tag cls)
      (accepted := fun t => t.acceptProgram p h a tag cls) hp (State.programChecks_mean hlaw) hr
  · exact takeCommand_refused (checks := fun t => t.eraseChecks p a tag cls)
      (accepted := fun t => t.acceptErase p .sectorErase (.sector (sectorOf a)) tag cls a) hp
      (State.eraseChecks_mean hlaw) hr
  · exact takeCommand_refused (checks := fun t => t.eraseChecks p a tag cls)
      (accepted := fun t => t.acceptErase p .blockErase (.block (blockOf a)) tag cls a) hp
      (State.eraseChecks_mean hlaw) hr

/-! ### What an acceptance appends -/

theorem State.acceptErase_eq {i : Nat} (hi : s.regionOfBlock (blockOf a) = some i) (kind : EntryKind) (target : Target) :
    s.acceptErase p kind target tag cls a =
      { s with
        queue := s.queue ++ [⟨p, tag, kind, some target, some i, none, cls.toNat,
          min cls.toNat (s.port p).profile.ceiling, 0, .queued, false, 0, s.arrival⟩]
        arrival := s.arrival + 1 } := by
  rw [State.acceptErase, hi]
  rfl

theorem State.acceptProgram_eq {i b : Nat} (hi : s.regionOfBlock (blockOf a) = some i)
    (hb : (s.port p).handle handle = some b) :
    s.acceptProgram p handle a tag cls =
      { (s.modifyBuffer b (fun u => { u with state := .bound })).modifyPort p
          (fun q => { q with handles := q.handles.set handle.toNat none }) with
        queue := s.queue ++ [⟨p, tag, .program, some (.page (pageOf a)), some i, some b, cls.toNat,
          min cls.toNat (s.port p).profile.ceiling, 0, .queued, false, 0, s.arrival⟩]
        arrival := s.arrival + 1 } := by
  simp only [State.acceptProgram, hi, hb]
  rfl

/-- Settles O24: with every check passed, the entry is appended and the look comes last. -/
theorem submissionAcceptedAppendsItsEntry : Obligations.SubmissionAcceptedAppendsItsEntry := by
  intro p h a tag cls i r s hp hlaw hblock appended answered
  have hi : s.regionOfBlock (blockOf a) = some i := State.regionOfBlock_eq hlaw hblock
  refine ⟨fun b hb hn => ?_, fun hn => ⟨?_, ?_⟩⟩
  · refine (takeCommand_accepted (checks := fun t => t.programChecks p h a tag cls)
      (accepted := fun t => t.acceptProgram p h a tag cls) hp (State.programChecks_mean hlaw) hn).trans ?_
    rw [State.acceptProgram_eq hi hb]
    rfl
  · refine (takeCommand_accepted (checks := fun t => t.eraseChecks p a tag cls)
      (accepted := fun t => t.acceptErase p .sectorErase (.sector (sectorOf a)) tag cls a) hp
      (State.eraseChecks_mean hlaw) hn).trans ?_
    rw [State.acceptErase_eq hi]
    rfl
  · refine (takeCommand_accepted (checks := fun t => t.eraseChecks p a tag cls)
      (accepted := fun t => t.acceptErase p .blockErase (.block (blockOf a)) tag cls a) hp
      (State.eraseChecks_mean hlaw) hn).trans ?_
    rw [State.acceptErase_eq hi]
    rfl

/-! ### MAP COMMIT (R165, R166) -/

/-- Two ranges of blocks, none of them empty, overlap exactly where they share a block. -/
theorem RegionDef.overlaps_eq_false_iff {d e : RegionDef} (hd : d.first.toNat ≤ d.last.toNat)
    (he : e.first.toNat ≤ e.last.toNat) :
    d.overlaps e = false ↔ ∀ b, ¬(d.containsBlock b = true ∧ e.containsBlock b = true) := by
  simp only [RegionDef.containsBlock_iff, RegionDef.overlaps, Bool.and_eq_false_iff, decide_eq_false_iff_not]
  constructor
  · intro h b
    omega
  · intro h
    have hmax := h (max d.first.toNat e.first.toNat)
    omega

theorem MapImage.valid_iff {m : MapImage} : m.valid = true ↔ m.sound := by
  refine definitionsValid_iff.trans (and_congr_right fun h => ?_)
  exact List.Pairwise.iff_of_mem fun {d e} hd he => RegionDef.overlaps_eq_false_iff (h d hd) (h e he)

theorem State.changedNotFree_iff {m : MapImage} : s.changedNotFree m = true ↔
    ∃ i r, s.changedBy m i ∧ s.region i = some r ∧ r.lease.state ≠ .free := by
  unfold State.changedNotFree
  simp only [List.any_eq_true, regionIndices, List.mem_range, State.changedBy]
  constructor
  · rintro ⟨i, hi, h⟩
    split at h
    · next r hr =>
      simp only [MapImage.changes, Bool.and_eq_true, decide_eq_true_eq] at h
      exact ⟨i, r, ⟨hi, r, hr, h.1⟩, hr, h.2⟩
    · cases h
  · rintro ⟨i, r, ⟨hi, r', hr', hchange⟩, hr, hfree⟩
    obtain rfl : r' = r := Option.some.inj (hr'.symm.trans hr)
    refine ⟨i, hi, ?_⟩
    simp only [hr, MapImage.changes, Bool.and_eq_true, decide_eq_true_eq]
    exact ⟨hchange, hfree⟩

theorem State.commitChecks_mean : ChecksMean (s.commitChecks p tag) (s.commitRefusals p tag) := by
  have hspent : s.generation = Config.generationSpent ↔ s.generation.toNat = 65535 :=
    ⟨fun h => by rw [h]; rfl, fun h => BitVec.eq_of_toNat_eq h⟩
  refine .cons State.notAuthority_iff (.cons Option.isNone_iff_eq_none (.cons State.mapPending_iff (.cons ?_
    (.cons (decide_eq_true_iff.trans hspent) (.cons State.tagInUse_iff_hasTag (.cons ?_
      (.cons (decide_eq_true_iff.trans State.credit_eq_zero_iff) (.cons decide_eq_true_iff .nil))))))))
  · cases s.staged with
    | none => simp
    | some m => simp [← MapImage.valid_iff]
  · cases hm : s.staged with
    | none => simp
    | some m => simp [State.changedNotFree_iff]

/-- All of a state but its Region Table. -/
def State.offTable (s : State) : State := { s with regions := [] }

theorem State.freeze_offTable (m : MapImage) (s : State) (i : Nat) : (State.freeze m s i).offTable = s.offTable := by
  unfold State.freeze
  split
  · split <;> rfl
  · rfl

/-- Freezing changes leases alone, and posts nothing. -/
theorem State.frozen_offTable (s : State) (m : MapImage) :
    (s.frozen m).offTable = { s with commitImage := some m }.offTable :=
  foldl_keeps (f := State.freeze m) State.offTable (State.freeze_offTable m) regionIndices _

theorem State.eq_of_offTable (h : s.offTable = t.offTable) (hr : s.regions = t.regions) : s = t := by
  have heq : { s.offTable with regions := s.regions } = { t.offTable with regions := t.regions } := by rw [h, hr]
  exact heq

/-- Freezing changes the Region Table alone. -/
theorem State.frozen_eq (s : State) (m : MapImage) :
    s.frozen m = { s with commitImage := some m, regions := (s.frozen m).regions } := by
  have h := s.frozen_offTable m
  generalize s.frozen m = u at h
  exact State.eq_of_offTable h rfl

theorem State.region_frozen_of_changed {m : MapImage} {i : Nat} {r : Region} (hc : s.changedBy m i)
    (hr : s.region i = some r) : (s.frozen m).region i = some { r with lease := { r.lease with state := .frozen } } := by
  obtain ⟨hlt, r', hr', hchange⟩ := hc
  obtain rfl : r' = r := Option.some.inj (hr'.symm.trans hr)
  have hchanges : m.changes i r' = true := decide_eq_true hchange
  rw [State.region_frozen, hr, Option.map_some, if_pos hlt, if_pos hchanges]

theorem State.region_frozen_of_unchanged {m : MapImage} {i : Nat} (hc : ¬s.changedBy m i) :
    (s.frozen m).region i = s.region i := by
  rw [State.region_frozen]
  cases hr : s.region i with
  | none => rfl
  | some r =>
    refine congrArg some ?_
    split
    · next hlt => exact if_neg fun hchange => hc ⟨hlt, r, hr, of_decide_eq_true hchange⟩
    · rfl

/-- Settles O42: the checks mean the table's conditions; an accepted commit freezes region by region. -/
theorem commitRefusedOrAppended : Obligations.CommitRefusedOrAppended := by
  intro p tag s hp _
  refine ⟨fun r hr => ?_, fun m hm hn => ⟨s.acceptCommit p tag, ?_, ?_, fun i r hc hr => ?_, fun i hc => ?_⟩⟩
  · exact takeCommand_refused (checks := fun t => t.commitChecks p tag) (accepted := fun t => t.acceptCommit p tag) hp
      State.commitChecks_mean hr
  · exact takeCommand_accepted (checks := fun t => t.commitChecks p tag) (accepted := fun t => t.acceptCommit p tag) hp
      State.commitChecks_mean hn
  all_goals rw [State.acceptCommit_some hm]
  · have hfrozen := s.frozen_eq m
    generalize s.frozen m = u at hfrozen
    rw [hfrozen]
    rfl
  · have hregion := State.region_frozen_of_changed hc hr
    generalize s.frozen m = u at hregion
    exact hregion
  · have hregion := State.region_frozen_of_unchanged hc
    generalize s.frozen m = u at hregion
    exact hregion

end Sys2Proof.Machine
end


section
/-! CANCEL, starts and looks (O25, O26, O27). -/

namespace Sys2Proof.Machine

variable {s t : State} {p : Port} {tag : Byte} {i j : Nat} {e : Entry} {r : Region}

/-! ### The thaw of a table in which no FROZEN region has waiters -/

theorem State.regions_ext {n : Nat} (hs : s.regions.length = n) (ht : t.regions.length = n)
    (h : ∀ j, s.region j = t.region j) : s.regions = t.regions := by
  refine List.ext_getElem (hs.trans ht.symm) fun j hj hj' => ?_
  have hregion := h j
  simpa [State.region, List.getElem?_eq_getElem hj, List.getElem?_eq_getElem hj'] using hregion

/-- No FROZEN region has waiters (R78). -/
def State.FrozenAlone (s : State) : Prop :=
  ∀ j r, s.region j = some r → r.lease.state = .frozen → r.lease.waiters = []

theorem State.frozenAlone_of_leaseLaw (h : s.leaseLaw = true) : s.FrozenAlone := by
  intro j r hr hf
  have hmem : some r ∈ s.regions := List.mem_of_getElem? (Option.join_eq_some_iff.1 hr)
  have hlaw := List.all_eq_true.1 h _ hmem
  simp only [Bool.and_eq_true, Region.leaseLaw, hf, List.isEmpty_iff] at hlaw
  exact hlaw.1.1.2

theorem Region.granted_of_nil {l : Lease} (h : l.waiters = []) : r.granted l = l := by
  unfold Region.granted
  rw [h]

/-- A thaw with no waiter grants nothing, and posts nothing. -/
theorem State.unfreeze_offTable (h : s.FrozenAlone) (i : Nat) : (s.unfreeze i).offTable = s.offTable := by
  unfold State.unfreeze
  split
  · next r hr =>
    split
    · next hf =>
      have hw : r.lease.waiters = [] := h i r hr hf
      simp only [State.grantStep, State.region_modifyLease_self, hr, Option.map_some, hw]
      rfl
    · rfl
  · rfl

theorem State.frozenAlone_unfreeze (h : s.FrozenAlone) (i : Nat) : (s.unfreeze i).FrozenAlone := by
  intro j r hr hf
  rw [State.region_unfreeze] at hr
  obtain ⟨r', hr', rfl⟩ := Option.map_eq_some_iff.1 hr
  split at hf
  · next hj =>
    have hw : r'.lease.waiters = [] := h j r' hr' hj.2
    rw [if_pos hj, Region.granted_of_nil (by exact hw)]
    exact hw
  · next hj =>
    rw [if_neg hj]
    exact h j r' hr' hf

theorem State.unfreezeAll_offTable (h : s.FrozenAlone) : s.unfreezeAll.offTable = s.offTable := by
  unfold State.unfreezeAll
  generalize regionIndices = is
  induction is generalizing s with
  | nil => rfl
  | cons i is ih => exact (ih (State.frozenAlone_unfreeze h i)).trans (State.unfreeze_offTable h i)

theorem Region.thawed_eq (hw : r.lease.state = .frozen → r.lease.waiters = []) :
    (if r.lease.state = .frozen then { r with lease := r.granted { r.lease with state := .free } } else r) =
      r.thawed := by
  unfold Region.thawed
  split
  · next hf => rw [Region.granted_of_nil (by exact hw hf)]
  · rfl

theorem State.region_mapRegions (s : State) (f : Region → Region) (j : Nat) :
    State.region { s with regions := s.regions.map (Option.map f) } j = (s.region j).map f := by
  unfold State.region
  rw [List.getElem?_map]
  cases s.regions[j]? with
  | none => rfl
  | some slot => cases slot <;> rfl

theorem State.region_of_length_le (h : s.regions.length ≤ j) : s.region j = none := by
  rw [State.region, List.getElem?_eq_none h]
  rfl

/-- R34, R95: the thaw of a table whose FROZEN regions have no waiters changes their lease states alone. -/
theorem State.unfreezeAll_eq (h : s.FrozenAlone) (hlen : s.regions.length = 16) :
    s.unfreezeAll = { s with regions := s.regions.map (Option.map Region.thawed) } := by
  have hrest := State.unfreezeAll_offTable h
  have hregion := s.region_unfreezeAll
  have hlength : s.unfreezeAll.regions.length = 16 := (OnlyLeases.unfreezeAll s).length.trans hlen
  generalize s.unfreezeAll = u at hrest hregion hlength
  refine State.eq_of_offTable hrest (State.regions_ext (n := 16) hlength (by simpa using hlen) fun j => ?_)
  rw [hregion, State.region_mapRegions]
  cases hr : s.region j with
  | none => rfl
  | some r =>
    have hj : j < 16 := by
      by_contra hge
      rw [State.region_of_length_le (by omega)] at hr
      cases hr
    simp only [Option.map_some, hj, true_and]
    rw [Region.thawed_eq (h j r hr)]

/-- R34, R160: the removal of a QUEUED MAP_COMMIT. -/
theorem State.dropCommit_eq (h : s.FrozenAlone) (hlen : s.regions.length = 16) :
    s.dropCommit = { s with commitImage := none, regions := s.regions.map (Option.map Region.thawed) } :=
  State.unfreezeAll_eq (s := { s with commitImage := none }) h hlen

/-! ### CANCEL (R32, R34) -/

theorem State.tagIndex_eq_none (h : ∀ e ∈ s.queue, ¬(e.port = p ∧ e.tag = tag)) : s.tagIndex p tag = none := by
  refine List.findIdx?_eq_none_iff.2 fun e he => ?_
  simpa using h e he

theorem State.tagIndex_eq (hlaw : s.tagLaw = true) (hi : s.queue[i]? = some e) (hp : e.port = p) (ht : e.tag = tag) :
    s.tagIndex p tag = some i := by
  obtain ⟨hlt, he⟩ := List.getElem?_eq_some_iff.1 hi
  refine List.findIdx?_eq_some_iff_getElem.2 ⟨hlt, by simp [he, hp, ht], fun j hj => ?_⟩
  intro hmatch
  have hnodup := State.tagLaw_iff.1 hlaw
  have hkey : s.keys[j]? = s.keys[i]? := by
    have hjlt : j < s.queue.length := by omega
    simp only [Bool.and_eq_true, decide_eq_true_eq] at hmatch
    simp [State.keys, hi, List.getElem?_eq_getElem hjlt, hmatch.1, hmatch.2, hp, ht]
  have hij := (List.nodup_iff_getElem?_ne_getElem?.1 hnodup) j i hj (by simpa [State.keys] using hlt)
  exact hij hkey

section
variable (hp : s.portReady p = true)
include hp

theorem exec_cancel_unknown (h : s.tagIndex p tag = none) : exec (.cancel p tag) s = s.answers p .unknownTag := by
  simp only [exec, execCancel]
  rw [takeCommand_ready _ hp, h]
  rfl

theorem exec_cancel_found (h : s.tagIndex p tag = some i) (hi : s.queue[i]? = some e) :
    exec (.cancel p tag) s =
      if e.state = .queued then .next ((s.cancelEntry i e).respond p .ok) else s.answers p .started := by
  simp only [exec, execCancel]
  rw [takeCommand_ready _ hp, h]
  simp only [hi, Entry.isQueued, decide_eq_true_eq]
  split <;> rfl

end

/-- R34: the entry is gone, its record posted, and the port answers OK. -/
def State.cancelled (s : State) (p : Port) (i : Nat) (e : Entry) : State :=
  { s with queue := s.queue.eraseIdx i }.modifyPort p (fun q =>
    { q with
      completions := q.completions ++ [q.nextRecord e .cancelled]
      sequence := q.sequence + 1
      lastResponse := .ok })

theorem State.cancelEntry_respond (hp : e.port = p) (hk : e.kind ≠ .mapCommit) :
    (s.cancelEntry i e).respond p .ok = match e.buffer with
      | some b => (s.cancelled p i e).modifyBuffer b (fun u => { u with state := .free })
      | none => s.cancelled p i e := by
  subst hp
  unfold State.cancelEntry
  rw [if_neg hk]
  unfold State.freeEntryBuffer
  cases e.buffer <;> exact State.modifyPort_modifyPort ..

theorem State.cancelEntry_commit_respond (hp : e.port = p) (hk : e.kind = .mapCommit) (hb : e.buffer = none)
    (hlaw : s.leaseLaw = true) (hlen : s.regions.length = 16) :
    (s.cancelEntry i e).respond p .ok =
      { s.cancelled p i e with
        commitImage := none
        regions := s.regions.map (Option.map Region.thawed) } := by
  subst hp
  unfold State.cancelEntry
  rw [if_pos hk]
  simp only [State.freeEntryBuffer, hb]
  rw [State.dropCommit_eq (s := State.postRecord { s with queue := s.queue.eraseIdx i } e .cancelled)
    (State.frozenAlone_of_leaseLaw hlaw) hlen]
  have hrespond : State.respond (State.postRecord { s with queue := s.queue.eraseIdx i } e .cancelled) e.port .ok =
    s.cancelled e.port i e := State.modifyPort_modifyPort ..
  rw [← hrespond]
  rfl

/-- Settles O25: by whether the tag names no entry, a started one or a QUEUED one. -/
theorem cancelDecidedByItsEntry : Obligations.CancelDecidedByItsEntry := by
  refine ⟨fun p tag s hp => ⟨fun h => exec_cancel_unknown hp (State.tagIndex_eq_none h),
    fun i e hi hport htag hlaw => ⟨fun hs => ?_, fun hs hk => ?_⟩⟩,
    fun p tag i e s hp hi hport htag hs hk hb hlaw hlease hlen => ?_⟩
  all_goals rw [exec_cancel_found hp (State.tagIndex_eq hlaw hi hport htag) hi]
  · rw [if_neg hs]
  · rw [if_pos hs, State.cancelEntry_respond hport hk]
    rfl
  · rw [if_pos hs, State.cancelEntry_commit_respond hport hk hb hlease hlen]
    rfl

/-! ### A start (R52) -/

theorem Entry.age_apply (cls : Nat) (f : Entry) : f.age cls =
    if f.state = .queued ∧ f.effectiveClass < cls then
      if f.bypass = 7 then { f with effectiveClass := f.effectiveClass + 1, bypass := 0 }
      else { f with bypass := f.bypass + 1 }
    else f := by
  have hlimit : (f.bypass + 1 = Config.bypassLimit) = (f.bypass = 7) := by
    rw [show Config.bypassLimit = 7 + 1 from rfl, Nat.add_right_cancel_iff]
  simp only [Entry.age, Entry.isQueued, hlimit, Bool.and_eq_true, decide_eq_true_eq]

/-- R156: the slot a commit writes. -/
theorem State.commitSlot_eq (s : State) : s.commitSlot = if s.currentSlot = some .x then .y else .x := by
  unfold State.commitSlot
  rcases s.currentSlot with _ | _ | _ <;> rfl

theorem State.slot_startEntry (hi : s.queue[i]? = some e) (n : SlotName) :
    (s.startEntry i).slot n = if e.kind = .mapCommit ∧ n = (if s.currentSlot = some .x then .y else .x)
      then { s.slot n with mark := false } else s.slot n := by
  have hslot : (s.startEntry i).slot n = (if e.kind = .mapCommit then s.beginSlotWrite else s).slot n := by
    rw [State.startEntry_eq hi]
    cases n <;> rfl
  rw [hslot, ← State.commitSlot_eq]
  by_cases hk : e.kind = .mapCommit
  · rw [if_pos hk, State.beginSlotWrite, State.slot_setSlot]
    by_cases hn : n = s.commitSlot
    · rw [if_pos hn, if_pos ⟨hk, hn⟩, hn]
    · rw [if_neg hn, if_neg fun h => hn h.2]
  · rw [if_neg hk, if_neg fun h => hk h.1]

/-- Settles O26: the start of an entry, and the ageing of each older entry. -/
theorem startAgesAndRuns : Obligations.StartAgesAndRuns := by
  intro s i e hi heng t aged
  refine ⟨?_, ?_, fun j => State.region_startEntry hi j, fun n => State.slot_startEntry hi n, ?_⟩
  · have haged : Entry.age e.effectiveClass = aged := funext fun f => Entry.age_apply _ f
    rw [← haged]
    exact congrArg State.queue (State.startEntry_eq hi)
  · refine (congrArg State.engine (State.startEntry_eq hi)).trans ?_
    rcases heng with h | h <;> rw [h] <;> rfl
  · simp only [t, State.startEntry_eq hi]

/-! ### A look (R48 to R51, R60, R68) -/

/-- R49: an entry is eligible. -/
def State.Fit (s : State) (e : Entry) : Prop :=
  e.state = .queued ∧ s.supply = .normal ∧ (∀ k, e.bank = some k → s.holders.get k = 0) ∧
  (∀ x, s.parkedErase = some x → e.kind ≠ .sectorErase ∧ e.kind ≠ .blockErase ∧
    (e.kind = .program → e.targetInside x = false))

theorem State.eligible_iff_fit (e : Entry) : s.eligible e = true ↔ s.Fit e := by
  have hkind : e.kind.isErase = false ↔ e.kind ≠ .sectorErase ∧ e.kind ≠ .blockErase := by
    cases e.kind <;> simp [EntryKind.isErase]
  rw [State.eligible_iff]
  simp only [State.Fit, hkind, and_assoc]

/-- R51: an entry may run over the parked erase x. -/
theorem State.mayRunOver_iff {x : Entry} (hx : s.parkedErase = some x) (e : Entry) :
    s.mayRunOver x e = true ↔ s.Fit e ∧ x.effectiveClass < e.effectiveClass := by
  simp only [State.mayRunOver, Bool.and_eq_true, decide_eq_true_eq, Bool.not_eq_true', State.eligible_iff_fit]
  refine ⟨fun h => ⟨h.1.1, h.2⟩, fun h => ⟨⟨h.1, ?_⟩, h.2⟩⟩
  exact ((State.eligible_iff.1 ((State.eligible_iff_fit e).2 h.1)).2.2.2 x hx).1

/-- R50: the entry at a place is the first of the highest class among those that a condition allows. -/
def State.Chosen (s : State) (ok : Entry → Prop) (i : Nat) : Prop :=
  ∃ e, s.queue[i]? = some e ∧ ok e ∧ ∀ j f, s.queue[j]? = some f → ok f →
    f.effectiveClass ≤ e.effectiveClass ∧ (j < i → f.effectiveClass < e.effectiveClass)

section
variable {ok : Entry → Prop} {f : Entry → Bool} (hf : ∀ e, f e = true ↔ ok e)
include hf

theorem State.firstHighest_of_chosen (h : s.Chosen ok i) :
    (firstHighest f s.queue).map (fun c => c.1) = some i := by
  obtain ⟨e, hi, hok, hall⟩ := h
  rw [firstHighest_of hi ((hf e).2 hok) fun j x hj hx => hall j x hj ((hf x).1 hx)]
  rfl

theorem State.firstHighest_of_none (h : ∀ e ∈ s.queue, ¬ok e) :
    (firstHighest f s.queue).map (fun c => c.1) = none := by
  rw [firstHighest_eq_none.2 fun e he => Bool.eq_false_iff.2 (mt (hf e).1 (h e he))]
  rfl

end

theorem State.selectOver_eq {x : Entry} (hx : s.parkedErase = some x) :
    s.selectOver = (firstHighest (s.mayRunOver x) s.queue).map (fun c => c.1) := by
  rw [State.selectOver, hx]

/-- R60: the program pressure test in BUSY. -/
theorem State.pressureTest_iff {x : Entry} (hx : s.activeEntry = some x) (hnone : s.parkedErase = none) :
    s.pressureTest = true ↔ (x.kind = .sectorErase ∨ x.kind = .blockErase) ∧ x.suspendCount < 16 ∧
      ∃ e ∈ s.queue, e.kind = .program ∧ e.state = .queued ∧ s.supply = .normal ∧
        (∀ k, e.bank = some k → s.holders.get k = 0) ∧ x.effectiveClass < e.effectiveClass ∧
        e.targetInside x = false := by
  have hpress : ∀ e, s.presses x e = true ↔ e.kind = .program ∧ e.state = .queued ∧ s.supply = .normal ∧
      (∀ k, e.bank = some k → s.holders.get k = 0) ∧ x.effectiveClass < e.effectiveClass ∧
      e.targetInside x = false := fun e => by
    simp only [State.presses, Bool.and_eq_true, decide_eq_true_eq, Bool.not_eq_true', State.eligible_iff, hnone,
      reduceCtorEq, false_implies, implies_true, and_true, and_assoc]
  simp only [State.pressureTest, hx, Bool.and_eq_true, EntryKind.isErase_iff, decide_eq_true_eq, List.any_eq_true,
    hpress, and_assoc, show Config.suspendLimit = 16 from rfl]

theorem State.resumeTest_iff {x : Entry} (hx : s.parkedErase = some x) : s.resumeTest = true ↔
    s.window = none ∧ s.supply = .normal ∧ ∀ k, x.bank = some k → s.holders.get k = 0 := by
  simp only [State.resumeTest, hx, Bool.and_eq_true, decide_eq_true_eq, and_assoc]
  refine and_congr_right fun _ => and_congr_right fun _ => ?_
  cases x.bank <;> simp

/-- The look in IDLE and PARKED, and where it does nothing. -/
theorem State.look_unengaged (s : State) :
    (s.engine = .idle → (∀ i, s.Chosen s.Fit i → s.look = s.startEntry i) ∧ ((∀ e ∈ s.queue, ¬s.Fit e) → s.look = s)) ∧
    (∀ x, s.engine = .parked → s.parkedErase = some x →
      (∀ i, s.Chosen (fun e => s.Fit e ∧ x.effectiveClass < e.effectiveClass) i → s.look = s.startEntry i) ∧
      ((∀ e ∈ s.queue, ¬(s.Fit e ∧ x.effectiveClass < e.effectiveClass)) →
        s.look = if s.resumeTest then s.resumeErase else s)) ∧
    (s.engine = .suspending ∨ s.engine = .busyParked → s.look = s) := by
  refine ⟨fun heng => ⟨fun i hi => ?_, fun hnone => ?_⟩, fun x heng hx => ⟨fun i hi => ?_, fun hnone => ?_⟩, ?_⟩
  · have hsel : s.selectAny = some i := State.firstHighest_of_chosen State.eligible_iff_fit hi
    simp only [State.look, heng, hsel]
  · have hsel : s.selectAny = none := State.firstHighest_of_none State.eligible_iff_fit hnone
    simp only [State.look, heng, hsel]
  · have hsel : s.selectOver = some i :=
      (State.selectOver_eq hx).trans (State.firstHighest_of_chosen (State.mayRunOver_iff hx) hi)
    simp only [State.look, heng, hsel]
  · have hsel : s.selectOver = none :=
      (State.selectOver_eq hx).trans (State.firstHighest_of_none (State.mayRunOver_iff hx) hnone)
    simp only [State.look, heng, hsel]
  · rintro (heng | heng) <;> simp only [State.look, heng]

/-- Settles O27: by the engine state that the look finds. -/
theorem lookStartsResumesOrSuspends : Obligations.LookStartsResumesOrSuspends := by
  refine ⟨fun s => ?_, fun s i x heng hi hx => ?_⟩
  · obtain ⟨hidle, hparked, hother⟩ := s.look_unengaged
    refine ⟨hidle, fun x heng hx _ => ?_, hother⟩
    obtain ⟨hover, hnone⟩ := hparked x heng hx
    refine ⟨hover, fun h => ⟨fun hr => ?_, fun hr i hi => ?_⟩⟩
    · exact (hnone h).trans (if_neg (mt (State.resumeTest_iff hx).1 hr))
    · refine (hnone h).trans ((if_pos ((State.resumeTest_iff hx).2 hr)).trans ?_)
      rw [State.resumeErase, hi]
      rfl
  · have hactive : s.activeEntry = some x := by simp [State.activeEntry, State.entryAt, hi, hx]
    have hnone : s.parkedErase = none := by simp [State.parkedErase, State.parkedIndex, State.entryAt, heng]
    have hlook : s.look = if s.pressureTest then s.orderSuspend else s := by simp only [State.look, heng]
    have htest := State.pressureTest_iff hactive hnone
    refine ⟨fun hp => ?_, fun hp => hlook.trans (if_neg (mt htest.1 hp))⟩
    refine hlook.trans ((if_pos (htest.2 hp)).trans ?_)
    rw [State.orderSuspend, hi]
    rfl

end Sys2Proof.Machine
end


section
/-! The end of a PROGRAM or an erase in the array (O29): the state it leaves but for regions and ports, and the bytes and
pages of its target. -/

namespace Sys2Proof.Machine

variable {s : State} {i n : Nat} {e : Entry} {outcome : EndOutcome} {tg : Target}

/-! ### The row of an end -/

theorem State.activeIndex_engine (hi : s.activeIndex = some i) :
    s.engine = .busy ∨ s.engine = .suspending ∨ s.engine = .busyParked := by
  cases h : s.engine <;> simp [State.activeIndex, h] at hi ⊢

theorem exec_operationEnd (hstop : s.stopping = []) (hi : s.activeIndex = some i) (he : s.queue[i]? = some e)
    (outcome : EndOutcome) : exec (.operationEnd outcome) s = .next (s.endEntry i e outcome).look := by
  have hidle : ¬(s.engine = .idle ∨ s.engine = .parked ∨ s.stopping ≠ []) := by
    rcases State.activeIndex_engine hi with h | h | h <;> simp [h, hstop]
  simp only [exec, execOperationEnd]
  rw [if_neg hidle, hi]
  simp only [he]

/-! ### What an end that is no commit's leaves unchanged -/

theorem State.ended_leases (hk : e.kind ≠ .mapCommit) :
    OnlyLeases (s.endedArray i e outcome) (s.ended i e outcome) := by
  have heq : s.ended i e outcome = (s.endedArray i e outcome).endInNeighbours e outcome := rfl
  rw [heq]
  unfold State.endInNeighbours
  rw [if_neg hk]
  split
  · exact OnlyLeases.drainDown _ _
  · exact OnlyLeases.refl _

/-- All of a state but its Region Table and its ports. -/
def State.offLeases (s : State) : State := { s with regions := [], ports := State.reset.ports }

theorem OnlyLeases.offLeases {t : State} (h : OnlyLeases s t) : t.offLeases = s.offLeases := by
  have heq := congrArg State.offLeases h.rest
  exact heq

/-- The engine after an end, and the noted request. -/
theorem State.endEntry_offLeases (hk : e.kind ≠ .mapCommit) : (s.endEntry i e outcome).offLeases =
    { (s.endedArray i e outcome).offLeases with
      engine := s.engine.ended
      noted := if s.engine = .suspending then none else s.noted } := by
  have hended := (State.ended_leases (s := s) (i := i) (outcome := outcome) hk).offLeases
  have hnoted : (s.ended i e outcome).noted = s.noted := by
    have h1 : (s.ended i e outcome).noted = (s.endedArray i e outcome).noted := by
      have h := congrArg State.noted hended
      exact h
    rw [h1, State.endedArray_eq]
  rw [State.endEntry_eq]
  generalize s.ended i e outcome = u at hended hnoted
  rw [← hended]
  split <;> simp only [State.postRecord_noted, hnoted] <;> rfl

theorem State.endedArray_pages : (s.endedArray i e outcome).unsettled =
    (({ s with queue := s.queue.eraseIdx i } : State).endInArray e outcome).unsettled := by
  unfold State.endedArray
  rw [State.freeEntryBuffer_eq]

theorem State.endEntry_unsettled (hk : e.kind ≠ .mapCommit) : (s.endEntry i e outcome).unsettled =
    (({ s with queue := s.queue.eraseIdx i } : State).endInArray e outcome).unsettled := by
  have h := congrArg State.unsettled (State.endEntry_offLeases (s := s) (i := i) (outcome := outcome) hk)
  exact Eq.trans h State.endedArray_pages

/-! ### The array after an end -/

/-- R1, R4: the pages of a target are those that begin inside it. -/
theorem Target.mem_pages (t : Target) (n : Nat) : n ∈ t.pages ↔ t.first ≤ n * 256 ∧ n * 256 < t.first + t.size := by
  have hfirst : t.first % 256 = 0 := by
    cases t <;> simp only [Target.first, Config.pageBytes, Config.sectorBytes, Config.blockBytes] <;> omega
  have hsize : t.size % 256 = 0 := by
    cases t <;> simp only [Target.size, Config.pageBytes, Config.sectorBytes, Config.blockBytes]
  simp only [Target.pages, List.mem_range'_1, Config.pageBytes]
  omega

/-- An ended operation acts on the array before the look. -/
theorem exec_operationEnd_array (hstop : s.stopping = []) (hi : s.activeIndex = some i) (he : s.queue[i]? = some e)
    (hk : e.kind ≠ .mapCommit) (outcome : EndOutcome) : ∃ t, exec (.operationEnd outcome) s = .next t ∧
      t.mem = (({ s with queue := s.queue.eraseIdx i } : State).endInArray e outcome).mem ∧
      t.unsettled = (({ s with queue := s.queue.eraseIdx i } : State).endInArray e outcome).unsettled := by
  refine ⟨_, exec_operationEnd hstop hi he outcome, ?_, ?_⟩
  · rw [State.look_mem, State.endEntry_mem]
  · rw [State.look_unsettled, State.endEntry_unsettled hk]

/-- R2: the page of a PROGRAM that ended DONE. -/
theorem State.programmed {b : Nat} {u : Buffer} (hk : e.kind = .program) (ht : e.target = some tg)
    (hlaw : e.targetLaw = true) (hwf : s.mem.wf = true) (hb : e.buffer = some b) (hu : s.buffers[b]? = some u)
    (hdata : u.data.length = 256) (a : Nat) : (s.endInArray e .done).mem.read a =
      if tg.first ≤ a ∧ a < tg.first + tg.size then s.mem.read a &&& u.data.getD (a - tg.first) 0
      else s.mem.read a := by
  obtain ⟨k, rfl, hrange⟩ : ∃ k, tg = .page k ∧ k < 65536 := by
    unfold Entry.targetLaw at hlaw
    cases tg <;> simp [hk, ht, Target.inRange] at hlaw
    exact ⟨_, rfl, hlaw⟩
  have hentry : s.entryData e = u.data := by simp [State.entryData, hb, hu]
  have hfits : (Target.page k).first + u.data.length ≤ Config.arrayBytes := by
    simp only [Target.first, Config.pageBytes, Config.arrayBytes, hdata]
    omega
  have hread := Memory.read_program (Target.page k).first a u.data hwf hfits
  rw [hdata] at hread
  simp only [State.endInArray, ht, State.applyDone, hk, hentry]
  exact hread

/-- R3, R4: the target of an erase that ended DONE. -/
theorem State.erased (hk : e.kind = .sectorErase ∨ e.kind = .blockErase) (ht : e.target = some tg) :
    s.endInArray e .done = { s with mem := s.mem.erase tg.first tg.size }.settle tg := by
  rcases hk with hk | hk <;> simp only [State.endInArray, ht, State.applyDone, hk]

/-- Settles O29: address by address, for each kind of operation and outcome. -/
theorem arrayAfterAnEnd : Obligations.ArrayAfterAnEnd := by
  intro s i e tg hstop hi he hk ht hlaw hwf inside
  obtain ⟨t, hexec, hmem, hpages⟩ := exec_operationEnd_array hstop hi he hk .done
  refine ⟨fun b u hkind hb hu hdata => ⟨t, hexec, ?_⟩, fun hkind => ⟨t, hexec, ?_⟩, ?_⟩
  · have hread := State.programmed (s := { s with queue := s.queue.eraseIdx i }) hkind ht hlaw hwf hb hu hdata
    rw [← hmem] at hread
    refine ⟨fun a ha => (hread a).trans (if_pos ha), fun a ha => (hread a).trans (if_neg ha), ?_⟩
    rw [hpages]
    simp only [State.endInArray, ht, State.applyDone, hkind]
  · rw [State.erased hkind ht] at hmem hpages
    have hread := Memory.read_erase s.mem tg.first tg.size
    refine ⟨fun a ha => ?_, fun a ha => ?_, fun n => ?_⟩
    · rw [hmem]
      exact (hread a).trans (if_pos ha)
    · rw [hmem]
      exact (hread a).trans (if_neg ha)
    · rw [hpages, State.mem_settle, Target.mem_pages]
  · obtain ⟨t, hexec, hmem, hpages⟩ := exec_operationEnd_array hstop hi he hk .failed
    have hfail : (({ s with queue := s.queue.eraseIdx i } : State).endInArray e .failed) =
        ({ s with queue := s.queue.eraseIdx i } : State).unsettle tg := by
      simp only [State.endInArray, ht]
    rw [hfail] at hmem hpages
    refine ⟨t, hexec, hmem, fun n => ?_⟩
    rw [hpages, State.mem_unsettle, Target.mem_pages]

end Sys2Proof.Machine
end


section
/-! What a happening reports to a port (O28): records at the end of its Completion Queue, with the next sequence numbers,
and notices; first of the operations on leases, then of the end of a PROGRAM or an erase. -/

namespace Sys2Proof.Machine

variable {s t : State} {p q : Port} {i j : Nat} {e : Entry} {r : Region} {outcome : EndOutcome}

/-! ### Reports -/

/-- R116, R117, R122: a port is told of records and of kinds of notices, and nothing else of it changes. -/
structure PortState.Reports (before after : PortState) (records : List CompletionRecord) (kinds : NoticeKind → Prop) :
    Prop where
  completions : after.completions = before.completions ++ records
  sequence : after.sequence = before.sequence + BitVec.ofNat 16 records.length
  posted : before.posted after kinds
  rest : { after with
    completions := before.completions
    sequence := before.sequence
    latched := before.latched
    postedSinceView := before.postedSinceView } = before

namespace PortState.Reports

variable {a b c : PortState} {xs ys : List CompletionRecord} {k l : NoticeKind → Prop}

theorem refl (a : PortState) : a.Reports a [] (fun _ => False) where
  completions := (List.append_nil _).symm
  sequence := by simp
  posted n := by simp
  rest := rfl

theorem congr (h : a.Reports b xs k) (hk : ∀ n, k n ↔ l n) : a.Reports b xs l where
  completions := h.completions
  sequence := h.sequence
  posted n := by
    rw [← hk n]
    exact h.posted n
  rest := h.rest

theorem trans (h : a.Reports b xs k) (h' : b.Reports c ys l) : a.Reports c (xs ++ ys) (fun n => k n ∨ l n) where
  completions := by rw [h'.completions, h.completions, List.append_assoc]
  sequence := by
    rw [h'.sequence, h.sequence, List.length_append, BitVec.add_assoc, ← BitVec.ofNat_add]
  posted n := by
    obtain ⟨h1, h2⟩ := h.posted n
    obtain ⟨h3, h4⟩ := h'.posted n
    rw [h3, h4, h1, h2, or_assoc, or_assoc]
    exact ⟨Iff.rfl, Iff.rfl⟩
  rest := by
    have hb := h.rest
    have hc := h'.rest
    rw [← hc] at hb
    exact hb

end PortState.Reports

/-- A notice posted to a port. -/
theorem State.post_reports (s : State) (p q : Port) (k : NoticeKind) :
    (s.port q).Reports ((s.post p k).port q) [] (fun n => q = p ∧ n = k) := by
  unfold State.post
  rw [State.port_modifyPort]
  split
  · next hq =>
    refine ⟨(List.append_nil _).symm, by simp, fun n => ?_, rfl⟩
    simp [NoticeFlags.get_mark, hq, or_comm]
  · next hq => exact (PortState.Reports.refl _).congr fun n => by simp [hq]

/-- A record posted to the port of its entry. -/
theorem State.postRecord_reports (s : State) (e : Entry) (x : Status) (q : Port) :
    (s.port q).Reports ((s.postRecord e x).port q) (if q = e.port then [(s.port q).nextRecord e x] else [])
      (fun _ => False) := by
  unfold State.postRecord
  rw [State.port_modifyPort]
  split
  · exact ⟨rfl, rfl, fun n => by simp, rfl⟩
  · exact PortState.Reports.refl _

/-! ### Leases -/

/-- R80: the grant step tells the head waiter of a FREE region. -/
theorem State.grantStep_reports (s : State) (i : Nat) (q : Port) :
    (s.port q).Reports ((s.grantStep i).port q) [] (fun n => n = .leaseGranted ∧
      ∃ r ws, s.region i = some r ∧ r.lease.state = .free ∧ r.lease.waiters = q :: ws) := by
  cases hr : s.region i with
  | none =>
    have hs : s.grantStep i = s := by simp only [State.grantStep, hr]
    rw [hs]
    exact (PortState.Reports.refl _).congr fun n => by simp
  | some r =>
    by_cases hg : r.lease.state = .free ∧ r.lease.waiters ≠ []
    · obtain ⟨hf, hne⟩ := hg
      obtain ⟨w, ws, hw⟩ := List.exists_cons_of_ne_nil hne
      rw [State.grantStep_head hr hf hw]
      refine (State.post_reports (s.modifyLease i _) w q .leaseGranted).congr fun n => ?_
      simp [hf, hw, and_comm, eq_comm]
    · have hs : s.grantStep i = s := by
        by_cases hw : r.lease.waiters = []
        · exact State.grantStep_no_waiters hr hw
        · have hf : r.lease.state ≠ .free := fun hf => hg ⟨hf, hw⟩
          cases hst : r.lease.state <;> simp_all [State.grantStep]
      rw [hs]
      refine (PortState.Reports.refl _).congr fun n => ?_
      simp only [false_iff, not_and, not_exists, Option.some.injEq]
      rintro - x ws rfl hf hw
      exact hg ⟨hf, by simp [hw]⟩

/-- R88, R93, R96: the end of a lease tells the head waiter, where no work is in flight. -/
theorem State.endLease_reports (s : State) (i : Nat) (q : Port) :
    (s.port q).Reports ((s.endLease i).port q) [] (fun n => n = .leaseGranted ∧
      ∃ r ws, s.region i = some r ∧ r.lease.drain = 0 ∧ r.lease.waiters = q :: ws) := by
  cases hr : s.region i with
  | none =>
    have hs : s.endLease i = s := by simp only [State.endLease, hr]
    rw [hs]
    exact (PortState.Reports.refl _).congr fun n => by simp
  | some r =>
    by_cases hd : 0 < r.lease.drain ∨ r.lease.waiters = []
    · rw [State.endLease_no_grant hr hd]
      refine (PortState.Reports.refl _).congr fun n => ?_
      simp only [false_iff, not_and, not_exists, Option.some.injEq]
      rintro - x ws rfl h0 hw
      rcases hd with hd | hd
      · omega
      · simp [hw] at hd
    · push Not at hd
      obtain ⟨w, ws, hw⟩ := List.exists_cons_of_ne_nil hd.2
      have h0 : r.lease.drain = 0 := by omega
      rw [State.endLease_grant hr h0 hw]
      refine (State.post_reports (s.modifyLease i _) w q .leaseGranted).congr fun n => ?_
      simp [h0, hw, and_comm, eq_comm]

/-- R81, R82: the end of an entry of a region tells the head waiter, where the region was DRAINING and is done. -/
theorem State.drainDown_reports (s : State) (i : Nat) (q : Port) :
    (s.port q).Reports ((s.drainDown i).port q) [] (fun n => n = .leaseGranted ∧
      ∃ r ws, s.region i = some r ∧ r.lease.state = .draining ∧ r.lease.drain ≤ 1 ∧ r.lease.waiters = q :: ws) := by
  cases hr : s.region i with
  | none =>
    have hs : s.drainDown i = s := by simp only [State.drainDown, hr]
    rw [hs]
    exact (PortState.Reports.refl _).congr fun n => by simp
  | some r =>
    by_cases hd : r.lease.state = .draining ∧ r.lease.drain - 1 = 0
    · have hs : s.drainDown i = ((s.modifyLease i (fun l => { l with drain := l.drain - 1 })).modifyLease i
          (fun l => { l with state := .free })).grantStep i := by
        simp only [State.drainDown, hr, if_pos hd]
      have hregion : ((s.modifyLease i (fun l => { l with drain := l.drain - 1 })).modifyLease i
          (fun l => { l with state := .free })).region i =
          some { r with lease := { r.lease with drain := r.lease.drain - 1, state := .free } } := by
        simp only [State.region_modifyLease_self, hr, Option.map_some]
      have h := State.grantStep_reports ((s.modifyLease i (fun l => { l with drain := l.drain - 1 })).modifyLease i
        (fun l => { l with state := .free })) i q
      rw [hs]
      refine PortState.Reports.congr h fun n => ?_
      have h1 : r.lease.drain ≤ 1 := by omega
      simp [hregion, hd.1, h1]
    · have hs : s.drainDown i = s.modifyLease i (fun l => { l with drain := l.drain - 1 }) := by
        simp only [State.drainDown, hr, if_neg hd]
      rw [hs]
      refine (PortState.Reports.refl _).congr fun n => ?_
      simp only [false_iff, not_and, not_exists, Option.some.injEq]
      rintro - x ws rfl hst hle -
      exact hd ⟨hst, by omega⟩

/-! ### The end of a PROGRAM or an erase (R56) -/

theorem State.endedArray_region (s : State) (i : Nat) (e : Entry) (outcome : EndOutcome) (j : Nat) :
    (s.endedArray i e outcome).region j = s.region j := by
  rw [State.endedArray_eq]
  rfl

theorem State.endedArray_port (s : State) (i : Nat) (e : Entry) (outcome : EndOutcome) (q : Port) :
    (s.endedArray i e outcome).port q = s.port q := by
  rw [State.endedArray_eq]
  rfl

theorem State.ended_of_region {k : Nat} (hk : e.kind ≠ .mapCommit) (hr : e.region = some k) :
    s.ended i e outcome = (s.endedArray i e outcome).drainDown k := by
  simp only [State.ended_eq, State.endInNeighbours, if_neg hk, hr]

theorem State.ended_of_no_region (hk : e.kind ≠ .mapCommit) (hr : e.region = none) :
    s.ended i e outcome = s.endedArray i e outcome := by
  simp only [State.ended_eq, State.endInNeighbours, if_neg hk, hr]

theorem State.endEntry_region (hk : e.kind ≠ .mapCommit) (j : Nat) : (s.endEntry i e outcome).region j =
    (s.region j).map (fun r => if e.region = some j then { r with lease := r.entryEnded } else r) := by
  have hended : (s.endEntry i e outcome).region j = (s.ended i e outcome).region j := by
    rw [State.endEntry_eq]
    split <;> rfl
  rw [hended]
  cases hr : e.region with
  | none => simp [State.ended_of_no_region hk hr, State.endedArray_region]
  | some k =>
    rw [State.ended_of_region hk hr, State.region_drainDown, State.endedArray_region]
    simp only [Option.some.injEq, eq_comm]

theorem State.endEntry_buffers_eq : (s.endEntry i e outcome).buffers =
    match e.buffer with
    | some b => s.buffers.modify b (fun x => { x with state := .free })
    | none => s.buffers := by
  rw [(s.endEntry_buffers i e outcome).1]
  unfold State.endedArray State.freeEntryBuffer
  rw [State.endInArray_eq]
  cases e.buffer <;> rfl

/-- What the end tells each port: the record of the entry, unless it is orphaned, and the grant of its region. -/
theorem State.endEntry_reports (hk : e.kind ≠ .mapCommit) (q : Port) :
    (s.port q).Reports ((s.endEntry i e outcome).port q)
      (if q = e.port ∧ e.orphaned = false then [(s.port q).nextRecord e (endStatus e.kind outcome)] else [])
      (fun n => n = .leaseGranted ∧ ∃ j r ws, e.region = some j ∧ s.region j = some r ∧ r.lease.state = .draining ∧
        r.lease.drain ≤ 1 ∧ r.lease.waiters = q :: ws) := by
  have hended : (s.port q).Reports ((s.ended i e outcome).port q) []
      (fun n => n = .leaseGranted ∧ ∃ j r ws, e.region = some j ∧ s.region j = some r ∧ r.lease.state = .draining ∧
        r.lease.drain ≤ 1 ∧ r.lease.waiters = q :: ws) := by
    cases hr : e.region with
    | none =>
      rw [State.ended_of_no_region hk hr, State.endedArray_port]
      exact (PortState.Reports.refl _).congr fun n => by simp
    | some k =>
      have h := (s.endedArray i e outcome).drainDown_reports k q
      rw [State.endedArray_port, State.endedArray_region] at h
      rw [State.ended_of_region hk hr]
      exact h.congr fun n => by simp
  rw [State.endEntry_port]
  have hnext : ((s.ended i e outcome).port q).nextRecord e (endStatus e.kind outcome) =
      (s.port q).nextRecord e (endStatus e.kind outcome) := by
    unfold PortState.nextRecord
    rw [hended.sequence]
    simp
  cases horphan : e.orphaned with
  | true => simpa [horphan] using hended
  | false =>
    have h := hended.trans ((s.ended i e outcome).postRecord_reports e (endStatus e.kind outcome) q)
    rw [hnext] at h
    simpa [horphan] using h

theorem EngineState.ended_eq (h : s.activeIndex = some i) :
    s.engine.ended = if s.engine = .busyParked then .parked else .idle := by
  rcases State.activeIndex_engine h with h | h | h <;> rw [h] <;> rfl

theorem endStatus_eq (hk : e.kind ≠ .mapCommit) (outcome : EndOutcome) : endStatus e.kind outcome =
    if outcome = .done then .done else if e.kind = .program then .programFailed else .eraseFailed := by
  cases outcome with
  | done => rfl
  | failed => cases h : e.kind <;> simp_all [endStatus]

/-- Settles O28: the end in the array, then in the region, then the record and the engine. -/
theorem operationEndLeavesAndReports : Obligations.OperationEndLeavesAndReports := by
  intro s i e outcome hstop hi he hk status granted
  have hoff := State.endEntry_offLeases (s := s) (i := i) (outcome := outcome) hk
  refine ⟨s.endEntry i e outcome, exec_operationEnd hstop hi he outcome, s.endEntry_queue i e outcome, ?_, ?_,
    State.endEntry_buffers_eq, State.endEntry_region hk, fun q => ?_, ?_⟩
  · exact EngineState.ended_eq hi
  · exact congrArg State.noted hoff
  · have h := State.endEntry_reports (s := s) (i := i) (outcome := outcome) hk q
    rw [endStatus_eq hk] at h
    refine ⟨h.completions, h.sequence.trans ?_, h.posted, h.rest⟩
    split <;> rfl
  · have h := congrArg (fun v : State => { v with
      queue := s.queue
      engine := s.engine
      noted := s.noted
      buffers := s.buffers
      regions := s.regions
      ports := s.ports
      mem := s.mem
      unsettled := s.unsettled }) hoff
    refine Eq.trans h ?_
    rw [State.endedArray_eq]
    rfl

end Sys2Proof.Machine
end


section
/-! The countdown of a lease (O35): its three cases, and what the step of one region makes of regions, queue, buffers and
ports. -/

namespace Sys2Proof.Machine

variable {s t : State} {p q : Port} {i j b : Nat} {e : Entry} {r : Region} {x : Status}

/-! ### Records in a row (R116, R117) -/

theorem PortState.nextRecords_nil (a : PortState) (x : Status) : a.nextRecords [] x = [] := rfl

theorem PortState.nextRecords_singleton (a : PortState) (e : Entry) (x : Status) :
    a.nextRecords [e] x = [a.nextRecord e x] := by
  simp [PortState.nextRecords, PortState.nextRecord]

theorem PortState.nextRecords_length (a : PortState) (es : List Entry) (x : Status) :
    (a.nextRecords es x).length = es.length := by
  simp [PortState.nextRecords]

/-- The records of more entries take the numbers after those of the first. -/
theorem PortState.nextRecords_append {a c : PortState} (es fs : List Entry)
    (h : c.sequence = a.sequence + BitVec.ofNat 16 es.length) :
    a.nextRecords (es ++ fs) x = a.nextRecords es x ++ c.nextRecords fs x := by
  unfold PortState.nextRecords
  rw [List.zipIdx_append, List.map_append, Nat.zero_add, List.zipIdx_eq_map_add (i := es.length), List.map_map]
  congr 1
  refine List.map_congr_left fun y _ => ?_
  simp only [Function.comp, PortState.nextRecord, h, BitVec.add_assoc, ← BitVec.ofNat_add]

/-- A port is told of the records of one list and then of another. -/
theorem PortState.Reports.trans_nextRecords {a c d : PortState} {es fs : List Entry} {k l : NoticeKind → Prop}
    (h : a.Reports c (a.nextRecords es x) k) (h' : c.Reports d (c.nextRecords fs x) l) :
    a.Reports d (a.nextRecords (es ++ fs) x) (fun n => k n ∨ l n) := by
  rw [PortState.nextRecords_append es fs (by rw [h.sequence, PortState.nextRecords_length])]
  exact h.trans h'

/-! ### The loss of QUEUED work (R38) -/

theorem State.loseEntry_reports (s : State) (e : Entry) (q : Port) :
    (s.port q).Reports ((s.loseEntry e).port q)
      ((s.port q).nextRecords (if q = e.port then [e] else []) .leaseLost) (fun _ => False) := by
  have h := (s.freeEntryBuffer e).postRecord_reports e .leaseLost q
  have hport : (s.freeEntryBuffer e).port q = s.port q := by
    rw [State.freeEntryBuffer_eq]
    rfl
  rw [hport] at h
  by_cases hq : q = e.port
  · rw [if_pos hq] at h ⊢
    rwa [PortState.nextRecords_singleton]
  · rw [if_neg hq] at h ⊢
    exact h

theorem State.foldl_loseEntry_reports (p q : Port) (es : List Entry) : ∀ s : State, (∀ e ∈ es, e.port = p) →
    (s.port q).Reports ((es.foldl State.loseEntry s).port q)
      ((s.port q).nextRecords (if q = p then es else []) .leaseLost) (fun _ => False) := by
  induction es with
  | nil =>
    intro s _
    simpa [PortState.nextRecords_nil] using PortState.Reports.refl (s.port q)
  | cons e es ih =>
    intro s h
    have hhead := s.loseEntry_reports e q
    have htail := ih (s.loseEntry e) fun y hy => h y (List.mem_cons_of_mem _ hy)
    rw [h e List.mem_cons_self] at hhead
    have hboth := (hhead.trans_nextRecords htail).congr (l := fun _ => False) fun n => by simp
    rw [List.foldl_cons]
    by_cases hq : q = p
    · simpa [hq] using hboth
    · simpa [hq] using hboth

theorem State.foldl_loseEntry_buffers (b : Nat) (es : List Entry) : ∀ s : State,
    (es.foldl State.loseEntry s).buffers[b]? = (s.buffers[b]?).map (fun u =>
      if ∃ e ∈ es, e.buffer = some b then { u with state := .free } else u) := by
  induction es with
  | nil => simp
  | cons e es ih =>
    intro s
    have hfree : (s.loseEntry e).buffers[b]? = (s.buffers[b]?).map (fun u =>
        if e.buffer = some b then { u with state := .free } else u) := by
      show (s.freeEntryBuffer e).buffers[b]? = _
      unfold State.freeEntryBuffer
      cases he : e.buffer with
      | none => simp
      | some c =>
        simp only [State.modifyBuffer, List.getElem?_modify, Option.some.injEq]
        rfl
    rw [List.foldl_cons, ih, hfree, Option.map_map]
    refine congrArg (fun f => Option.map f (s.buffers[b]?)) (funext fun u => ?_)
    by_cases h1 : e.buffer = some b <;> by_cases h2 : ∃ y ∈ es, y.buffer = some b <;> simp [h1, h2]

/-! ### The three cases of a countdown step (R90, R91, R92) -/

theorem Region.counts_iff : r.counts = true ↔
    r.lease.state = .held ∧ r.lease.holder.isSome = true ∧ 0 < r.definition.limit.toNat := by
  simp [Region.counts, and_assoc]

theorem State.countdown_of_not_counts (h : ∀ r, s.region i = some r → r.counts = false) : s.countdown i = s := by
  unfold State.countdown
  split
  · next r hr =>
    have hc := h r hr
    split
    · next p hstate hholder =>
      refine if_neg fun hlimit => ?_
      rw [Region.counts_iff.2 ⟨hstate, by simp [hholder], hlimit⟩] at hc
      cases hc
    · rfl
  · rfl

theorem State.countdown_of_counts (hr : s.region i = some r) (hh : r.lease.holder = some p) (hc : r.counts = true) :
    s.countdown i = s.countdownHeld i r p := by
  obtain ⟨hstate, -, hlimit⟩ := Region.counts_iff.1 hc
  simp only [State.countdown, hr, hstate, hh, if_pos hlimit]

/-- R92: the warning point is reached. -/
theorem Region.warns_iff (hc : r.counts = true) : r.warns = true ↔
    r.lease.remaining - 1 = warningPoint r.definition.limit.toNat ∧ 1 ≤ r.lease.remaining - 1 := by
  simp only [Region.warns, hc, Bool.true_and, Bool.and_eq_true, decide_eq_true_eq, warningPoint]
  omega

theorem State.countdownHeld_of_not_expires (hc : r.counts = true) (hx : r.expires = false) :
    s.countdownHeld i r p =
      if r.warns = true then
        (s.modifyLease i (fun l => { l with remaining := r.lease.remaining - 1 })).post p .leaseWarning
      else s.modifyLease i (fun l => { l with remaining := r.lease.remaining - 1 }) := by
  have hleft : ¬r.lease.remaining - 1 = 0 := by
    simp only [Region.expires, hc, Bool.true_and, decide_eq_false_iff_not] at hx
    omega
  unfold State.countdownHeld
  simp only [if_neg hleft, Region.warns_iff hc]

/-- R93: the expiry of a lease looks at no remaining time. -/
theorem State.countdownHeld_of_expires (hx : r.expires = true) :
    s.countdownHeld i r p = ((s.loseEntries p i).post p .leaseLost).endLease i := by
  obtain ⟨hc, hle⟩ : r.counts = true ∧ r.lease.remaining ≤ 1 := by simpa [Region.expires] using hx
  have hleft : r.lease.remaining - 1 = 0 := by omega
  have hwarn : ¬(r.lease.remaining - 1 = warningPoint r.definition.limit.toNat ∧ 1 ≤ r.lease.remaining - 1) := by omega
  unfold State.countdownHeld
  simp only [if_pos hleft, if_neg hwarn]
  unfold State.expireLease
  rw [State.loseEntries_modifyLease]
  exact State.endLease_remaining ((s.loseEntries p i).post p .leaseLost) i _

theorem Region.counts_of_expires (hx : r.expires = true) : r.counts = true := by
  simp only [Region.expires, Bool.and_eq_true] at hx
  exact hx.1

theorem State.countdown_of_expires (hr : s.region i = some r) (hh : r.lease.holder = some p) (hx : r.expires = true) :
    s.countdown i = ((s.loseEntries p i).post p .leaseLost).endLease i :=
  (State.countdown_of_counts hr hh (Region.counts_of_expires hx)).trans (State.countdownHeld_of_expires hx)

theorem Region.holder_of_counts (hc : r.counts = true) : ∃ p, r.lease.holder = some p :=
  Option.isSome_iff_exists.1 (Region.counts_iff.1 hc).2.1

/-- The three cases of a countdown step: nothing, one ms less, or an expiry. -/
theorem State.countdown_cases (s : State) (i : Nat) :
    ((∀ r, s.region i = some r → r.counts = false) ∧ s.countdown i = s) ∨
    (∃ r p, s.region i = some r ∧ r.lease.holder = some p ∧ r.counts = true ∧ r.expires = false ∧
      s.countdown i = if r.warns = true then
        (s.modifyLease i (fun l => { l with remaining := r.lease.remaining - 1 })).post p .leaseWarning
      else s.modifyLease i (fun l => { l with remaining := r.lease.remaining - 1 })) ∨
    (∃ r p, s.region i = some r ∧ r.lease.holder = some p ∧ r.expires = true ∧
      s.countdown i = ((s.loseEntries p i).post p .leaseLost).endLease i) := by
  by_cases h : ∀ r, s.region i = some r → r.counts = false
  · exact .inl ⟨h, State.countdown_of_not_counts h⟩
  · push Not at h
    obtain ⟨r, hr, hne⟩ := h
    have hc : r.counts = true := by simpa using hne
    obtain ⟨p, hh⟩ := Region.holder_of_counts hc
    cases hx : r.expires with
    | true => exact .inr (.inr ⟨r, p, hr, hh, hx, State.countdown_of_expires hr hh hx⟩)
    | false =>
      exact .inr (.inl ⟨r, p, hr, hh, hc, hx,
        (State.countdown_of_counts hr hh hc).trans (State.countdownHeld_of_not_expires hc hx)⟩)

/-! ### What a countdown step does, region by region and entry by entry -/

theorem State.losesEntry_iff (he : e.region = some i) (hr : s.region i = some r) : s.losesEntry e = true ↔
    e.state = .queued ∧ r.expires = true ∧ r.lease.holder = some e.port := by
  simp [State.losesEntry, Entry.isQueued, he, hr]

/-- The entries of a region that a tick removes are those QUEUED in it by its holder. -/
theorem State.losesEntry_iff_queuedIn (hr : s.region i = some r) (hh : r.lease.holder = some p)
    (hx : r.expires = true) : (e.region = some i ∧ s.losesEntry e = true) ↔ e.queuedIn p i = true := by
  rw [Entry.queuedIn_iff]
  constructor
  · rintro ⟨he, hl⟩
    obtain ⟨hq, -, hport⟩ := (State.losesEntry_iff he hr).1 hl
    rw [hh, Option.some.injEq] at hport
    exact ⟨hq, hport.symm, he⟩
  · rintro ⟨hq, hport, he⟩
    exact ⟨he, (State.losesEntry_iff he hr).2 ⟨hq, hx, by rw [hh, hport]⟩⟩

/-- No entry of a region is removed whose lease does not expire. -/
theorem State.not_losesEntry (h : ∀ r, s.region i = some r → r.expires = false) (he : e.region = some i) :
    s.losesEntry e = false := by
  rw [Bool.eq_false_iff]
  intro hl
  cases hr : s.region i with
  | none => simp [State.losesEntry, he, hr] at hl
  | some r =>
    obtain ⟨-, hx, -⟩ := (State.losesEntry_iff he hr).1 hl
    rw [h r hr] at hx
    cases hx

/-- R38: the entries of a port that the countdown step of region i removes, oldest first. -/
def State.lostAt (s : State) (q : Port) (i : Nat) : List Entry :=
  s.queue.filter (fun e => decide (e.port = q ∧ e.region = some i) && s.losesEntry e)

theorem State.lostAt_nil (h : ∀ r, s.region i = some r → r.expires = false) (q : Port) : s.lostAt q i = [] := by
  refine List.filter_eq_nil_iff.2 fun e _ he => ?_
  simp only [Bool.and_eq_true, decide_eq_true_eq] at he
  obtain ⟨⟨-, hregion⟩, hl⟩ := he
  rw [State.not_losesEntry h hregion] at hl
  cases hl

theorem State.lostAt_expires (hr : s.region i = some r) (hh : r.lease.holder = some p) (hx : r.expires = true)
    (q : Port) : s.lostAt q i = if q = p then s.queue.filter (Entry.queuedIn p i) else [] := by
  have hiff : ∀ e : Entry, (decide (e.port = q ∧ e.region = some i) && s.losesEntry e) = true ↔
      e.queuedIn p i = true ∧ q = p := fun e => by
    rw [← State.losesEntry_iff_queuedIn hr hh hx]
    simp only [Bool.and_eq_true, decide_eq_true_eq]
    constructor
    · rintro ⟨⟨hport, he⟩, hl⟩
      obtain ⟨-, -, hp⟩ := (State.losesEntry_iff he hr).1 hl
      rw [hh, Option.some.injEq, hport] at hp
      exact ⟨⟨he, hl⟩, hp.symm⟩
    · rintro ⟨⟨he, hl⟩, rfl⟩
      obtain ⟨-, -, hp⟩ := (State.losesEntry_iff he hr).1 hl
      rw [hh, Option.some.injEq] at hp
      exact ⟨⟨hp.symm, he⟩, hl⟩
  unfold State.lostAt
  split
  · next hq => exact List.filter_congr fun e _ => Bool.eq_iff_iff.2 ((hiff e).trans (by simp [hq]))
  · next hq => exact List.filter_eq_nil_iff.2 fun e _ he => hq ((hiff e).1 he).2

/-- R90 to R93: the kinds of notices that the countdown step of region i posts to a port. -/
def State.tickKinds (s : State) (q : Port) (i : Nat) (k : NoticeKind) : Prop :=
  ∃ r, s.region i = some r ∧
    (k = .leaseLost ∧ r.lease.holder = some q ∧ r.expires = true ∨
     k = .leaseWarning ∧ r.lease.holder = some q ∧ r.warns = true ∨
     k = .leaseGranted ∧ r.expires = true ∧ r.lease.drain = 0 ∧ ∃ ws, r.lease.waiters = q :: ws)

theorem Region.not_warns_of_expires (hx : r.expires = true) : r.warns = false := by
  simp only [Region.expires, Bool.and_eq_true, decide_eq_true_eq] at hx
  simp only [Region.warns, Bool.and_eq_false_iff, decide_eq_false_iff_not]
  omega

theorem Region.not_warns_of_not_counts (hc : r.counts = false) : r.warns = false := by
  simp [Region.warns, hc]

theorem Region.not_expires_of_not_counts (hc : r.counts = false) : r.expires = false := by
  simp [Region.expires, hc]

theorem State.countdown_region (s : State) (i j : Nat) : (s.countdown i).region j =
    (s.region j).map (fun r => if j = i then { r with lease := r.ticked } else r) := by
  rcases s.countdown_cases i with ⟨hc, h⟩ | ⟨r, p, hr, -, hc, hx, h⟩ | ⟨r, p, hr, -, hx, h⟩
  · rw [h]
    by_cases hj : j = i
    · subst hj
      cases hr : s.region j with
      | none => rfl
      | some r =>
        have hcount := hc r hr
        simp [Region.ticked, hcount, Region.not_expires_of_not_counts hcount]
    · simp [hj]
  · have hregion : (s.countdown i).region j =
        (s.modifyLease i (fun l => { l with remaining := r.lease.remaining - 1 })).region j := by
      rw [h]
      split <;> rfl
    rw [hregion, State.region_modifyLease]
    by_cases hj : j = i
    · subst hj
      simp [hr, Region.ticked, hx, hc]
    · simp [hj]
  · rw [h, State.region_endLease, State.post_region, State.loseEntries_region]
    by_cases hj : j = i
    · subst hj
      simp [hr, Region.ticked, hx]
    · simp [hj]

theorem State.countdown_queue (s : State) (i : Nat) : (s.countdown i).queue =
    s.queue.filter (fun e => !(decide (e.region = some i) && s.losesEntry e)) := by
  have stays : (∀ r, s.region i = some r → r.expires = false) →
      s.queue.filter (fun e => !(decide (e.region = some i) && s.losesEntry e)) = s.queue := fun hx => by
    refine List.filter_eq_self.2 fun e _ => ?_
    by_cases he : e.region = some i
    · simp [State.not_losesEntry hx he]
    · simp [he]
  rcases s.countdown_cases i with ⟨hc, h⟩ | ⟨r, p, hr, -, hc, hx, h⟩ | ⟨r, p, hr, hh, hx, h⟩
  · rw [h, stays fun r hr => Region.not_expires_of_not_counts (hc r hr)]
  · rw [stays fun r' hr' => by rwa [← Option.some.inj (hr.symm.trans hr')], h]
    split <;> rfl
  · rw [h, (OnlyLeases.endLease _ i).queue, State.post_queue, State.loseEntries_queue]
    refine List.filter_congr fun e _ => congrArg _ (Bool.eq_iff_iff.2 ?_)
    rw [← State.losesEntry_iff_queuedIn hr hh hx]
    simp

theorem State.countdown_buffers (s : State) (i b : Nat) : (s.countdown i).buffers[b]? =
    (s.buffers[b]?).map (fun u =>
      if ∃ e ∈ s.queue, (e.region = some i ∧ s.losesEntry e = true) ∧ e.buffer = some b then { u with state := .free }
      else u) := by
  have stays : (∀ r, s.region i = some r → r.expires = false) →
      ¬∃ e ∈ s.queue, (e.region = some i ∧ s.losesEntry e = true) ∧ e.buffer = some b := by
    rintro hx ⟨e, -, ⟨he, hl⟩, -⟩
    rw [State.not_losesEntry hx he] at hl
    cases hl
  rcases s.countdown_cases i with ⟨hc, h⟩ | ⟨r, p, hr, -, hc, hx, h⟩ | ⟨r, p, hr, hh, hx, h⟩
  · simp [h, stays fun r hr => Region.not_expires_of_not_counts (hc r hr)]
  · have hbuffers : (s.countdown i).buffers = s.buffers := by
      rw [h]
      split <;> rfl
    simp [hbuffers, stays fun r' hr' => by rwa [← Option.some.inj (hr.symm.trans hr')]]
  · have hbuffers : (s.countdown i).buffers = (s.loseEntries p i).buffers := by
      have hrest := congrArg State.buffers (OnlyLeases.endLease ((s.loseEntries p i).post p .leaseLost) i).rest
      rw [h]
      exact hrest
    rw [hbuffers, State.loseEntries, State.foldl_loseEntry_buffers]
    simp only [State.losesEntry_iff_queuedIn hr hh hx, List.mem_filter, and_assoc]

theorem State.countdown_reports (s : State) (i : Nat) (q : Port) :
    (s.port q).Reports ((s.countdown i).port q) ((s.port q).nextRecords (s.lostAt q i) .leaseLost) (s.tickKinds q i) := by
  rcases s.countdown_cases i with ⟨hc, h⟩ | ⟨r, p, hr, hh, hc, hx, h⟩ | ⟨r, p, hr, hh, hx, h⟩
  · rw [h, State.lostAt_nil fun r hr => Region.not_expires_of_not_counts (hc r hr)]
    refine (PortState.Reports.refl _).congr fun n => ?_
    simp only [false_iff, State.tickKinds, not_exists, not_and]
    intro r hr
    simp [Region.not_expires_of_not_counts (hc r hr), Region.not_warns_of_not_counts (hc r hr)]
  · rw [h, State.lostAt_nil fun r' hr' => by rwa [← Option.some.inj (hr.symm.trans hr')]]
    split
    · next hw =>
      refine (State.post_reports (s.modifyLease i _) p q .leaseWarning).congr fun n => ?_
      simp [State.tickKinds, hr, hh, hx, hw, and_comm, @eq_comm _ q p]
    · next hw =>
      refine (PortState.Reports.refl _).congr fun n => ?_
      simp [State.tickKinds, hr, hx, hw]
  · rw [h, State.lostAt_expires hr hh hx]
    have hlose := State.foldl_loseEntry_reports p q (s.queue.filter (Entry.queuedIn p i))
      { s with queue := s.queue.filter (fun e => !e.queuedIn p i) } fun e he =>
        (Entry.queuedIn_iff.1 (List.mem_filter.1 he).2).2.1
    have hpost := (s.loseEntries p i).post_reports p q .leaseLost
    have hend := ((s.loseEntries p i).post p .leaseLost).endLease_reports i q
    rw [State.post_region, State.loseEntries_region, hr] at hend
    have hall := (PortState.Reports.trans hlose hpost).trans hend
    rw [List.append_nil, List.append_nil] at hall
    refine hall.congr fun n => ?_
    simp [State.tickKinds, hr, hh, hx, Region.not_warns_of_expires hx, and_comm, @eq_comm _ q p]

/-- All of a state but queue, regions, buffers and ports. -/
def State.offWork (s : State) : State :=
  { s with queue := [], regions := [], buffers := [], ports := State.reset.ports }

theorem State.countdown_offWork (s : State) (i : Nat) : (s.countdown i).offWork = s.offWork := by
  rcases s.countdown_cases i with ⟨-, h⟩ | ⟨r, p, -, -, -, -, h⟩ | ⟨r, p, -, -, -, h⟩
  · rw [h]
  · rw [h]
    split <;> rfl
  · have hend := congrArg State.offWork (OnlyLeases.endLease ((s.loseEntries p i).post p .leaseLost) i).rest
    have hlose : (s.loseEntries p i).offWork = s.offWork := by
      rw [State.loseEntries_eq]
      rfl
    rw [h, ← hlose]
    exact hend

theorem State.leaseEnding_iff : s.leaseEnding i = true ↔ ∃ r, s.region i = some r ∧ r.expires = true := by
  unfold State.leaseEnding
  cases hr : s.region i with
  | none => simp
  | some r => simp [Region.expires, Region.counts]

theorem exec_leaseExpiry {i : Fin 16} (hclock : s.leaseClock = true) (hr : s.region i.val = some r)
    (hx : r.expires = true) : exec (.leaseExpiry i) s = .next (s.countdown i.val) := by
  simp only [exec, execLeaseExpiry]
  rw [if_neg (by simp [hclock]), if_pos (State.leaseEnding_iff.2 ⟨r, hr, hx⟩)]

/-- Settles O35: the countdown step of the region in its case of expiry. -/
theorem leaseExpiryRemovesQueuedWork : Obligations.LeaseExpiryRemovesQueuedWork := by
  intro s i r p hclock hr hh hx gone lost
  have hgone : ∀ e, (e.region = some i.val ∧ s.losesEntry e = true) ↔ gone e = true := fun e => by
    rw [State.losesEntry_iff_queuedIn hr hh hx, Entry.queuedIn_iff]
    exact decide_eq_true_iff.symm
  have hlost : s.queue.filter (Entry.queuedIn p i.val) = lost :=
    List.filter_congr fun e _ => Bool.eq_iff_iff.2 ((State.losesEntry_iff_queuedIn hr hh hx).symm.trans (hgone e))
  refine ⟨s.countdown i.val, exec_leaseExpiry hclock hr hx, ?_, fun b => ?_, fun j => ?_, fun q => ?_, ?_⟩
  · rw [State.countdown_queue]
    refine List.filter_congr fun e _ => congrArg _ (Bool.eq_iff_iff.2 ?_)
    rw [← hgone e]
    simp
  · rw [State.countdown_buffers]
    simp only [hgone, lost, List.mem_filter, and_assoc]
  · rw [State.countdown_region]
    by_cases hj : j = i.val
    · subst hj
      simp [hr, Region.ticked, hx]
    · simp [hj]
  · have h := s.countdown_reports i.val q
    rw [State.lostAt_expires hr hh hx, hlost] at h
    have hkinds : ∀ k, s.tickKinds q i.val k ↔
        (k = .leaseLost ∧ q = p ∨ k = .leaseGranted ∧ r.lease.drain = 0 ∧ r.lease.waiters.head? = some q) := fun k => by
      rw [List.head?_eq_some_iff]
      simp [State.tickKinds, hr, hh, hx, Region.not_warns_of_expires hx, @eq_comm _ q p]
    have h' := h.congr hkinds
    have hseq := h'.sequence
    have hrec := h'.completions
    rw [PortState.nextRecords_length] at hseq
    refine ⟨hrec.trans ?_, hseq.trans ?_, h'.posted, h'.rest⟩
    · split <;> rfl
    · split <;> rfl
  · exact congrArg (fun v : State => { v with
      queue := s.queue
      regions := s.regions
      buffers := s.buffers
      ports := s.ports }) (s.countdown_offWork i.val)

end Sys2Proof.Machine
end


section
/-! A tick of the lease clock (O34): the countdown steps of all regions, one after the other. -/

namespace Sys2Proof.Machine

variable {s t : State} {p q : Port} {i j n b : Nat} {e : Entry} {r : Region}

/-- R90: the countdown steps of the regions below n. -/
def State.tickedTo (s : State) (n : Nat) : State := (List.range n).foldl State.countdown s

theorem State.tickedTo_succ (s : State) (n : Nat) : s.tickedTo (n + 1) = (s.tickedTo n).countdown n := by
  simp [State.tickedTo, List.range_succ]

theorem State.tickedTo_region (s : State) (n j : Nat) : (s.tickedTo n).region j =
    (s.region j).map (fun r => if j < n then { r with lease := r.ticked } else r) :=
  State.region_foldl_range (g := fun _ r => { r with lease := r.ticked }) State.countdown_region n s j

theorem State.tickedTo_region_of_le (h : n ≤ j) : (s.tickedTo n).region j = s.region j := by
  rw [State.tickedTo_region]
  simp [Nat.not_lt.2 h]

/-- An entry of a region below n that the tick removes. -/
def State.losesBelow (s : State) (n : Nat) (e : Entry) : Bool :=
  s.losesEntry e && e.region.any (fun i => decide (i < n))

theorem State.losesBelow_iff : s.losesBelow n e = true ↔ s.losesEntry e = true ∧ ∃ i, e.region = some i ∧ i < n := by
  unfold State.losesBelow
  cases e.region <;> simp

theorem State.losesBelow_succ : s.losesBelow (n + 1) e = true ↔
    s.losesBelow n e = true ∨ e.region = some n ∧ s.losesEntry e = true := by
  simp only [State.losesBelow_iff]
  constructor
  · rintro ⟨hl, i, he, hi⟩
    rcases Nat.lt_succ_iff_lt_or_eq.1 hi with hi | rfl
    · exact .inl ⟨hl, i, he, hi⟩
    · exact .inr ⟨he, hl⟩
  · rintro (⟨hl, i, he, hi⟩ | ⟨he, hl⟩)
    · exact ⟨hl, i, he, Nat.lt_succ_of_lt hi⟩
    · exact ⟨hl, n, he, Nat.lt_succ_self n⟩

/-- Whether a tick removes an entry is fixed by its region alone. -/
theorem State.losesEntry_congr (he : e.region = some i) (h : t.region i = s.region i) :
    t.losesEntry e = s.losesEntry e := by
  simp only [State.losesEntry, he, Option.bind_some, h]

theorem State.losesEntry_tickedTo : (e.region = some n ∧ (s.tickedTo n).losesEntry e = true) ↔
    (e.region = some n ∧ s.losesEntry e = true) :=
  and_congr_right fun he => by rw [State.losesEntry_congr he (State.tickedTo_region_of_le (le_refl n))]

theorem State.tickedTo_queue (s : State) (n : Nat) :
    (s.tickedTo n).queue = s.queue.filter (fun e => !s.losesBelow n e) := by
  induction n with
  | zero =>
    refine (List.filter_eq_self.2 fun e _ => ?_).symm
    simp [State.losesBelow]
  | succ n ih =>
    rw [State.tickedTo_succ, State.countdown_queue, ih, List.filter_filter]
    refine List.filter_congr fun e _ => ?_
    rw [← Bool.not_or, Bool.not_inj_iff, Bool.eq_iff_iff, State.losesBelow_succ, ← State.losesEntry_tickedTo]
    simp [or_comm]

theorem Buffer.freed_or {P Q : Prop} [Decidable P] [Decidable Q] [Decidable (P ∨ Q)] (u : Buffer) :
    (if Q then { (if P then { u with state := .free } else u) with state := .free }
      else if P then { u with state := .free } else u) = if P ∨ Q then { u with state := .free } else u := by
  by_cases hP : P <;> by_cases hQ : Q <;> simp [hP, hQ]

theorem State.tickedTo_buffers (s : State) (n b : Nat) : (s.tickedTo n).buffers[b]? =
    (s.buffers[b]?).map (fun u =>
      if ∃ e ∈ s.queue, s.losesBelow n e = true ∧ e.buffer = some b then { u with state := .free } else u) := by
  induction n with
  | zero => simp [State.tickedTo, State.losesBelow]
  | succ n ih =>
    have hnow : (∃ e ∈ (s.tickedTo n).queue, (e.region = some n ∧ (s.tickedTo n).losesEntry e = true) ∧
        e.buffer = some b) ↔ ∃ e ∈ s.queue, (e.region = some n ∧ s.losesEntry e = true) ∧ e.buffer = some b := by
      simp only [State.losesEntry_tickedTo, State.tickedTo_queue, List.mem_filter, Bool.not_eq_true']
      constructor
      · rintro ⟨e, ⟨he, -⟩, h⟩
        exact ⟨e, he, h⟩
      · rintro ⟨e, he, h⟩
        refine ⟨e, ⟨he, Bool.eq_false_iff.2 fun hbelow => ?_⟩, h⟩
        obtain ⟨-, i, hi, hlt⟩ := State.losesBelow_iff.1 hbelow
        rw [h.1.1, Option.some.injEq] at hi
        omega
    have hall : (∃ e ∈ s.queue, s.losesBelow (n + 1) e = true ∧ e.buffer = some b) ↔
        (∃ e ∈ s.queue, s.losesBelow n e = true ∧ e.buffer = some b) ∨
          ∃ e ∈ s.queue, (e.region = some n ∧ s.losesEntry e = true) ∧ e.buffer = some b := by
      simp only [State.losesBelow_succ, or_and_right, and_or_left, exists_or]
    rw [State.tickedTo_succ, State.countdown_buffers, ih, Option.map_map]
    refine congrArg (fun f => Option.map f (s.buffers[b]?)) (funext fun u => ?_)
    simp only [Function.comp, hnow, hall]
    exact Buffer.freed_or u

theorem State.tickedTo_lostAt (s : State) (q : Port) (n : Nat) : (s.tickedTo n).lostAt q n = s.lostAt q n := by
  unfold State.lostAt
  rw [State.tickedTo_queue, List.filter_filter]
  refine List.filter_congr fun e _ => ?_
  by_cases he : e.region = some n
  · have hbelow : s.losesBelow n e = false := by simp [State.losesBelow, he]
    rw [hbelow, State.losesEntry_congr he (State.tickedTo_region_of_le (le_refl n))]
    simp
  · simp [he]

theorem State.tickedTo_reports (s : State) (n : Nat) (q : Port) :
    (s.port q).Reports ((s.tickedTo n).port q)
      ((s.port q).nextRecords ((List.range n).flatMap (s.lostAt q)) .leaseLost)
      (fun k => ∃ i, i < n ∧ s.tickKinds q i k) := by
  induction n with
  | zero => exact (PortState.Reports.refl _).congr fun k => by simp
  | succ n ih =>
    have hstep := (s.tickedTo n).countdown_reports n q
    rw [State.tickedTo_lostAt] at hstep
    have h := ih.trans_nextRecords hstep
    rw [State.tickedTo_succ, List.range_succ, List.flatMap_append, List.flatMap_singleton]
    refine h.congr fun k => ?_
    have hkinds : (s.tickedTo n).tickKinds q n k ↔ s.tickKinds q n k := by
      simp only [State.tickKinds, State.tickedTo_region_of_le (le_refl n)]
    rw [hkinds]
    simp only [Nat.lt_succ_iff_lt_or_eq, or_and_right, exists_or, exists_eq_left]

theorem State.tickedTo_offWork (s : State) (n : Nat) : (s.tickedTo n).offWork = s.offWork :=
  foldl_keeps State.offWork State.countdown_offWork (List.range n) s

/-! ### The whole tick -/

/-- In a table of 16 regions every entry that a tick removes is in a region below 16. -/
theorem State.losesBelow_all (hlen : s.regions.length = 16) (e : Entry) : s.losesBelow 16 e = s.losesEntry e := by
  rw [Bool.eq_iff_iff, State.losesBelow_iff]
  refine ⟨fun h => h.1, fun h => ⟨h, ?_⟩⟩
  cases he : e.region with
  | none => simp [State.losesEntry, he] at h
  | some i =>
    refine ⟨i, rfl, ?_⟩
    by_contra hge
    have hr : s.region i = none := State.region_of_length_le (by omega)
    simp [State.losesEntry, he, hr] at h

theorem State.region_lt (hlen : s.regions.length = 16) (hr : s.region i = some r) : i < 16 := by
  by_contra hge
  rw [State.region_of_length_le (by omega)] at hr
  cases hr

theorem State.someLease_iff {f : Region → Bool} : s.someLease p f = true ↔
    ∃ i r, s.region i = some r ∧ r.lease.holder = some p ∧ f r = true := by
  unfold State.someLease
  rw [List.any_eq_true]
  constructor
  · rintro ⟨slot, hmem, h⟩
    cases slot with
    | none => cases h
    | some r =>
      obtain ⟨i, hi⟩ := List.getElem?_of_mem hmem
      simp only [Bool.and_eq_true, decide_eq_true_eq] at h
      exact ⟨i, r, by rw [State.region, hi]; rfl, h⟩
  · rintro ⟨i, r, hr, h⟩
    refine ⟨some r, List.mem_of_getElem? (Option.join_eq_some_iff.1 hr), ?_⟩
    simpa only [Bool.and_eq_true, decide_eq_true_eq] using h

/-- R122: the kinds that a tick posts to a port. -/
theorem State.tickKinds_all (hlen : s.regions.length = 16) (q : Port) (k : NoticeKind) :
    (∃ i, i < 16 ∧ s.tickKinds q i k) ↔
      (k = .leaseLost ∧ s.someLease q Region.expires = true ∨
       k = .leaseWarning ∧ s.someLease q Region.warns = true ∨
       k = .leaseGranted ∧ ∃ i r ws, s.region i = some r ∧ r.expires = true ∧ r.lease.drain = 0 ∧
         r.lease.waiters = q :: ws) := by
  simp only [State.someLease_iff, State.tickKinds]
  constructor
  · rintro ⟨i, -, r, hr, ⟨hk, hh, hx⟩ | ⟨hk, hh, hw⟩ | ⟨hk, hx, hd, ws, hws⟩⟩
    · exact .inl ⟨hk, i, r, hr, hh, hx⟩
    · exact .inr (.inl ⟨hk, i, r, hr, hh, hw⟩)
    · exact .inr (.inr ⟨hk, i, r, ws, hr, hx, hd, hws⟩)
  · rintro (⟨hk, i, r, hr, hh, hx⟩ | ⟨hk, i, r, hr, hh, hw⟩ | ⟨hk, i, r, ws, hr, hx, hd, hws⟩)
    · exact ⟨i, State.region_lt hlen hr, r, hr, .inl ⟨hk, hh, hx⟩⟩
    · exact ⟨i, State.region_lt hlen hr, r, hr, .inr (.inl ⟨hk, hh, hw⟩)⟩
    · exact ⟨i, State.region_lt hlen hr, r, hr, .inr (.inr ⟨hk, hx, hd, ws, hws⟩)⟩

theorem exec_leaseTick (hclock : s.leaseClock = true) : exec .leaseTick s = .next (s.tickedTo 16) := by
  show execLeaseTick s = _
  unfold execLeaseTick
  rw [if_pos hclock]
  rfl

/-- Settles O34: by induction over the regions, each counted down by itself. -/
theorem leaseTickCountsDown : Obligations.LeaseTickCountsDown := by
  intro s hclock hlen
  have hall := State.losesBelow_all hlen
  refine ⟨s.tickedTo 16, exec_leaseTick hclock, fun i => ?_, ?_, fun b => ?_, fun p => ?_, ?_⟩
  · rw [State.tickedTo_region]
    cases hr : s.region i with
    | none => rfl
    | some r => simp [State.region_lt hlen hr]
  · simp only [State.tickedTo_queue, hall]
  · simp only [State.tickedTo_buffers, hall]
  · have h := (s.tickedTo_reports 16 p).congr (State.tickKinds_all hlen p)
    have hlost : (List.range 16).flatMap (s.lostAt p) = s.lostAtTick p := rfl
    rw [hlost] at h
    have hseq := h.sequence
    rw [PortState.nextRecords_length] at hseq
    exact ⟨h.completions, hseq, h.posted, h.rest⟩
  · have hrest := s.tickedTo_offWork 16
    generalize s.tickedTo 16 = u at hrest
    exact congrArg (fun v : State => { v with
      queue := s.queue
      regions := s.regions
      buffers := s.buffers
      ports := s.ports }) hrest

end Sys2Proof.Machine
end


section
/-! The end of a MAP_COMMIT (O43). -/

namespace Sys2Proof.Machine

variable {s t u : State} {p q : Port} {i j : Nat} {e : Entry} {m : MapImage} {outcome : EndOutcome}

/-! ### The record and the engine -/

/-- The fields that the record and the engine's move leave as the end of the operation made them. -/
def State.offEngine (s : State) : State := { s with ports := State.reset.ports, engine := .idle, noted := none }

theorem State.endEntry_offEngine (s : State) (i : Nat) (e : Entry) (outcome : EndOutcome) :
    (s.endEntry i e outcome).offEngine = (s.ended i e outcome).offEngine := by
  rw [State.endEntry_eq]
  generalize s.ended i e outcome = u
  split <;> rfl

theorem State.endEntry_engine (hi : s.activeIndex = some i) :
    (s.endEntry i e outcome).engine = if s.engine = .busyParked then .parked else .idle :=
  EngineState.ended_eq hi

theorem State.endEntry_noted (h : (s.ended i e outcome).noted = s.noted) :
    (s.endEntry i e outcome).noted = if s.engine = .suspending then none else s.noted := by
  rw [State.endEntry_eq]
  generalize s.ended i e outcome = u at h
  split <;> simp only [State.postRecord_noted, h]

/-- What the record of an ended entry makes of its port. -/
def PortState.recorded (a : PortState) (e : Entry) (status : Status) (q : Port) : PortState :=
  if q = e.port ∧ e.orphaned = false then
    { a with completions := a.completions ++ [a.nextRecord e status], sequence := a.sequence + 1 }
  else a

theorem State.endEntry_port_recorded (s : State) (i : Nat) (e : Entry) (outcome : EndOutcome) (q : Port) :
    (s.endEntry i e outcome).port q =
      ((s.ended i e outcome).port q).recorded e (endStatus e.kind outcome) q := by
  rw [State.endEntry_port]
  generalize s.ended i e outcome = u
  unfold PortState.recorded
  cases e.orphaned with
  | true => simp
  | false =>
    simp only [Bool.false_eq_true, if_false, and_true]
    exact State.port_modifyPort ..

theorem PortState.recorded_completions (a : PortState) (e : Entry) (x : Status) (q : Port) :
    (a.recorded e x q).completions =
      a.completions ++ (if q = e.port ∧ e.orphaned = false then [a.nextRecord e x] else []) := by
  unfold PortState.recorded
  split <;> simp

theorem PortState.recorded_sequence (a : PortState) (e : Entry) (x : Status) (q : Port) :
    (a.recorded e x q).sequence = a.sequence + (if q = e.port ∧ e.orphaned = false then 1 else 0) := by
  unfold PortState.recorded
  split <;> simp

theorem PortState.recorded_latched (a : PortState) (e : Entry) (x : Status) (q : Port) :
    (a.recorded e x q).latched = a.latched := by
  unfold PortState.recorded
  split <;> rfl

theorem PortState.recorded_postedSinceView (a : PortState) (e : Entry) (x : Status) (q : Port) :
    (a.recorded e x q).postedSinceView = a.postedSinceView := by
  unfold PortState.recorded
  split <;> rfl

theorem PortState.recorded_rest (a : PortState) (e : Entry) (x : Status) (q : Port) :
    { a.recorded e x q with completions := a.completions, sequence := a.sequence } = a := by
  unfold PortState.recorded
  split <;> rfl

/-! ### A commit that ends DONE (R168) -/

/-- A MAP_COMMIT touches neither array nor buffer. -/
theorem State.endedArray_commit (ht : e.target = none) (hb : e.buffer = none) :
    s.endedArray i e outcome = { s with queue := s.queue.eraseIdx i } := by
  simp only [State.endedArray, State.endInArray, ht, State.freeEntryBuffer, hb]

/-- R95, R155, R168: the state of a commit's DONE, but for record and engine. -/
def State.committed (s : State) (i : Nat) (m : MapImage) : State :=
  { s with
    queue := s.queue.eraseIdx i
    currentSlot := some s.commitSlot
    generation := s.generation + 1
    regions := regionIndices.map (fun j => applyDefinition (s.region j) (m.regions[j]?).join)
    authority := m.authority
    staged := none
    commitImage := none
    mapDefaulted := false
    slotX := (s.setSlot s.commitSlot ⟨m, s.generation + 1, true⟩).slotX
    slotY := (s.setSlot s.commitSlot ⟨m, s.generation + 1, true⟩).slotY
    ports := ((s.loadProfiles m.profiles).postAll .mapChanged).ports }

theorem State.setSlot_slots (h : s.slotX = t.slotX) (h' : s.slotY = t.slotY) (n : SlotName) (v : Slot) :
    (s.setSlot n v).slotX = (t.setSlot n v).slotX ∧ (s.setSlot n v).slotY = (t.setSlot n v).slotY := by
  cases n
  · exact ⟨rfl, h'⟩
  · exact ⟨h, rfl⟩

theorem State.ended_done (hk : e.kind = .mapCommit) (ht : e.target = none) (hb : e.buffer = none)
    (hm : s.commitImage = some m) : s.ended i e .done = s.committed i m := by
  have hended : s.ended i e .done = State.commitDone { s with queue := s.queue.eraseIdx i } := by
    rw [State.ended_eq, State.endedArray_commit ht hb, State.endInNeighbours, if_pos hk]
  rw [hended, State.commitDone_some (s := { s with queue := s.queue.eraseIdx i }) hm]
  obtain ⟨hx, hy⟩ := State.setSlot_slots (s := { s with queue := s.queue.eraseIdx i }) (t := s) rfl rfl s.commitSlot
    ⟨m, s.generation + 1, true⟩
  have hslot : State.commitSlot { s with queue := s.queue.eraseIdx i } = s.commitSlot := rfl
  rw [hslot, State.committed, ← hx, ← hy]
  rfl

theorem State.port_of_ports (h : s.ports = t.ports) (q : Port) : s.port q = t.port q := by
  unfold State.port
  rw [h]

/-- A profile and MAP_CHANGED for a port. -/
theorem State.committed_port (s : State) (i : Nat) (m : MapImage) (q : Port) :
    (s.committed i m).port q = { s.port q with
      profile := m.profiles.get q
      latched := (s.port q).latched.mark .mapChanged
      postedSinceView := (s.port q).postedSinceView.mark .mapChanged } := by
  have hports : (s.committed i m).ports = ((s.loadProfiles m.profiles).postAll .mapChanged).ports := rfl
  rw [State.port_of_ports hports]
  simp only [State.postAll, State.post, State.loadProfiles, State.port_modifyPort]
  cases q <;> rfl

theorem State.committed_slot (s : State) (i : Nat) (m : MapImage) (n : SlotName) : (s.committed i m).slot n =
    if n = (if s.currentSlot = some .x then .y else .x) then ⟨m, s.generation + 1, true⟩ else s.slot n := by
  have hslot : (s.committed i m).slot n = (s.setSlot s.commitSlot ⟨m, s.generation + 1, true⟩).slot n := by
    cases n <;> rfl
  rw [hslot, State.slot_setSlot, ← State.commitSlot_eq]

theorem applyDefinition_eq (slot : Option Region) (d : Option RegionDef) :
    applyDefinition slot d = committedRegion slot d := by
  cases slot <;> rfl

theorem State.committed_region (s : State) (i : Nat) (m : MapImage) (hj : j < 16) :
    (s.committed i m).region j = committedRegion (s.region j) (m.regions[j]?).join := by
  rw [← applyDefinition_eq]
  simp [State.region, State.committed, regionIndices, hj]

/-- The fields that a commit's DONE leaves. -/
def State.offCommitted (s : State) : State :=
  { s with
    queue := []
    currentSlot := none
    generation := 0
    slotX := State.reset.slotX
    slotY := State.reset.slotY
    regions := []
    authority := none
    ports := State.reset.ports
    staged := none
    commitImage := none
    mapDefaulted := false
    engine := .idle
    noted := none }

theorem State.eq_of_offCommitted (h : t.offCommitted = s.offCommitted) :
    { t with
      queue := s.queue
      currentSlot := s.currentSlot
      generation := s.generation
      slotX := s.slotX
      slotY := s.slotY
      regions := s.regions
      authority := s.authority
      ports := s.ports
      staged := s.staged
      commitImage := s.commitImage
      mapDefaulted := s.mapDefaulted
      engine := s.engine
      noted := s.noted } = s :=
  (congrArg (fun v : State => { v with
    queue := s.queue
    currentSlot := s.currentSlot
    generation := s.generation
    slotX := s.slotX
    slotY := s.slotY
    regions := s.regions
    authority := s.authority
    ports := s.ports
    staged := s.staged
    commitImage := s.commitImage
    mapDefaulted := s.mapDefaulted
    engine := s.engine
    noted := s.noted }) h :)

theorem State.committed_offCommitted (s : State) (i : Nat) (m : MapImage) :
    (s.committed i m).offCommitted = s.offCommitted := by
  unfold State.committed State.offCommitted
  rfl

theorem State.slot_of_offEngine (h : t.offEngine = u.offEngine) (n : SlotName) : t.slot n = u.slot n := by
  cases n
  · exact (congrArg State.slotX h :)
  · exact (congrArg State.slotY h :)

theorem State.region_of_offEngine (h : t.offEngine = u.offEngine) (j : Nat) : t.region j = u.region j :=
  congrFun (State.region_of_regions (congrArg State.regions h :)) j

/-- What a commit's DONE sets, before the engine's move. -/
theorem State.committed_sets (h : t.offEngine = (s.committed i m).offEngine) :
    t.queue = s.queue.eraseIdx i ∧ t.currentSlot = some s.commitSlot ∧ t.generation = s.generation + 1 ∧
      t.authority = m.authority ∧ t.staged = none ∧ t.commitImage = none ∧ t.mapDefaulted = false := by
  have hqueue : t.queue = (s.committed i m).queue := (congrArg State.queue h :)
  have hcurrent : t.currentSlot = (s.committed i m).currentSlot := (congrArg State.currentSlot h :)
  have hgeneration : t.generation = (s.committed i m).generation := (congrArg State.generation h :)
  have hauthority : t.authority = (s.committed i m).authority := (congrArg State.authority h :)
  have hstaged : t.staged = (s.committed i m).staged := (congrArg State.staged h :)
  have himage : t.commitImage = (s.committed i m).commitImage := (congrArg State.commitImage h :)
  have hdefaulted : t.mapDefaulted = (s.committed i m).mapDefaulted := (congrArg State.mapDefaulted h :)
  exact ⟨hqueue, hcurrent, hgeneration, hauthority, hstaged, himage, hdefaulted⟩

theorem State.offCommitted_of_offEngine (h : t.offEngine = u.offEngine) : t.offCommitted = u.offCommitted :=
  (congrArg State.offCommitted h :)

/-- A commit's DONE gives a port its profile, MAP_CHANGED, and the record of its entry. -/
theorem State.committed_recorded (q : Port) {a : PortState} (h : a = ((s.committed i m).port q).recorded e .done q) :
    a.profile = m.profiles.get q ∧
    (a.completions = (s.port q).completions ++
        (if q = e.port ∧ e.orphaned = false then [(s.port q).nextRecord e .done] else []) ∧
      a.sequence = (s.port q).sequence + (if q = e.port ∧ e.orphaned = false then 1 else 0) ∧
      (s.port q).posted a (fun k => k = .mapChanged) ∧
      { a with
        profile := (s.port q).profile
        completions := (s.port q).completions
        sequence := (s.port q).sequence
        latched := (s.port q).latched
        postedSinceView := (s.port q).postedSinceView } = s.port q) := by
  subst h
  rw [State.committed_port]
  refine ⟨?_, ?_, ?_, fun k => ?_, ?_⟩
  · unfold PortState.recorded
    split <;> rfl
  · rw [PortState.recorded_completions]
    rfl
  · rw [PortState.recorded_sequence]
  · rw [PortState.recorded_latched, PortState.recorded_postedSinceView]
    simp [NoticeFlags.get_mark, or_comm]
  · unfold PortState.recorded
    split <;> rfl

/-- R168: the end of a MAP_COMMIT DONE, before its look. -/
theorem commitEnd_done (hstop : s.stopping = []) (hi : s.activeIndex = some i) (he : s.queue[i]? = some e)
    (hk : e.kind = .mapCommit) (ht : e.target = none) (hb : e.buffer = none) (hm : s.commitImage = some m) :
    let written : SlotName := if s.currentSlot = some .x then .y else .x
    ∃ u : State, exec (.operationEnd .done) s = .next u.look ∧
      u.queue = s.queue.eraseIdx i ∧ u.currentSlot = some written ∧
      u.generation = s.generation + 1 ∧
      (∀ n, u.slot n = if n = written then ⟨m, s.generation + 1, true⟩ else s.slot n) ∧
      (∀ j, j < 16 → u.region j = committedRegion (s.region j) (m.regions[j]?).join) ∧
      u.authority = m.authority ∧ (∀ q, (u.port q).profile = m.profiles.get q) ∧
      u.staged = none ∧ u.commitImage = none ∧ u.mapDefaulted = false ∧
      (∀ q, (u.port q).completions = (s.port q).completions ++
          (if q = e.port ∧ e.orphaned = false then [(s.port q).nextRecord e .done] else []) ∧
        (u.port q).sequence = (s.port q).sequence + (if q = e.port ∧ e.orphaned = false then 1 else 0) ∧
        (s.port q).posted (u.port q) (fun k => k = .mapChanged) ∧
        { u.port q with
          profile := (s.port q).profile
          completions := (s.port q).completions
          sequence := (s.port q).sequence
          latched := (s.port q).latched
          postedSinceView := (s.port q).postedSinceView } = s.port q) ∧
      u.engine = (if s.engine = .busyParked then .parked else .idle) ∧
      u.noted = (if s.engine = .suspending then none else s.noted) ∧
      { u with
        queue := s.queue
        currentSlot := s.currentSlot
        generation := s.generation
        slotX := s.slotX
        slotY := s.slotY
        regions := s.regions
        authority := s.authority
        ports := s.ports
        staged := s.staged
        commitImage := s.commitImage
        mapDefaulted := s.mapDefaulted
        engine := s.engine
        noted := s.noted } = s := by
  intro written
  have hended := State.ended_done (s := s) (i := i) hk ht hb hm
  have hoff := s.endEntry_offEngine i e .done
  have hport := s.endEntry_port_recorded i e .done
  have hnoted := State.endEntry_noted (s := s) (i := i) (e := e) (outcome := .done) (by rw [hended]; rfl)
  have hengine := State.endEntry_engine (s := s) (e := e) (outcome := .done) hi
  rw [hended] at hoff
  simp only [hended, show endStatus e.kind .done = .done from rfl] at hport
  refine ⟨s.endEntry i e .done, exec_operationEnd hstop hi he .done, ?_⟩
  generalize s.endEntry i e .done = u at hoff hport hnoted hengine
  obtain ⟨hqueue, hcurrent, hgeneration, hauthority, hstaged, himage, hdefaulted⟩ := State.committed_sets hoff
  have hrest := State.eq_of_offCommitted
    ((State.offCommitted_of_offEngine hoff).trans (s.committed_offCommitted i m))
  refine ⟨hqueue, hcurrent.trans (congrArg some s.commitSlot_eq), hgeneration, fun n => ?_, fun j hj => ?_,
    hauthority, fun q => (State.committed_recorded q (hport q)).1, hstaged, himage, hdefaulted,
    fun q => (State.committed_recorded q (hport q)).2, hengine, hnoted, hrest⟩
  · rw [State.slot_of_offEngine hoff, State.committed_slot]
  · rw [State.region_of_offEngine hoff, State.committed_region s i m hj]

/-! ### A commit that ends MAP_WRITE_FAILED (R169) -/

theorem State.ended_failed (hk : e.kind = .mapCommit) (ht : e.target = none) (hb : e.buffer = none)
    (hlaw : s.leaseLaw = true) (hlen : s.regions.length = 16) : s.ended i e .failed =
      { s with
        queue := s.queue.eraseIdx i
        regions := s.regions.map (Option.map Region.thawed)
        commitImage := none } := by
  rw [State.ended_eq, State.endedArray_commit ht hb, State.endInNeighbours, if_pos hk]
  simp only [State.commitFailed]
  rw [State.unfreezeAll_eq (s := { s with queue := s.queue.eraseIdx i }) (State.frozenAlone_of_leaseLaw hlaw) hlen]

/-- Settles O43: the two ends of a commit, each as a state that record and engine then leave alone. -/
theorem commitEndAppliesOrKeepsTheMap : Obligations.CommitEndAppliesOrKeepsTheMap := by
  refine ⟨fun s i e m hstop hi he hk ht hb hm => commitEnd_done hstop hi he hk ht hb hm,
    fun s i e hstop hi he hk ht hb hlaw hlen => ?_⟩
  have hended := State.ended_failed (s := s) (i := i) hk ht hb hlaw hlen
  have hoff := s.endEntry_offEngine i e .failed
  have hport := s.endEntry_port_recorded i e .failed
  have hnoted := State.endEntry_noted (s := s) (i := i) (e := e) (outcome := .failed) (by rw [hended])
  have hengine := State.endEntry_engine (s := s) (e := e) (outcome := .failed) hi
  have hstatus : endStatus e.kind .failed = .mapWriteFailed := by rw [hk]; rfl
  have hports : ∀ q, (s.ended i e .failed).port q = s.port q := fun q => by rw [hended]; rfl
  rw [hended] at hoff
  simp only [hports, hstatus] at hport
  refine ⟨s.endEntry i e .failed, exec_operationEnd hstop hi he .failed, ?_⟩
  generalize s.endEntry i e .failed = u at hoff hport hnoted hengine
  refine ⟨(congrArg State.queue hoff :), (congrArg State.regions hoff :), (congrArg State.commitImage hoff :),
    fun q => ?_, hengine, hnoted, ?_⟩
  · rw [hport, PortState.recorded_completions, PortState.recorded_sequence]
    exact ⟨rfl, rfl, PortState.recorded_rest _ _ _ _⟩
  · exact (congrArg (fun v : State => { v with
      queue := s.queue
      regions := s.regions
      commitImage := s.commitImage
      ports := s.ports
      engine := s.engine
      noted := s.noted }) hoff :)

end Sys2Proof.Machine
end


section
/-! PORT RESET (O44): its six steps, one after the other. -/

namespace Sys2Proof.Machine

variable {s t : State} {p q : Port} {i j b : Nat} {e : Entry} {r : Region}

/-! ### Step 1: the queue (R39, R40) -/

theorem State.mem_resetGone : e ∈ s.resetGone p ↔ e ∈ s.queue ∧ e.port = p ∧ e.state = .queued := by
  simp [State.resetGone, Entry.isQueued]

theorem State.foldl_freeEntryBuffer_buffers (b : Nat) (es : List Entry) : ∀ s : State,
    (es.foldl State.freeEntryBuffer s).buffers[b]? = (s.buffers[b]?).map (fun u =>
      if ∃ e ∈ es, e.buffer = some b then { u with state := .free } else u) := by
  induction es with
  | nil => simp
  | cons e es ih =>
    intro s
    have hfree : (s.freeEntryBuffer e).buffers[b]? = (s.buffers[b]?).map (fun u =>
        if e.buffer = some b then { u with state := .free } else u) := by
      unfold State.freeEntryBuffer
      cases he : e.buffer with
      | none => simp
      | some c =>
        simp only [State.modifyBuffer, List.getElem?_modify, Option.some.injEq]
        rfl
    rw [List.foldl_cons, ih, hfree, Option.map_map]
    refine congrArg (fun f => Option.map f (s.buffers[b]?)) (funext fun u => ?_)
    simp only [Function.comp, List.exists_mem_cons_iff]
    exact Buffer.freed_or u

/-- The port has a QUEUED MAP_COMMIT, which PORT RESET removes. -/
def State.ownsCommit (s : State) (p : Port) : Bool := (s.resetGone p).any (fun e => decide (e.kind = .mapCommit))

theorem State.ownsCommit_iff : s.ownsCommit p = true ↔
    ∃ e ∈ s.queue, e.port = p ∧ e.state = .queued ∧ e.kind = .mapCommit := by
  simp only [State.ownsCommit, List.any_eq_true, decide_eq_true_eq, State.mem_resetGone, and_assoc]

theorem State.resetFreed_frozenAlone (h : s.FrozenAlone) : (s.resetFreed p).FrozenAlone := by
  rw [State.resetFreed_eq]
  exact h

/-- R39, R40: step 1 changes queue, buffers, and, where a MAP_COMMIT leaves, regions and commit image. -/
theorem State.resetQueue_explicit (hlaw : s.leaseLaw = true) (hlen : s.regions.length = 16) :
    s.resetQueue p = { s with
      queue := (s.resetQueue p).queue
      buffers := (s.resetFreed p).buffers
      regions := if s.ownsCommit p then s.regions.map (Option.map Region.thawed) else s.regions
      commitImage := if s.ownsCommit p then none else s.commitImage } := by
  have hfreed := s.resetFreed_eq p
  have halone := State.resetFreed_frozenAlone (p := p) (State.frozenAlone_of_leaseLaw hlaw)
  have heq : s.resetQueue p = if s.ownsCommit p then (s.resetFreed p).dropCommit else s.resetFreed p :=
    s.resetQueue_eq p
  generalize (s.resetQueue p).queue = left at hfreed
  generalize s.resetQueue p = u at heq
  generalize s.resetFreed p = v at hfreed halone heq
  have hvlen : v.regions.length = 16 := by
    rw [hfreed]
    exact hlen
  cases hc : s.ownsCommit p with
  | true =>
    rw [hc, if_pos rfl, State.dropCommit_eq halone hvlen] at heq
    rw [heq, if_pos rfl, if_pos rfl]
    rw [hfreed]
  | false =>
    rw [hc, if_neg Bool.false_ne_true] at heq
    rw [heq]
    exact hfreed

/-! ### Step 2: the handles (R112) -/

theorem State.foldl_freeHandleBuffer_buffers (b : Nat) (hs : List (Option Nat)) : ∀ s : State,
    (hs.foldl State.freeHandleBuffer s).buffers[b]? = (s.buffers[b]?).map (fun u =>
      if some b ∈ hs then { u with state := .free } else u) := by
  induction hs with
  | nil => simp
  | cons h hs ih =>
    intro s
    have hfree : (s.freeHandleBuffer h).buffers[b]? = (s.buffers[b]?).map (fun u =>
        if some b = h then { u with state := .free } else u) := by
      unfold State.freeHandleBuffer
      cases h with
      | none => simp
      | some c =>
        simp only [State.modifyBuffer, List.getElem?_modify, Option.some.injEq, @eq_comm _ b c]
        rfl
    rw [List.foldl_cons, ih, hfree, Option.map_map]
    refine congrArg (fun f => Option.map f (s.buffers[b]?)) (funext fun u => ?_)
    simp only [Function.comp, List.mem_cons]
    exact Buffer.freed_or u

/-- Steps 1 and 2 of PORT RESET. -/
def State.resetWork (s : State) (p : Port) : State := (s.resetQueue p).resetHandles p

theorem State.resetQueue_port (hlaw : s.leaseLaw = true) (hlen : s.regions.length = 16) (q : Port) :
    (s.resetQueue p).port q = s.port q := by
  rw [State.resetQueue_explicit hlaw hlen]
  rfl

theorem State.resetWork_buffers (hlaw : s.leaseLaw = true) (hlen : s.regions.length = 16) (b : Nat) :
    (s.resetWork p).buffers[b]? = (s.buffers[b]?).map (fun u =>
      if some b ∈ (s.port p).handles ∨ ∃ e ∈ s.queue, e.port = p ∧ e.state = .queued ∧ e.buffer = some b
      then { u with state := .free } else u) := by
  have hqueue : (s.resetQueue p).buffers = (s.resetFreed p).buffers := by rw [State.resetQueue_explicit hlaw hlen]
  have hwork : (s.resetWork p).buffers =
      (((s.resetQueue p).port p).handles.foldl State.freeHandleBuffer (s.resetQueue p)).buffers := rfl
  have hfreed := State.foldl_freeEntryBuffer_buffers b (s.resetGone p) { s with queue := (s.resetQueue p).queue }
  have hgone : (∃ e ∈ s.resetGone p, e.buffer = some b) ↔
      ∃ e ∈ s.queue, e.port = p ∧ e.state = .queued ∧ e.buffer = some b := by
    simp only [State.mem_resetGone, and_assoc]
  rw [hwork, State.foldl_freeHandleBuffer_buffers, State.resetQueue_port hlaw hlen, hqueue, State.resetFreed, hfreed,
    Option.map_map]
  refine congrArg (fun f => Option.map f (s.buffers[b]?)) (funext fun u => ?_)
  simp only [Function.comp, hgone]
  exact (Buffer.freed_or u).trans (if_congr or_comm rfl rfl)

/-- The two steps change the port's handles, queue, buffers, and, where a MAP_COMMIT leaves, regions and image. -/
theorem State.resetWork_explicit (hlaw : s.leaseLaw = true) (hlen : s.regions.length = 16) :
    s.resetWork p = ({ s with
      queue := (s.resetQueue p).queue
      buffers := (s.resetWork p).buffers
      regions := if s.ownsCommit p then s.regions.map (Option.map Region.thawed) else s.regions
      commitImage := if s.ownsCommit p then none else s.commitImage } : State).modifyPort p
        (fun a => { a with handles := a.handles.map (fun _ => none) }) := by
  have hqueue := State.resetQueue_explicit (p := p) hlaw hlen
  have hhandles := (s.resetQueue p).resetHandles_eq p
  have hbuffers : ((s.resetQueue p).resetHandles p).buffers = (s.resetWork p).buffers := rfl
  rw [hbuffers] at hhandles
  generalize (s.resetWork p).buffers = bs at hhandles
  generalize (s.resetQueue p).queue = left at hqueue
  refine Eq.trans hhandles ?_
  rw [hqueue]

theorem State.resetWork_region (hlaw : s.leaseLaw = true) (hlen : s.regions.length = 16) (j : Nat) :
    (s.resetWork p).region j = (s.region j).map (fun r => if s.ownsCommit p then r.thawed else r) := by
  have hregions : (s.resetWork p).regions =
      if s.ownsCommit p then s.regions.map (Option.map Region.thawed) else s.regions := by
    rw [State.resetWork_explicit hlaw hlen]
    rfl
  cases hc : s.ownsCommit p with
  | true =>
    rw [hc] at hregions
    exact (congrFun (State.region_of_regions hregions) j).trans (s.region_mapRegions Region.thawed j)
  | false =>
    rw [hc] at hregions
    rw [State.region_of_regions (s := s) hregions]
    simp

/-! ### Step 3: the leases (R96) -/

/-- R96 step 1: a region without the port among its waiters. -/
def Region.without (r : Region) (p : Port) : Region :=
  { r with lease := { r.lease with waiters := r.lease.waiters.erase p } }

/-- R96 step 2: a region after the end of the port's lease. -/
def Region.releasedBy (r : Region) (p : Port) : Region :=
  if r.lease.holder = some p then { r with lease := r.leaseEnded } else r

theorem State.region_leaveWaiting (s : State) (i j : Nat) :
    (s.leaveWaiting p i).region j = (s.region j).map (fun r => if j = i then r.without p else r) := by
  unfold State.leaveWaiting
  rw [State.region_modifyLease]
  by_cases h : j = i
  · simp only [h, if_true]
    rfl
  · simp [h]

theorem State.region_endLeaseOf (s : State) (i j : Nat) :
    (s.endLeaseOf p i).region j = (s.region j).map (fun r => if j = i then r.releasedBy p else r) := by
  unfold State.endLeaseOf
  cases hr : s.region i with
  | none =>
    by_cases h : j = i
    · simp [h, hr]
    · simp [h]
  | some r =>
    by_cases hh : r.lease.holder = some p
    · simp only [if_pos hh, State.region_endLease]
      by_cases h : j = i
      · simp [h, hr, hh, Region.releasedBy]
      · simp [h]
    · by_cases h : j = i
      · simp [h, hr, hh, Region.releasedBy]
      · simp [h, hh]

theorem State.leaveWaiting_ports (is : List Nat) (s : State) : (is.foldl (State.leaveWaiting p) s).ports = s.ports :=
  foldl_keeps (f := State.leaveWaiting p) State.ports (fun _ _ => rfl) is s

theorem State.region_leaveWaitings (s : State) (n j : Nat) :
    ((List.range n).foldl (State.leaveWaiting p) s).region j =
      (s.region j).map (fun r => if j < n then r.without p else r) :=
  State.region_foldl_range (g := fun _ r => r.without p) State.region_leaveWaiting n s j

theorem State.region_endLeases (s : State) (n j : Nat) :
    ((List.range n).foldl (State.endLeaseOf p) s).region j =
      (s.region j).map (fun r => if j < n then r.releasedBy p else r) :=
  State.region_foldl_range (g := fun _ r => r.releasedBy p) State.region_endLeaseOf n s j

theorem State.region_resetLeases (hlen : s.regions.length = 16) (j : Nat) :
    (s.resetLeases p).region j = (s.region j).map (fun r => (r.without p).releasedBy p) := by
  show ((List.range 16).foldl (State.endLeaseOf p) ((List.range 16).foldl (State.leaveWaiting p) s)).region j = _
  rw [State.region_endLeases, State.region_leaveWaitings]
  cases hr : s.region j with
  | none => rfl
  | some r => simp [State.region_lt hlen hr]

/-- R88, R96: the end of a lease of the port tells the head waiter. -/
def State.grantsAt (s : State) (p q : Port) (i : Nat) : Prop :=
  ∃ r ws, s.region i = some r ∧ r.lease.holder = some p ∧ r.lease.drain = 0 ∧ r.lease.waiters = q :: ws

theorem State.endLeaseOf_reports (s : State) (i : Nat) (q : Port) :
    (s.port q).Reports ((s.endLeaseOf p i).port q) [] (fun n => n = .leaseGranted ∧ s.grantsAt p q i) := by
  unfold State.endLeaseOf
  cases hr : s.region i with
  | none => exact (PortState.Reports.refl _).congr fun n => by simp [State.grantsAt, hr]
  | some r =>
    by_cases hh : r.lease.holder = some p
    · simp only [if_pos hh]
      exact (s.endLease_reports i q).congr fun n => by simp [State.grantsAt, hr, hh]
    · simp only [if_neg hh]
      exact (PortState.Reports.refl _).congr fun n => by simp [State.grantsAt, hr, hh]

theorem State.endLeases_reports (s : State) (n : Nat) (q : Port) :
    (s.port q).Reports (((List.range n).foldl (State.endLeaseOf p) s).port q) []
      (fun k => k = .leaseGranted ∧ ∃ i, i < n ∧ s.grantsAt p q i) := by
  induction n with
  | zero => exact (PortState.Reports.refl _).congr fun k => by simp
  | succ n ih =>
    have hstep := State.endLeaseOf_reports (p := p) ((List.range n).foldl (State.endLeaseOf p) s) n q
    have hsame : State.grantsAt ((List.range n).foldl (State.endLeaseOf p) s) p q n ↔ s.grantsAt p q n := by
      have hregion := State.region_endLeases (p := p) s n n
      simp only [lt_irrefl, if_false, Option.map_id'] at hregion
      simp only [State.grantsAt, hregion]
    have h := ih.trans hstep
    rw [List.range_succ, List.foldl_append]
    refine h.congr fun k => ?_
    rw [hsame]
    simp only [Nat.lt_succ_iff_lt_or_eq, or_and_right, exists_or, exists_eq_left, and_or_left]

theorem State.resetLeases_reports (hlen : s.regions.length = 16) (q : Port) :
    (s.port q).Reports ((s.resetLeases p).port q) [] (fun k => k = .leaseGranted ∧
      ∃ i r ws, s.region i = some r ∧ r.lease.holder = some p ∧ r.lease.drain = 0 ∧
        r.lease.waiters.erase p = q :: ws) := by
  have hports := State.leaveWaiting_ports (p := p) (List.range 16) s
  have hregion := State.region_leaveWaitings (p := p) s 16
  have hall : s.resetLeases p =
    (List.range 16).foldl (State.endLeaseOf p) ((List.range 16).foldl (State.leaveWaiting p) s) := rfl
  rw [hall]
  generalize (List.range 16).foldl (State.leaveWaiting p) s = u at hports hregion
  rw [← State.port_of_ports hports]
  refine (u.endLeases_reports 16 q).congr fun k => and_congr_right fun _ => ?_
  simp only [State.grantsAt, hregion]
  constructor
  · rintro ⟨i, hi, r', ws, hr', hh, hd, hw⟩
    obtain ⟨r, hr, rfl⟩ := Option.map_eq_some_iff.1 hr'
    rw [if_pos hi] at hh hd hw
    exact ⟨i, r, ws, hr, hh, hd, hw⟩
  · rintro ⟨i, r, ws, hr, hh, hd, hw⟩
    have hi := State.region_lt hlen hr
    exact ⟨i, hi, r.without p, ws, by rw [hr]; simp [hi], hh, hd, hw⟩

theorem State.resetLeases_offLeases (s : State) (p : Port) : (s.resetLeases p).offLeases = s.offLeases := by
  refine (((OnlyLeases.foldl (f := State.leaveWaiting p) (fun u i => OnlyLeases.modifyLease u i _) regionIndices s).trans
    (OnlyLeases.foldl (f := State.endLeaseOf p) (fun u i => ?_) regionIndices _)).offLeases :)
  unfold State.endLeaseOf
  split
  · split
    · exact OnlyLeases.endLease u i
    · exact OnlyLeases.refl u
  · exact OnlyLeases.refl u

/-! ### Steps 4 to 6: stage, reports and flags (R133, R147, R171) -/

/-- What PORT RESET makes of its port, but for the handles. -/
def PortState.restarted (a : PortState) : PortState :=
  { a with
    lastResponse := .ok
    conflictSeen := false
    deniedSeen := false
    completions := []
    sequence := 0
    latched := .none
    postedSinceView := .none
    enables := .all
    mailbox := none }

theorem exec_portReset (hp : s.portReady p = true) : exec (.portReset p) s =
    .next ((((s.resetWork p).resetLeases p).resetStage p).modifyPort p PortState.restarted) := by
  have hexec : exec (.portReset p) s = execPortReset p s := rfl
  rw [hexec, execPortReset, takeCommand_ready _ hp]
  simp only [State.resetReports, State.resetSticky, State.respond, State.modifyPort_modifyPort]
  rfl

theorem State.resetStage_eq (s : State) (p : Port) :
    s.resetStage p = { s with staged := if s.authority = some p then none else s.staged } := by
  unfold State.resetStage
  split <;> rfl

/-- The fields that PORT RESET sets are not asked of the port before. -/
theorem PortState.restarted_of_reports {a c d : PortState} {k : NoticeKind → Prop} (h : c.Reports d [] k)
    (hc : c = { a with handles := a.handles.map (fun _ => none) }) :
    d.restarted.handles = a.handles.map (fun _ => none) ∧
    { d.restarted with
      lastResponse := a.lastResponse
      conflictSeen := a.conflictSeen
      deniedSeen := a.deniedSeen
      handles := a.handles
      completions := a.completions
      sequence := a.sequence
      latched := a.latched
      postedSinceView := a.postedSinceView
      enables := a.enables
      mailbox := a.mailbox } = a := by
  have hrest := h.rest
  subst hc
  exact ⟨(congrArg PortState.handles hrest :), (congrArg (fun v : PortState => { v with
      lastResponse := a.lastResponse
      conflictSeen := a.conflictSeen
      deniedSeen := a.deniedSeen
      handles := a.handles
      completions := a.completions
      sequence := a.sequence
      latched := a.latched
      postedSinceView := a.postedSinceView
      enables := a.enables
      mailbox := a.mailbox }) hrest :)⟩

/-- A port that is told of notices alone. -/
theorem PortState.Reports.noticed {a d : PortState} {k : NoticeKind → Prop} (h : a.Reports d [] k) :
    a.posted d k ∧ { d with latched := a.latched, postedSinceView := a.postedSinceView } = a := by
  have hcompletions := h.completions
  have hsequence := h.sequence
  have hrest := h.rest
  rw [List.append_nil] at hcompletions
  have hzero : d.sequence = a.sequence := by simpa using hsequence
  rw [← hcompletions, ← hzero] at hrest
  refine ⟨h.posted, ?_⟩
  exact hrest

/-- A region of a lawful table after PORT RESET: the port holds no FROZEN region. -/
theorem Region.released_thawed {c : Bool} (h : r.lease.holder = some p → r.lease.state ≠ .frozen) :
    ((if c then r.thawed else r).without p).releasedBy p =
      if r.lease.holder = some p then { r with lease := (r.without p).leaseEnded }
      else if c then (r.without p).thawed else r.without p := by
  have hholder : (if c then r.thawed else r).lease.holder = r.lease.holder := by
    unfold Region.thawed
    split
    · split <;> rfl
    · rfl
  have hholder' : ((if c then r.thawed else r).without p).lease.holder = r.lease.holder := hholder
  unfold Region.releasedBy
  rw [hholder']
  by_cases hh : r.lease.holder = some p
  · have hsame : (if c then r.thawed else r) = r := by
      unfold Region.thawed
      rw [if_neg (h hh), ite_self]
    rw [if_pos hh, if_pos hh, hsame]
    rfl
  · rw [if_neg hh, if_neg hh]
    cases c with
    | false => rfl
    | true =>
      have hf : (r.without p).lease.state = r.lease.state := rfl
      simp only [if_true, Region.thawed, hf]
      split <;> rfl

theorem State.not_frozen_of_holder (hlaw : s.leaseLaw = true) (hr : s.region i = some r)
    (hh : r.lease.holder = some p) : r.lease.state ≠ .frozen := by
  intro hf
  have hmem : some r ∈ s.regions := List.mem_of_getElem? (Option.join_eq_some_iff.1 hr)
  have hregion := List.all_eq_true.1 hlaw _ hmem
  simp [Region.leaseLaw, hf, hh] at hregion

/-- All of a state but what PORT RESET changes. -/
def State.offReset (s : State) : State :=
  { s with
    queue := []
    ports := State.reset.ports
    buffers := []
    regions := []
    staged := none
    commitImage := none }

theorem State.eq_of_offReset (h : t.offReset = s.offReset) :
    { t with
      queue := s.queue
      ports := s.ports
      buffers := s.buffers
      regions := s.regions
      staged := s.staged
      commitImage := s.commitImage } = s :=
  (congrArg (fun v : State => { v with
    queue := s.queue
    ports := s.ports
    buffers := s.buffers
    regions := s.regions
    staged := s.staged
    commitImage := s.commitImage }) h :)

/-- What the steps before the last make of queue, buffers, stage and commit image. -/
theorem State.resetBefore_fields (hlaw : s.leaseLaw = true) (hlen : s.regions.length = 16) (u : State)
    (hu : u = ((s.resetWork p).resetLeases p).resetStage p) :
    u.queue = (s.resetQueue p).queue ∧ u.buffers = (s.resetWork p).buffers ∧
      u.regions = ((s.resetWork p).resetLeases p).regions ∧ u.ports = ((s.resetWork p).resetLeases p).ports ∧
      u.staged = (if s.authority = some p then none else s.staged) ∧
      u.commitImage = (if s.ownsCommit p then none else s.commitImage) ∧ u.offReset = s.offReset := by
  have hwork := State.resetWork_explicit (p := p) hlaw hlen
  have hleases := (s.resetWork p).resetLeases_offLeases p
  rw [State.resetStage_eq] at hu
  generalize (s.resetWork p).resetLeases p = v at hu hleases
  generalize (s.resetWork p).buffers = bs at hwork
  generalize (s.resetQueue p).queue = left at hwork
  generalize s.resetWork p = w at hwork hleases
  subst hu hwork
  have hqueue : v.queue = left := (congrArg State.queue hleases :)
  have hbuffers : v.buffers = bs := (congrArg State.buffers hleases :)
  have hauthority : v.authority = s.authority := (congrArg State.authority hleases :)
  have hstaged : v.staged = s.staged := (congrArg State.staged hleases :)
  have himage : v.commitImage = (if s.ownsCommit p then none else s.commitImage) :=
    (congrArg State.commitImage hleases :)
  refine ⟨hqueue, hbuffers, rfl, rfl, ?_, himage, (congrArg State.offReset hleases :)⟩
  rw [hauthority, hstaged]

/-- A thaw changes no lease that ends. -/
theorem Region.thawed_lease (r : Region) : r.thawed.lease.holder = r.lease.holder ∧
    r.thawed.lease.drain = r.lease.drain ∧ r.thawed.lease.waiters = r.lease.waiters := by
  unfold Region.thawed
  split <;> exact ⟨rfl, rfl, rfl⟩

/-- The grants of step 3 are read off the state before the frame. -/
theorem State.resetWork_grants (hlaw : s.leaseLaw = true) (hlen : s.regions.length = 16) :
    (∃ i r ws, (s.resetWork p).region i = some r ∧ r.lease.holder = some p ∧ r.lease.drain = 0 ∧
        r.lease.waiters.erase p = q :: ws) ↔
      ∃ i r ws, s.region i = some r ∧ r.lease.holder = some p ∧ r.lease.drain = 0 ∧
        r.lease.waiters.erase p = q :: ws := by
  simp only [State.resetWork_region hlaw hlen, Option.map_eq_some_iff]
  have hlease : ∀ r : Region, (if s.ownsCommit p then r.thawed else r).lease.holder = r.lease.holder ∧
      (if s.ownsCommit p then r.thawed else r).lease.drain = r.lease.drain ∧
      (if s.ownsCommit p then r.thawed else r).lease.waiters = r.lease.waiters := fun r => by
    split
    · exact r.thawed_lease
    · exact ⟨rfl, rfl, rfl⟩
  constructor
  · rintro ⟨i, r', ws, ⟨r, hr, rfl⟩, hh, hd, hw⟩
    obtain ⟨hholder, hdrain, hwaiters⟩ := hlease r
    exact ⟨i, r, ws, hr, hholder ▸ hh, hdrain ▸ hd, hwaiters ▸ hw⟩
  · rintro ⟨i, r, ws, hr, hh, hd, hw⟩
    obtain ⟨hholder, hdrain, hwaiters⟩ := hlease r
    exact ⟨i, _, ws, ⟨r, hr, rfl⟩, hholder.trans hh, hdrain.trans hd, by rw [hwaiters, hw]⟩

/-- Settles O44: the six steps, of which the leases are a fold over the regions. -/
theorem portResetClearsItsPort : Obligations.PortResetClearsItsPort := by
  intro p s hp hlen hlaw
  have hcommit : s.ownsCommit p = true ↔ ∃ e ∈ s.queue, e.port = p ∧ e.state = .queued ∧ e.kind = .mapCommit :=
    State.ownsCommit_iff
  have hbuffers := State.resetWork_buffers (p := p) hlaw hlen
  have hleft := s.resetQueue_queue p
  have hworkport : ∀ q, (s.resetWork p).port q =
      if q = p then { s.port q with handles := (s.port q).handles.map (fun _ => none) } else s.port q := fun q => by
    rw [State.resetWork_explicit hlaw hlen, State.port_modifyPort]
    rfl
  have hworkregion := State.resetWork_region (p := p) hlaw hlen
  have hworklen : (s.resetWork p).regions.length = 16 := by
    rw [State.resetWork_explicit hlaw hlen]
    show (if s.ownsCommit p then s.regions.map (Option.map Region.thawed) else s.regions).length = 16
    split <;> simp [hlen]
  have hreports := State.resetLeases_reports (p := p) hworklen
  have hregions := State.region_resetLeases (p := p) hworklen
  obtain ⟨u, hu⟩ : ∃ u, u = ((s.resetWork p).resetLeases p).resetStage p := ⟨_, rfl⟩
  obtain ⟨hqueue, hbuf, hreg, hports, hstaged, himage, hoff⟩ := State.resetBefore_fields hlaw hlen u hu
  have hexec := exec_portReset hp
  rw [← hu] at hexec
  have hreport : ∀ q, ((s.resetWork p).port q).Reports (u.port q) [] _ := fun q => by
    rw [State.port_of_ports hports]
    exact hreports q
  have hregion : ∀ i, u.region i = (s.region i).map (fun r =>
      if r.lease.holder = some p then { r with lease := (r.without p).leaseEnded }
      else if s.ownsCommit p then (r.without p).thawed else r.without p) := fun i => by
    rw [State.region_of_regions hreg, hregions, hworkregion, Option.map_map]
    refine Option.map_congr fun r hr => ?_
    exact Region.released_thawed (State.not_frozen_of_holder hlaw (Option.mem_def.1 hr))
  obtain ⟨hhandles, hown⟩ := PortState.restarted_of_reports (a := s.port p) (hreport p)
    ((hworkport p).trans (if_pos rfl))
  have hself : (u.modifyPort p PortState.restarted).port p = (u.port p).restarted := State.port_modifyPort_self ..
  refine ⟨u.modifyPort p PortState.restarted, hexec, ?_⟩
  rw [hself]
  refine ⟨hqueue.trans (hleft.trans ?_), rfl, rfl, rfl, hhandles, rfl, rfl, rfl, rfl, rfl, hown, fun b => ?_,
    fun i => ?_, hstaged, ?_, fun q hq => ?_, State.eq_of_offReset hoff⟩
  · refine congrArg (List.map _) (List.filter_congr fun e _ => ?_)
    simp [Entry.isQueued]
  · rw [← hbuffers b, ← hbuf]
    rfl
  · rw [State.modifyPort_region, hregion]
    simp only [hcommit]
    rfl
  · refine himage.trans ?_
    simp only [hcommit]
  · rw [State.port_modifyPort_ne _ _ hq]
    have h := (hreport q).noticed
    rw [hworkport, if_neg hq] at h
    simp only [State.resetWork_grants hlaw hlen] at h
    exact h

end Sys2Proof.Machine
end


section
/-! The views whose fields are read back (O8, O9): lists of slots of one length each, and the fields of a byte. -/

namespace Sys2Proof.Machine

variable {s : State} {i j k n : Nat}

/-! ### Slots of one length -/

theorem length_flatMap_slots {α : Type} {f : α → List Byte} (hf : ∀ x, (f x).length = k) (l : List α) :
    (l.flatMap f).length = k * l.length := by
  induction l with
  | nil => rfl
  | cons x l ih => rw [List.flatMap_cons, List.length_append, hf, ih, List.length_cons, Nat.mul_succ, Nat.add_comm]

/-- A slot is read back at its place, whatever follows the last one. -/
theorem slot_of_flatMap {α : Type} {f : α → List Byte} (hf : ∀ x, (f x).length = k) (l : List α) (rest : List Byte) :
    ∀ {i : Nat} {x : α}, l[i]? = some x → (((l.flatMap f) ++ rest).drop (k * i)).take k = f x := by
  induction l with
  | nil =>
    intro i x h
    cases h
  | cons y l ih =>
    intro i x h
    rw [List.flatMap_cons, List.append_assoc]
    cases i with
    | zero =>
      cases h
      simp [← hf y]
    | succ i =>
      have hdrop : k * (i + 1) = (f y).length + k * i := by rw [hf, Nat.mul_succ, Nat.add_comm]
      rw [hdrop, ← List.drop_drop, List.drop_left]
      exact ih h

/-- A byte of a slot stands in the whole. -/
theorem getElem?_of_slot {v w : List Byte} (h : (v.drop i).take k = w) (hj : j < k) : v[i + j]? = w[j]? := by
  rw [← h, List.getElem?_take_of_lt hj, List.getElem?_drop]

/-! ### Fields of a byte -/

theorem byteOf_toNat (n : Nat) : (byteOf n).toNat = n % 256 := BitVec.toNat_ofNat n 8

theorem bytes24_toNat (a : Addr) :
    a.toNat / 65536 % 256 * 65536 + a.toNat / 256 % 256 * 256 + a.toNat % 256 = a.toNat := by
  have h : a.toNat < 16777216 := a.isLt
  omega

theorem bytes16_toNat (w : Word16) : w.toNat / 256 % 256 * 256 + w.toNat % 256 = w.toNat := by
  have h : w.toNat < 65536 := w.isLt
  omega

theorem EntryKind.code_le (x : EntryKind) : x.code ≤ 4 := by cases x <;> decide

theorem EntryState.code_le (x : EntryState) : x.code ≤ 3 := by cases x <;> decide

theorem LeaseState.code_le (x : LeaseState) : x.code ≤ 4 := by cases x <;> decide

theorem Status.code_le (x : Status) : x.code ≤ 6 := by cases x <;> decide

theorem SlotName.codeOf_le (x : Option SlotName) : SlotName.codeOf x ≤ 2 := by
  cases x with
  | none => decide
  | some n => cases n <;> decide

theorem Port.codeOf_le (x : Option Port) : Port.codeOf x ≤ 3 := by
  cases x with
  | none => decide
  | some p => exact p.code_le_three

theorem PortSet.bits_le (m : PortSet) : m.bits ≤ 7 := by
  have ha := m.a.toNat_le
  have hb := m.b.toNat_le
  have hc := m.c.toNat_le
  unfold PortSet.bits
  omega

/-! ### READ QUEUE and READ REGIONS (O8) -/

/-- The slot of READ QUEUE at a place. -/
def queueSlot (s : State) (i : Nat) : List Byte :=
  match s.queue[i]? with
  | some e => entrySlot e
  | none => zeros 8

theorem queueSlot_length (s : State) (i : Nat) : (queueSlot s i).length = 8 := by
  unfold queueSlot
  split <;> rfl

theorem State.queueView_eq (s : State) : s.queueView = (List.range 12).flatMap (queueSlot s) := rfl

theorem State.queueView_slot (hi : i < 12) : (s.queueView.drop (8 * i)).take 8 = queueSlot s i := by
  have h := slot_of_flatMap (queueSlot_length s) (List.range 12) [] (i := i) (x := i) (by simp [hi])
  rwa [List.append_nil] at h

/-- R189: the fields of a slot of READ QUEUE. -/
theorem entrySlot_fields {e : Entry} (hlaw : e.rangeLaw = true) (hb : ∀ b, e.buffer = some b → b ≤ 5) :
    let n := fun k => (((entrySlot e)[k]?).getD 0).toNat
    n 0 / 64 = e.port.code ∧ n 0 / 32 % 2 = (if e.orphaned then 1 else 0) ∧ n 0 / 4 % 8 = e.kind.code ∧
    n 0 % 4 = e.state.code ∧ (entrySlot e)[1]? = some e.tag ∧
    n 2 * 65536 + n 3 * 256 + n 4 = e.targetAddr.toNat ∧
    n 5 / 64 = e.requestedClass ∧ n 5 / 16 % 4 = e.effectiveClass ∧ n 5 / 8 % 2 = 0 ∧ n 5 % 8 = e.bypass ∧
    n 6 / 32 = (match e.buffer with
      | some b => b
      | none => 7) ∧
    n 6 % 32 = e.suspendCount ∧ n 7 = e.arrival.toNat % 256 := by
  have hport := e.port.code_le_three
  have hkind := e.kind.code_le
  have hstate := e.state.code_le
  have hbuffer : e.buffer.getD 7 ≤ 7 ∧ e.buffer.getD 7 = (match e.buffer with
      | some b => b
      | none => 7) := by
    cases h : e.buffer with
    | none => exact ⟨le_refl 7, rfl⟩
    | some b =>
      have := hb b h
      exact ⟨by simp only [Option.getD_some]; omega, rfl⟩
  obtain ⟨hle, heq⟩ := hbuffer
  have horphan : e.orphaned.toNat = if e.orphaned then 1 else 0 := by cases e.orphaned <;> rfl
  have hone := e.orphaned.toNat_le
  simp only [Entry.rangeLaw, Bool.and_eq_true, decide_eq_true_eq] at hlaw
  obtain ⟨⟨⟨⟨⟨⟨hreq, heff⟩, hbyp⟩, hsus⟩, -⟩, -⟩, -⟩ := hlaw
  rw [← heq, ← horphan]
  clear heq horphan
  simp only [entrySlot, bytes24, List.cons_append, List.nil_append, List.getElem?_cons_zero, List.getElem?_cons_succ,
    Option.getD_some, byteOf_toNat, bytes24_toNat, true_and]
  refine ⟨?_, ?_, ?_, ?_, ?_, ?_, ?_, ?_, ?_, ?_, trivial⟩ <;> omega

theorem regionSlot_length (o : Option Region) : (regionSlot o).length = 8 := by
  cases o <;> rfl

theorem State.regionsView_slot (hi : i < 16) : (s.regionsView.drop (8 * i)).take 8 = regionSlot (s.region i) := by
  have h := slot_of_flatMap (fun j => regionSlot_length (s.region j)) (List.range 16) [] (i := i) (x := i) (by simp [hi])
  rwa [List.append_nil] at h

/-- R98, R189: the fields of a slot of READ REGIONS. -/
theorem regionSlot_fields (r : Region) :
    let v := regionSlot (some r)
    let n := fun k => ((v[k]?).getD 0).toNat
    n 0 = r.lease.state.code ∧ v[1]? = some r.definition.first ∧ v[2]? = some r.definition.last ∧
    n 3 % 8 = r.definition.readMask.bits ∧ n 3 / 16 = r.definition.writeMask.bits ∧ n 3 / 8 % 2 = 0 ∧
    v[4]? = some r.definition.limit ∧ n 5 = r.lease.remaining % 256 ∧
    n 6 / 16 = Port.codeOf r.lease.holder ∧ n 6 / 4 % 4 = Port.codeOf r.lease.waiters[0]? ∧
    n 6 % 4 = Port.codeOf r.lease.waiters[1]? ∧ n 7 = r.lease.drain % 256 := by
  have hstate := r.lease.state.code_le
  have hread := r.definition.readMask.bits_le
  have hwrite := r.definition.writeMask.bits_le
  have hholder := Port.codeOf_le r.lease.holder
  have hhead := Port.codeOf_le r.lease.waiters[0]?
  have hnext := Port.codeOf_le r.lease.waiters[1]?
  simp only [regionSlot, List.getElem?_cons_zero, List.getElem?_cons_succ, Option.getD_some, byteOf_toNat, true_and,
    and_true]
  refine ⟨?_, ?_, ?_, ?_, ?_, ?_, ?_⟩ <;> omega

/-- Settles O8: a view is a list of slots of eight bytes, and each slot's fields are read back from its bytes. -/
theorem queueAndRegionViewFields : Obligations.QueueAndRegionViewFields := by
  refine ⟨fun s => ⟨?_, fun i hi => ?_⟩, fun s => ⟨?_, fun i hi => ?_⟩⟩
  · rw [State.queueView_eq, length_flatMap_slots (queueSlot_length s), List.length_range]
  · rw [State.queueView_slot hi, queueSlot]
    cases s.queue[i]? with
    | none => rfl
    | some e => exact entrySlot_fields
  · exact (length_flatMap_slots (fun j => regionSlot_length (s.region j)) (List.range 16)).trans (by simp)
  · rw [State.regionsView_slot hi]
    cases s.region i with
    | none => rfl
    | some r => exact regionSlot_fields r

/-! ### READ MAP, Completion Records and READ INTERRUPTED (O9) -/

theorem definitionBytes_length (o : Option RegionDef) : (definitionBytes o).length = 4 := by
  cases o <;> rfl

/-- The definitions of an image, index by index. -/
def definitionsBytes (m : MapImage) : List Byte := (List.range 16).flatMap (fun i => definitionBytes (m.regions[i]?).join)

theorem definitionsBytes_length (m : MapImage) : (definitionsBytes m).length = 64 :=
  (length_flatMap_slots (fun i => definitionBytes_length (m.regions[i]?).join) (List.range 16)).trans (by simp)

/-- The profiles of an image, port by port. -/
def profilesBytes (m : MapImage) : List Byte :=
  profileBytes m.profiles.a ++ profileBytes m.profiles.b ++ profileBytes m.profiles.c

/-- R189: an image is three bytes, the definitions and the profiles. -/
theorem imageBytes_eq (m : MapImage) (g : Word16) (slot : Option SlotName) : imageBytes m g slot =
    [byteOf (128 + 4 * SlotName.codeOf slot + Port.codeOf m.authority), byteOf (g.toNat / 256), byteOf g.toNat] ++
      (definitionsBytes m ++ profilesBytes m) := by
  simp only [imageBytes, bytes16, profilesBytes, definitionsBytes, List.cons_append, List.nil_append, List.append_assoc]

theorem imageBytes_length (m : MapImage) (g : Word16) (slot : Option SlotName) : (imageBytes m g slot).length = 73 := by
  rw [imageBytes_eq, List.length_append, List.length_append, definitionsBytes_length]
  rfl

theorem imageBytes_definition (m : MapImage) (g : Word16) (slot : Option SlotName) (hi : i < 16) :
    ((imageBytes m g slot).drop (3 + 4 * i)).take 4 = definitionBytes (m.regions[i]?).join := by
  rw [imageBytes_eq, ← List.drop_drop]
  exact slot_of_flatMap (fun j => definitionBytes_length (m.regions[j]?).join) (List.range 16) (profilesBytes m)
    (i := i) (x := i) (by simp [hi])

theorem imageBytes_profiles (m : MapImage) (g : Word16) (slot : Option SlotName) :
    (imageBytes m g slot).drop 67 = profilesBytes m := by
  rw [imageBytes_eq, ← List.append_assoc]
  exact List.drop_left' (by simp [definitionsBytes_length])

theorem imageBytes_profile (m : MapImage) (g : Word16) (slot : Option SlotName) (j : Nat) :
    (imageBytes m g slot)[67 + j]? = (profilesBytes m)[j]? := by
  rw [← imageBytes_profiles m g slot, List.getElem?_drop]

theorem profile_toNat {f : Profile} (h : f.inRange = true) : (16 * f.ceiling + f.window) % 256 = 16 * f.ceiling + f.window := by
  simp only [Profile.inRange, Bool.and_eq_true, decide_eq_true_eq] at h
  omega

/-- R189: the fields of an image. -/
theorem imageBytes_fields (m : MapImage) (g : Word16) (slot : Option SlotName) :
    let v := imageBytes m g slot
    let n := fun k => ((v[k]?).getD 0).toNat
    n 0 / 128 = 1 ∧ n 0 / 4 % 32 = SlotName.codeOf slot ∧ n 0 % 4 = Port.codeOf m.authority ∧
    n 1 * 256 + n 2 = g.toNat ∧
    (∀ i, i < 16 →
      match (m.regions[i]?).join with
      | none => (v.drop (3 + 4 * i)).take 4 = [0, 0, 0, 0]
      | some d => v[3 + 4 * i]? = some d.first ∧ v[4 + 4 * i]? = some d.last ∧
        n (5 + 4 * i) / 128 = 1 ∧ n (5 + 4 * i) / 16 % 8 = d.writeMask.bits ∧
        n (5 + 4 * i) % 16 = d.readMask.bits ∧ v[6 + 4 * i]? = some d.limit) ∧
    (m.profileLaw = true →
      n 67 = 16 * m.profiles.a.ceiling + m.profiles.a.window ∧ v[68]? = some m.profiles.a.fill ∧
      n 69 = 16 * m.profiles.b.ceiling + m.profiles.b.window ∧ v[70]? = some m.profiles.b.fill ∧
      n 71 = 16 * m.profiles.c.ceiling + m.profiles.c.window ∧ v[72]? = some m.profiles.c.fill) := by
  intro v n
  have hslot := SlotName.codeOf_le slot
  have hauthority := Port.codeOf_le m.authority
  have hv : v = imageBytes m g slot := rfl
  have hn : n = fun k => ((v[k]?).getD 0).toNat := rfl
  clear_value n v
  have h0 : n 0 = 128 + 4 * SlotName.codeOf slot + Port.codeOf m.authority := by
    have : n 0 = (128 + 4 * SlotName.codeOf slot + Port.codeOf m.authority) % 256 := by
      simp only [hn, hv, imageBytes_eq, List.cons_append, List.getElem?_cons_zero, Option.getD_some, byteOf_toNat]
    omega
  have hg : n 1 * 256 + n 2 = g.toNat := by
    simp only [hn, hv, imageBytes_eq, List.cons_append, List.getElem?_cons_zero, List.getElem?_cons_succ,
      Option.getD_some, byteOf_toNat, bytes16_toNat]
  refine ⟨by omega, by omega, by omega, hg, fun i hi => ?_, fun hlaw => ?_⟩
  · have hdef := imageBytes_definition m g slot hi
    have hbyte := fun j hj => getElem?_of_slot (j := j) hdef hj
    rw [← hv] at hdef hbyte
    cases hd : (m.regions[i]?).join with
    | none => rw [hdef, hd]; rfl
    | some d =>
      rw [hd] at hbyte
      have hread := d.readMask.bits_le
      have hwrite := d.writeMask.bits_le
      have h0 := hbyte 0 (by omega)
      have h1 := hbyte 1 (by omega)
      have h2 := hbyte 2 (by omega)
      have h3 := hbyte 3 (by omega)
      rw [show 3 + 4 * i + 1 = 4 + 4 * i by omega] at h1
      rw [show 3 + 4 * i + 2 = 5 + 4 * i by omega] at h2
      rw [show 3 + 4 * i + 3 = 6 + 4 * i by omega] at h3
      have hmasks : n (5 + 4 * i) = 128 + 16 * d.writeMask.bits + d.readMask.bits := by
        have : n (5 + 4 * i) = (128 + 16 * d.writeMask.bits + d.readMask.bits) % 256 := by
          simp only [hn, h2, definitionBytes, List.getElem?_cons_zero, List.getElem?_cons_succ, Option.getD_some,
            byteOf_toNat]
        omega
      exact ⟨h0, h1, by omega, by omega, by omega, h3⟩
  · simp only [MapImage.profileLaw, Bool.and_eq_true] at hlaw
    obtain ⟨⟨ha, hb⟩, hc⟩ := hlaw
    have hbyte := imageBytes_profile m g slot
    rw [← hv] at hbyte
    have h0 := hbyte 0
    have h1 := hbyte 1
    have h2 := hbyte 2
    have h3 := hbyte 3
    have h4 := hbyte 4
    have h5 := hbyte 5
    refine ⟨?_, h1, ?_, h3, ?_, h5⟩
    · rw [← profile_toNat ha, ← byteOf_toNat]
      simp only [hn, h0]
      rfl
    · rw [← profile_toNat hb, ← byteOf_toNat]
      simp only [hn, h2]
      rfl
    · rw [← profile_toNat hc, ← byteOf_toNat]
      simp only [hn, h4]
      rfl

theorem State.mapView_length (s : State) (sel : Byte) : (s.mapView sel).length = 73 := by
  unfold State.mapView
  split
  · exact imageBytes_length ..
  · split
    · exact imageBytes_length ..
    · rfl
  · rfl

/-- R170: what is empty, or no selector, is all 00h. -/
theorem State.mapView_zeros {sel : Byte} (h : 2 ≤ sel.toNat ∨ sel = 1 ∧ s.staged = none) :
    s.mapView sel = List.replicate 73 0 := by
  rcases h with h | ⟨rfl, h⟩
  · unfold State.mapView
    split
    · next h0 => omega
    · next h1 => omega
    · rfl
  · simp only [State.mapView, h]
    rfl

theorem State.mapView_image {sel : Byte} {m : MapImage} {g : Word16} {slot : Option SlotName}
    (h : (sel = 0 ∧ m = s.workingImage ∧ g = s.generation ∧ slot = s.currentSlot) ∨
      (sel = 1 ∧ s.staged = some m ∧ g = 0 ∧ slot = none)) : s.mapView sel = imageBytes m g slot := by
  rcases h with ⟨rfl, rfl, rfl, rfl⟩ | ⟨rfl, h, rfl, rfl⟩
  · rfl
  · simp only [State.mapView, h]
    rfl

/-- R115, R189: the fields of a Completion Record. -/
theorem recordBytes_fields (r : CompletionRecord) (hclass : r.effectiveClass ≤ 3) (hsuspend : r.suspendCount ≤ 16) :
    let v := recordBytes (some r)
    let n := fun k => ((v[k]?).getD 0).toNat
    v.length = 8 ∧ n 0 * 256 + n 1 = r.sequence.toNat ∧ v[2]? = some r.tag ∧ n 3 / 16 = r.kind.code ∧
    n 3 % 16 = r.status.code ∧ n 4 * 65536 + n 5 * 256 + n 6 = r.target.toNat ∧
    n 7 / 64 = r.effectiveClass ∧ n 7 % 64 = r.suspendCount := by
  have hkind := r.kind.code_le
  have hstatus := r.status.code_le
  refine ⟨rfl, ?_⟩
  simp only [recordBytes, bytes16, bytes24, List.cons_append, List.nil_append, List.getElem?_cons_zero,
    List.getElem?_cons_succ, Option.getD_some, byteOf_toNat, bytes16_toNat, bytes24_toNat, true_and]
  refine ⟨?_, ?_, ?_, ?_⟩ <;> omega

theorem itemBytes_length (o : Option InterruptedItem) : (itemBytes o).length = 7 := by
  cases o <;> rfl

theorem State.interruptedView_item (hi : i < 2) :
    (s.interruptedView.drop (1 + 7 * i)).take 7 = itemBytes s.interrupted[i]? := by
  have hview : s.interruptedView = [byteOf s.interrupted.length] ++ (List.range 2).flatMap
      (fun j => itemBytes s.interrupted[j]?) ++ [] := by
    simp [State.interruptedView, List.range_succ]
  rw [hview, List.append_assoc, ← List.drop_drop]
  exact slot_of_flatMap (fun j => itemBytes_length s.interrupted[j]?) (List.range 2) [] (i := i) (x := i) (by simp [hi])

/-- R183, R189: the fields of READ INTERRUPTED. -/
theorem State.interruptedView_fields (hlen : s.interrupted.length ≤ 2) :
    let v := s.interruptedView
    let n := fun k => ((v[k]?).getD 0).toNat
    v.length = 15 ∧ n 0 = s.interrupted.length ∧
    ∀ i, i < 2 →
      match s.interrupted[i]? with
      | none => (v.drop (1 + 7 * i)).take 7 = List.replicate 7 0
      | some x => n (1 + 7 * i) = x.kind.code ∧
        n (2 + 7 * i) * 65536 + n (3 + 7 * i) * 256 + n (4 + 7 * i) = x.target.toNat ∧
        n (5 + 7 * i) = x.port.code ∧ v[6 + 7 * i]? = some x.tag ∧
        n (7 + 7 * i) = if x.suspended then 1 else 0 := by
  intro v n
  have hitem : ∀ i, i < 2 → (v.drop (1 + 7 * i)).take 7 = itemBytes s.interrupted[i]? := fun i hi =>
    State.interruptedView_item hi
  have hlength : v.length = 15 := by
    show (byteOf s.interrupted.length :: itemBytes s.interrupted[0]? ++ itemBytes s.interrupted[1]?).length = 15
    rw [List.length_append, List.length_cons, itemBytes_length, itemBytes_length]
  have h0 : n 0 = s.interrupted.length := by
    have : n 0 = s.interrupted.length % 256 := byteOf_toNat s.interrupted.length
    omega
  refine ⟨hlength, h0, fun i hi => ?_⟩
  have hslot := hitem i hi
  have hbyte := fun j hj => getElem?_of_slot (j := j) hslot hj
  have hn : n = fun k => ((v[k]?).getD 0).toNat := rfl
  clear_value n v
  cases hx : s.interrupted[i]? with
  | none => rw [hslot, hx]; rfl
  | some x =>
    rw [hx] at hbyte
    have hkind := x.kind.code_le
    have hport := x.port.code_le_three
    have hone := x.suspended.toNat_le
    have hbit : x.suspended.toNat = if x.suspended then 1 else 0 := by cases x.suspended <;> rfl
    have hfield : ∀ j, j < 7 → n (1 + j + 7 * i) = (((itemBytes (some x))[j]?).getD 0).toNat := fun j hj => by
      rw [← hbyte j hj, hn, Nat.add_right_comm]
    have htag : v[6 + 7 * i]? = some x.tag := by
      have h := hbyte 5 (by omega)
      rwa [show 1 + 7 * i + 5 = 6 + 7 * i by omega] at h
    have h1 := hfield 0 (by omega)
    have h2 := hfield 1 (by omega)
    have h3 := hfield 2 (by omega)
    have h4 := hfield 3 (by omega)
    have h5 := hfield 4 (by omega)
    have h7 := hfield 6 (by omega)
    simp only [itemBytes, bytes24, List.cons_append, List.nil_append, List.getElem?_cons_zero,
      List.getElem?_cons_succ, Option.getD_some, byteOf_toNat] at h1 h2 h3 h4 h5 h7
    have htarget := bytes24_toNat x.target
    refine ⟨h1.trans (Nat.mod_eq_of_lt (by omega)), ?_, h5.trans (Nat.mod_eq_of_lt (by omega)), htag, ?_⟩
    · rw [h2, h3, h4, htarget]
    · rw [h7, ← hbit]
      omega

/-- Settles O9: each layout is a list of slots, and each byte's fields are read back by arithmetic. -/
theorem mapAndRecordViewFields : Obligations.MapAndRecordViewFields := by
  refine ⟨fun s sel => ⟨s.mapView_length sel, State.mapView_zeros, fun m g slot h => ?_⟩, rfl, recordBytes_fields,
    fun s => State.interruptedView_fields⟩
  rw [State.mapView_image h]
  exact imageBytes_fields m g slot

end Sys2Proof.Machine
end


section
/-! Frames bit by bit: what the lines hand on, that no event on them stops the part, and the bytes that clocks carry while
the port listens (O10). -/

namespace Sys2Proof.Machine

variable {s t : State} {p : Port} {i : Instr} {b : Byte} {bytes : List Byte} {f : FrameState} {quad : Bool}
  {clocks : List (IoLines Bool)} {n k : Nat}

/-! ### What a frame hands on (R138) -/

/-- The first moments of a frame: a taken command, an opening, READ STATUS's view, and an inquiry that is dropped. -/
def Instr.handedOn (i : Instr) (p : Port) : Prop :=
  (i.takenBy = some p ∧ i.wellFormed = true) ∨ (i.outputOpens = some p ∧ i ≠ .notReadyAnswer p (.fixed ())) ∨
    i = .readStatus p (.fixed ()) ∨ i = .inquiryDropped p

/-- A DESELECTED port executes such a row. -/
theorem exec_handedOn (hi : Instr.handedOn i p) (hf : (s.port p).frame = .deselected) : ∃ t, exec i s = .next t := by
  rcases hi with ⟨hi, hw⟩ | ⟨hi, hn⟩ | rfl | rfl
  · obtain ⟨owner, h⟩ := exec_takenBy hi hw s
    cases hd : s.device with
    | starting => exact ⟨_, h.trans (takeCommand_starting owner hf hd)⟩
    | ready => exact ⟨_, h.trans (takeCommand_ready owner (State.portReady_iff.2 ⟨hf, hd⟩))⟩
  · obtain ⟨answer, h⟩ := exec_outputOpens hi hn s
    cases hd : s.device with
    | starting => exact ⟨_, h.trans (openFrame_starting answer hf hd)⟩
    | ready => exact ⟨_, h.trans (openFrame_ready answer (State.portReady_iff.2 ⟨hf, hd⟩))⟩
  · exact ⟨_, by simp only [exec, execReadStatus, hf]; rfl⟩
  · exact ⟨_, by simp only [exec, execInquiryDropped, hf]; rfl⟩

theorem head?_ite {α : Type} {P : α → Prop} {c : Prop} [Decidable c] {l m : List α} (hl : c → ∀ x ∈ l.head?, P x)
    (hm : ¬c → ∀ x ∈ m.head?, P x) : ∀ x ∈ (if c then l else m).head?, P x := by
  split
  · next h => exact hl h
  · next h => exact hm h

theorem head?_decodeArrayRead {row : Addr → Instr} (hrow : ∀ x, Instr.handedOn (row x) p) (fields : List Byte) :
    ∀ c ∈ (decodeArrayRead row p fields).head?, Instr.handedOn c p := by
  unfold decodeArrayRead
  split
  · rintro c ⟨⟩
    exact hrow _
  · rintro c ⟨⟩
    exact .inr (.inr (.inr rfl))

theorem head?_decodeCommand {short : List Instr} (hshort : ∀ c ∈ short.head?, Instr.handedOn c p) (op : Byte)
    (fields : List Byte) : ∀ c ∈ (decodeCommand p op fields short).head?, Instr.handedOn c p := by
  have opening : ∀ i : Instr, i.outputOpens = some p → i ≠ .notReadyAnswer p (.fixed ()) → Instr.handedOn i p :=
    fun i h hn => .inr (.inl ⟨h, hn⟩)
  unfold decodeCommand
  refine head?_ite (fun _ => head?_decodeArrayRead (fun _ => opening _ rfl (by simp)) fields) fun _ => ?_
  refine head?_ite (fun _ => head?_decodeArrayRead (fun _ => opening _ rfl (by simp)) fields) fun _ => ?_
  repeat' refine head?_ite (fun _ => ?_) (fun _ => ?_)
  rotate_right
  · rintro c ⟨⟩
    have hop : op ∉ commandOpcodes := by
      simp only [commandOpcodes, List.mem_cons, List.not_mem_nil, or_self, *, not_false_eq_true]
    exact .inl ⟨rfl, by simpa [Instr.wellFormed] using hop⟩
  all_goals try split
  all_goals try exact hshort
  all_goals
    rintro c ⟨⟩
    simp [Instr.handedOn, Instr.takenBy, Instr.outputOpens, Instr.wellFormed, loadWellFormed]

/-- The first row that a frame decodes to is one of its first moments. -/
theorem head?_decodeFrame (g : Frame) : ∀ c ∈ (decodeFrame p g).head?, Instr.handedOn c p := by
  unfold decodeFrame
  split
  · split
    · simp
    · next hk =>
      rintro c ⟨⟩
      exact .inl ⟨rfl, decide_eq_true (Nat.pos_of_ne_zero hk)⟩
  · next op rest hb =>
    refine head?_decodeCommand ?_ op rest
    rintro c ⟨⟩
    exact .inl ⟨rfl, decide_eq_true (by rw [hb, List.length_cons]; omega)⟩

theorem State.handOn_next (s : State) (p : Port) (bytes : List Byte) (k : Nat) :
    ∃ t, s.handOn p bytes k = .next t := by
  have hfirst := head?_decodeFrame (p := p) ⟨bytes, k⟩
  unfold State.handOn
  cases hrows : decodeFrame p ⟨bytes, k⟩ with
  | nil => exact ⟨_, rfl⟩
  | cons c rows =>
    rw [hrows] at hfirst
    exact exec_handedOn (hfirst c rfl) (by simp)

theorem State.receiveByte_next (s : State) (p : Port) (bytes : List Byte) : ∃ t, s.receiveByte p bytes = .next t := by
  unfold State.receiveByte
  split
  · exact ⟨_, rfl⟩
  · exact State.handOn_next ..

/-- No event on the lines stops the part. -/
theorem pinEvent_next (p : Port) (e : PinEvent) (s : State) : ∃ t, pinEvent p e s = .next t := by
  cases e with
  | fall => exact ⟨_, rfl⟩
  | clock io =>
    show ∃ t, pinClock p io s = .next t
    unfold pinClock
    split
    · split
      · dsimp only
        split
        · exact ⟨_, rfl⟩
        · exact State.receiveByte_next ..
      · dsimp only
        split <;> exact ⟨_, rfl⟩
      · split
        · exact ⟨_, rfl⟩
        · dsimp only
          split <;> exact ⟨_, rfl⟩
    · exact ⟨_, rfl⟩
  | rise =>
    show ∃ t, pinRise p s = .next t
    unfold pinRise
    split
    · dsimp only
      split
      · exact State.handOn_next ..
      · exact State.handOn_next ..
      · exact State.handOn_next ..
      · exact ⟨_, rfl⟩
      · exact ⟨_, rfl⟩
    · exact ⟨_, rfl⟩

/-! ### A port that listens -/

/-- R136: the bytes received so far leave the port RECEIVING or in DATA_IN, where the next bits go to a byte. -/
def Listens (bytes : List Byte) (f : FrameState) : Prop :=
  afterByte bytes = some f ∧ (f = .receiving bytes ∨ f = .dataIn bytes)

theorem Listens.nil : Listens [] (.receiving []) := ⟨rfl, .inl rfl⟩

/-- A clock of a port that listens: one more bit, or the last of a byte. -/
theorem pinClock_listens (hl : Listens bytes f) (hc : (s.port p).csLow = true) (hf : (s.port p).frame = f)
    (io : IoLines Bool) : pinClock p io s =
      if ((s.port p).shift ++ sampled (quadIn bytes) io).length < 8 then
        .next (s.modifyPort p (fun q => { q with shift := (s.port p).shift ++ sampled (quadIn bytes) io }))
      else s.receiveByte p (bytes ++ [byteOfBits ((s.port p).shift ++ sampled (quadIn bytes) io)]) := by
  obtain ⟨hafter, rfl | rfl⟩ := hl
  · simp only [pinClock, hc, hf, if_true]
  · simp only [pinClock, hc, hf, if_true, State.receiveByte, afterByte_dataIn _ hafter]

theorem sampled_length (quad : Bool) (io : IoLines Bool) :
    (sampled quad io).length = if quad then 4 else 1 := by
  cases quad <;> rfl

theorem flatMap_sampled_length (quad : Bool) (clocks : List (IoLines Bool)) :
    (clocks.flatMap (sampled quad)).length = clocks.length * if quad then 4 else 1 := by
  induction clocks with
  | nil => simp
  | cons io clocks ih =>
    rw [List.flatMap_cons, List.length_append, ih, sampled_length, List.length_cons, Nat.succ_mul, Nat.add_comm]

theorem runEvents_singleton (p : Port) (e : PinEvent) (s : State) : runEvents p [e] s = pinEvent p e s := by
  obtain ⟨t, h⟩ := pinEvent_next p e s
  rw [runEvents_cons h, h, runEvents_nil]

/-- Bits too few for a byte. -/
theorem runEvents_partial (hl : Listens bytes f) (clocks : List (IoLines Bool)) : ∀ s : State,
    (s.port p).csLow = true → (s.port p).frame = f →
    (s.port p).shift.length + (clocks.flatMap (sampled (quadIn bytes))).length < 8 →
    runEvents p (clocks.map .clock) s =
      .next (s.modifyPort p (fun q => { q with shift := q.shift ++ clocks.flatMap (sampled (quadIn bytes)) })) := by
  induction clocks with
  | nil =>
    intro s _ _ _
    rw [State.modifyPort_eq_self (by simp)]
    rfl
  | cons io clocks ih =>
    intro s hc hf hn
    rw [List.flatMap_cons, List.length_append] at hn
    have hclock := pinClock_listens hl hc hf io
    rw [if_pos (by rw [List.length_append]; omega)] at hclock
    have hstep : pinEvent p (.clock io) s = _ := hclock
    rw [List.map_cons, runEvents_cons hstep, ih _ (by simpa using hc) (by simpa using hf)
      (by rw [State.port_modifyPort_self, List.length_append]; omega), State.modifyPort_modifyPort]
    refine congrArg Host.Outcome.next (State.modifyPort_congr ?_)
    simp

/-- Where the frame stands before its last bit does not matter to the byte. -/
theorem State.receiveByte_lines (s : State) (p : Port) (bytes : List Byte) (g : FrameState) (x : List Bool) :
    (s.modifyPort p (fun q => { q with frame := g, shift := x })).receiveByte p bytes = s.receiveByte p bytes := by
  unfold State.receiveByte State.handOn
  split
  · simp only [State.modifyPort_modifyPort]
  · simp only [State.modifyPort_modifyPort]

/-- The bits of a whole byte. -/
theorem runEvents_whole (hl : Listens bytes f) (hc : (s.port p).csLow = true) (hf : (s.port p).frame = f)
    (hs : (s.port p).shift = []) (hb : clocks.flatMap (sampled (quadIn bytes)) = bitsOf b) :
    runEvents p (clocks.map .clock) s = s.receiveByte p (bytes ++ [b]) := by
  have hne : clocks ≠ [] := by
    rintro rfl
    have h := congrArg List.length hb
    simp at h
  obtain ⟨first, last, rfl⟩ : ∃ first last, clocks = first ++ [last] :=
    ⟨_, _, (List.dropLast_append_getLast hne).symm⟩
  rw [List.flatMap_append, List.flatMap_singleton] at hb
  have hlen : (first.flatMap (sampled (quadIn bytes))).length + (sampled (quadIn bytes) last).length = 8 := by
    rw [← List.length_append, hb, bitsOf_length]
  have hpos : 0 < (sampled (quadIn bytes) last).length := by
    rw [sampled_length]
    split <;> omega
  have hfirst := runEvents_partial hl first s hc hf (by rw [hs, List.length_nil]; omega)
  rw [List.map_append, runEvents_append hfirst, List.map_singleton, runEvents_singleton, pinEvent_clock,
    pinClock_listens (f := f) hl (by simpa using hc) (by simpa using hf), State.port_modifyPort_self, hs,
    List.nil_append, hb, bitsOf_length, if_neg (lt_irrefl 8), byteOfBits_bitsOf]
  have hlines : s.modifyPort p (fun q => { q with shift := q.shift ++ first.flatMap (sampled (quadIn bytes)) }) =
      s.modifyPort p (fun q => { q with frame := f, shift := first.flatMap (sampled (quadIn bytes)) }) :=
    State.modifyPort_congr (by simp [hs, hf])
  rw [hlines, State.receiveByte_lines]

/-! ### The clocks of a frame's bytes -/

/-- R135: the groups of bits of one byte. -/
def byteGroups (quad : Bool) (b : Byte) : List (List Bool) :=
  if quad then
    [[b.getMsbD 0, b.getMsbD 1, b.getMsbD 2, b.getMsbD 3], [b.getMsbD 4, b.getMsbD 5, b.getMsbD 6, b.getMsbD 7]]
  else (List.range 8).map (fun i => [b.getMsbD i])

theorem byteGroups_flatten (quad : Bool) (b : Byte) : (byteGroups quad b).flatten = bitsOf b := by
  cases quad <;> rfl

theorem byteGroups_length {g : List Bool} (h : g ∈ byteGroups quad b) : g.length = if quad then 4 else 1 := by
  cases quad <;> simp [byteGroups] at h
  · obtain ⟨i, -, rfl⟩ := h
    rfl
  · rcases h with rfl | rfl <;> rfl

/-- Clocks that carry groups of one length bring their bits. -/
theorem flatMap_sampled_of_carries {gs : List (List Bool)} (h : List.Forall₂ carries clocks gs)
    (hlen : ∀ g ∈ gs, g.length = if quad then 4 else 1) : clocks.flatMap (sampled quad) = gs.flatten := by
  induction h with
  | nil => rfl
  | @cons io g clocks gs hg _ ih =>
    have hsampled : sampled quad io = g := by
      have hg' := hlen g List.mem_cons_self
      cases quad <;> rcases hg with rfl | rfl <;> simp [sampled] at hg' ⊢
    rw [List.flatMap_cons, List.flatten_cons, hsampled, ih fun x hx => hlen x (List.mem_cons_of_mem _ hx)]

/-- The groups of the bytes of a frame that come after the first ones. -/
def groupsFrom : List Byte → List Byte → List (List Bool)
  | _, [] => []
  | sent, b :: bs => byteGroups (quadIn sent) b ++ groupsFrom (sent ++ [b]) bs

theorem groupsFrom_append (bs cs : List Byte) :
    ∀ sent, groupsFrom sent (bs ++ cs) = groupsFrom sent bs ++ groupsFrom (sent ++ bs) cs := by
  induction bs with
  | nil => simp [groupsFrom]
  | cons b bs ih => intro sent; simp [groupsFrom, ih]

/-- Away from the data of LOAD BUFFER QUAD every byte comes bit by bit. -/
theorem groupsFrom_single {op : Byte} (h : op ≠ 0x57) (bs : List Byte) :
    ∀ sent, groupsFrom (op :: sent) bs = bs.flatMap (byteGroups false) := by
  induction bs with
  | nil => exact fun _ => rfl
  | cons b bs ih =>
    intro sent
    have hq : quadIn (op :: sent) = false := by
      simp only [quadIn, List.head?_cons, Option.some.injEq, h, decide_false, Bool.false_and]
    rw [groupsFrom, hq, List.cons_append, ih, List.flatMap_cons]

theorem groupsFrom_quad (bs : List Byte) :
    ∀ sent : List Byte, 2 ≤ sent.length → groupsFrom (0x57 :: sent) bs = bs.flatMap (byteGroups true) := by
  induction bs with
  | nil => exact fun _ _ => rfl
  | cons b bs ih =>
    intro sent hs
    have hq : quadIn (0x57 :: sent) = true := by simp [quadIn]; omega
    rw [groupsFrom, hq, List.cons_append, ih (sent ++ [b]) (by simp; omega), List.flatMap_cons]

/-- R135: the groups of a frame, byte by byte. -/
theorem groupsFrom_nil (bytes : List Byte) : groupsFrom [] bytes = bitGroups bytes := by
  have hquad : bitGroups bytes = if bytes.head? = some 0x57 then
      (bytes.take 3).flatMap (byteGroups false) ++ (bytes.drop 3).flatMap (byteGroups true)
    else bytes.flatMap (byteGroups false) := rfl
  rw [hquad]
  cases bytes with
  | nil => rfl
  | cons op fields =>
    have hfirst : groupsFrom [] (op :: fields) = byteGroups false op ++ groupsFrom [op] fields := rfl
    rw [hfirst]
    by_cases hop : op = 0x57
    · subst hop
      simp only [List.head?_cons, if_true]
      match fields with
      | [] => rfl
      | [a] => rfl
      | a :: c :: ds =>
        have hq : groupsFrom [0x57] (a :: c :: ds) =
            byteGroups false a ++ (byteGroups false c ++ groupsFrom [0x57, a, c] ds) := rfl
        rw [hq, groupsFrom_quad ds [a, c] (by simp)]
        simp
    · rw [groupsFrom_single hop, if_neg (by simpa using hop), List.flatMap_cons]

/-- The clocks of one byte. -/
theorem runEvents_listened (hl : Listens bytes f) (hc : (s.port p).csLow = true) (hf : (s.port p).frame = f)
    (hs : (s.port p).shift = []) (hb : List.Forall₂ carries clocks (byteGroups (quadIn bytes) b)) :
    runEvents p (clocks.map .clock) s = s.receiveByte p (bytes ++ [b]) :=
  runEvents_whole hl hc hf hs
    ((flatMap_sampled_of_carries hb fun _ h => byteGroups_length h).trans (byteGroups_flatten _ b))

end Sys2Proof.Machine
end


section
/-! Whole frames, short ones and unknown ones on the lines of a port (O10). -/

namespace Sys2Proof.Machine

variable {s t : State} {p : Port} {i : Instr} {b op : Byte} {bytes fields : List Byte} {f : FrameState}
  {clocks more : List (IoLines Bool)} {n k m : Nat} {after : AfterFixed}

/-! ### The part of a frame in which the port listens -/

theorem listens_receiving (hs : frameShape op = some (m, after)) (hn : fields.length < m) :
    Listens (op :: fields) (.receiving (op :: fields)) := by
  refine ⟨?_, .inl rfl⟩
  simp only [afterByte, hs, if_pos hn]

theorem listens_dataIn (hs : frameShape op = some (m, .dataIn)) (hn : ¬fields.length < m) :
    Listens (op :: fields) (.dataIn (op :: fields)) := by
  refine ⟨?_, .inr rfl⟩
  simp only [afterByte, hs, if_neg hn]

/-- The bytes of a frame to which the port listens throughout. -/
theorem runEvents_bytes (bs : List Byte) : ∀ (sent : List Byte) (f : FrameState) (clocks : List (IoLines Bool))
    (s : State), Listens sent f → (s.port p).csLow = true → (s.port p).frame = f → (s.port p).shift = [] →
    List.Forall₂ carries clocks (groupsFrom sent bs) →
    (∀ k, k ≤ bs.length → ∃ g, Listens (sent ++ bs.take k) g) →
    ∃ g, Listens (sent ++ bs) g ∧
      runEvents p (clocks.map .clock) s = .next (s.modifyPort p (fun q => { q with frame := g, shift := [] })) := by
  induction bs with
  | nil =>
    intro sent f clocks s hl _ hf hs hcarry _
    cases hcarry
    refine ⟨f, by simpa using hl, ?_⟩
    rw [State.modifyPort_eq_self (by rw [← hf, ← hs])]
    rfl
  | cons b bs ih =>
    intro sent f clocks s hl hc hf hs hcarry hall
    have hcut := List.take_append_drop (byteGroups (quadIn sent) b).length clocks
    have hhead := List.forall₂_take_append _ _ _ hcarry
    have htail := List.forall₂_drop_append _ _ _ hcarry
    obtain ⟨g, hg⟩ := hall 1 (by simp)
    have hbyte := runEvents_listened hl hc hf hs hhead
    have hnext : s.receiveByte p (sent ++ [b]) =
        .next (s.modifyPort p (fun q => { q with frame := g, shift := [] })) := by
      have hafter : afterByte (sent ++ [b]) = some g := hg.1
      simp only [State.receiveByte, hafter]
    obtain ⟨g', hg', hrest⟩ := ih (sent ++ [b]) g _ (s.modifyPort p (fun q => { q with frame := g, shift := [] }))
      (by simpa using hg) (by simpa using hc) (by simp) (by simp) htail (fun k hk => by
        obtain ⟨x, hx⟩ := hall (k + 1) (by simpa using hk)
        exact ⟨x, by simpa using hx⟩)
    refine ⟨g', by simpa using hg', ?_⟩
    rw [← hcut, List.map_append, runEvents_append (hbyte.trans hnext), hrest, State.modifyPort_modifyPort]

/-- The groups of a frame's last byte. -/
theorem bitGroups_concat (bytes : List Byte) (b : Byte) :
    bitGroups (bytes ++ [b]) = bitGroups bytes ++ byteGroups (quadIn bytes) b := by
  rw [← groupsFrom_nil, groupsFrom_append, groupsFrom_nil]
  simp [groupsFrom]

/-! ### Fall, clocks and rise -/

/-- A port in the midst of a frame that it listens to, or has listened to. -/
def State.inFrame (s : State) (p : Port) (g : FrameState) (x : List Bool) : State :=
  s.modifyPort p (fun q => { q with csLow := true, frame := g, shift := x })

theorem State.inFrame_port (s : State) (p : Port) (g : FrameState) (x : List Bool) :
    (s.inFrame p g x).port p = { s.port p with csLow := true, frame := g, shift := x } := State.port_modifyPort_self ..

/-- Chip-select falls on a DESELECTED port. -/
theorem pinFall_deselected (hf : (s.port p).frame = .deselected) (hc : (s.port p).csLow = false) :
    pinFall p s = s.inFrame p (.receiving []) [] := by
  unfold pinFall
  rw [if_neg (by simp [hc])]
  simp only [hf]
  rfl

/-- In TRAILING the clocks are ignored. -/
theorem runEvents_trailing (hf : (s.port p).frame = .trailing bytes) (more : List (IoLines Bool)) :
    runEvents p (more.map .clock) s = .next s := by
  induction more with
  | nil => rfl
  | cons io more ih =>
    have hclock : pinEvent p (.clock io) s = .next s := pinClock_trailing io hf
    rw [List.map_cons, runEvents_cons hclock, ih]

/-- A frame on the lines, from its fall to its rise. -/
theorem runEvents_frame {t u : State} (hsent : runEvents p (.fall :: clocks.map .clock) s = .next t)
    (hmore : runEvents p (more.map .clock) t = .next u) :
    runEvents p (.fall :: (clocks ++ more).map .clock ++ [.rise]) s = pinRise p u := by
  have hevents : PinEvent.fall :: (clocks ++ more).map .clock ++ [.rise] =
      (.fall :: clocks.map .clock) ++ (more.map .clock ++ [.rise]) := by simp
  rw [hevents, runEvents_append hsent, runEvents_append hmore, runEvents_singleton, pinEvent_rise]

section
variable (hf : (s.port p).frame = .deselected) (hc : (s.port p).csLow = false) (hs : (s.port p).shift = [])

include hf hc in
/-- A fall and the clocks of bytes to which the port listens throughout. -/
theorem runEvents_fall_listening (hcarry : List.Forall₂ carries clocks (bitGroups bytes))
    (hall : ∀ k, k ≤ bytes.length → ∃ g, Listens (bytes.take k) g) :
    ∃ g, Listens bytes g ∧ runEvents p (.fall :: clocks.map .clock) s = .next (s.inFrame p g []) := by
  rw [← groupsFrom_nil] at hcarry
  have hfall : pinEvent p .fall s = .next (s.inFrame p (.receiving []) []) :=
    congrArg Host.Outcome.next (pinFall_deselected hf hc)
  obtain ⟨g, hg, hrun⟩ := runEvents_bytes (p := p) bytes [] _ clocks (s.inFrame p (.receiving []) []) Listens.nil
    (by rw [State.inFrame_port]) (by rw [State.inFrame_port]) (by rw [State.inFrame_port]) hcarry (by simpa using hall)
  refine ⟨g, by simpa using hg, ?_⟩
  rw [runEvents_cons hfall, hrun, State.inFrame, State.modifyPort_modifyPort]
  rfl

include hf hc in
/-- A fall and the clocks of a frame's bytes, to the last of which the port need not listen on. -/
theorem runEvents_fall_bytes (hne : bytes ≠ []) (hcarry : List.Forall₂ carries clocks (bitGroups bytes))
    (hall : ∀ k, k < bytes.length → ∃ g, Listens (bytes.take k) g) :
    runEvents p (.fall :: clocks.map .clock) s =
      (s.modifyPort p (fun q => { q with csLow := true })).receiveByte p bytes := by
  obtain ⟨bs, b, rfl⟩ : ∃ bs b, bytes = bs ++ [b] := ⟨_, _, (List.dropLast_append_getLast hne).symm⟩
  rw [bitGroups_concat] at hcarry
  have hhead := List.forall₂_take_append _ _ _ hcarry
  have htail := List.forall₂_drop_append _ _ _ hcarry
  have hcut := List.take_append_drop (bitGroups bs).length clocks
  obtain ⟨g, hg, hrun⟩ := runEvents_fall_listening hf hc hhead fun k hk => by
    obtain ⟨g, hg⟩ := hall k (by simp; omega)
    exact ⟨g, by rwa [List.take_append_of_le_length hk] at hg⟩
  have hbyte := runEvents_listened (p := p) (s := s.inFrame p g []) hg (by rw [State.inFrame_port])
    (by rw [State.inFrame_port]) (by rw [State.inFrame_port]) htail
  have hlines : s.inFrame p g [] = (s.modifyPort p (fun q => { q with csLow := true })).modifyPort p
      (fun q => { q with frame := g, shift := [] }) := by
    rw [State.modifyPort_modifyPort]
    rfl
  rw [← hcut, List.map_append, ← List.cons_append, runEvents_append hrun, hbyte, hlines, State.receiveByte_lines]

/-- The last byte of a fixed part, or a byte of data. -/
theorem State.receiveByte_some {g : FrameState} (h : afterByte bytes = some g) :
    (s.modifyPort p (fun q => { q with csLow := true })).receiveByte p bytes = .next (s.inFrame p g []) := by
  simp only [State.receiveByte, h, State.modifyPort_modifyPort]
  rfl

include hf hs in
/-- R138: where an output phase begins, the frame acts with chip-select low. -/
theorem State.receiveByte_none (h : afterByte bytes = none) :
    (s.modifyPort p (fun q => { q with csLow := true })).receiveByte p bytes =
      runFirst (decodeFrame p ⟨bytes, 0⟩) (s.modifyPort p (fun q => { q with csLow := true, output := [] })) := by
  simp only [State.receiveByte, h, State.handOn, State.modifyPort_modifyPort]
  exact congrArg (runFirst _) (State.modifyPort_congr (by rw [← hf, ← hs]))

include hf hc hs in
/-- R138: the rise hands on what was received, to the state before the frame. -/
theorem pinRise_inFrame {g : FrameState} {x : List Bool}
    (hg : (g = .receiving bytes ∧ k = x.length) ∨ ((g = .trailing bytes ∨ g = .dataIn bytes) ∧ k = 0)) :
    pinRise p (s.inFrame p g x) = runFirst (decodeFrame p ⟨bytes, k⟩) s := by
  have hback : ((s.inFrame p g x).modifyPort p (fun q => { q with csLow := false, shift := [] })).modifyPort p
      (fun q => { q with frame := .deselected, shift := [] }) = s := by
    rw [State.inFrame, State.modifyPort_modifyPort, State.modifyPort_modifyPort]
    exact State.modifyPort_eq_self (by rw [← hf, ← hs, ← hc])
  unfold pinRise
  rw [if_pos (by rw [State.inFrame_port])]
  have hframe : ((s.inFrame p g x).port p).frame = g := by rw [State.inFrame_port]
  have hshift : ((s.inFrame p g x).port p).shift = x := by rw [State.inFrame_port]
  rcases hg with ⟨rfl, rfl⟩ | ⟨rfl | rfl, rfl⟩
  all_goals simp only [hframe, hshift, State.handOn, hback]

end

end Sys2Proof.Machine
end


section
/-! The frames of the commands, bit by bit (O10). -/

namespace Sys2Proof.Machine

variable {s t : State} {p : Port} {i : Instr} {b op : Byte} {bytes fields : List Byte} {f : FrameState}
  {clocks more : List (IoLines Bool)} {n k m : Nat} {after : AfterFixed}

/-! ### The shapes of the frames (R138, R187) -/

/-- A frame whose fixed part ends with its last byte. -/
def FixedFrame (bytes : List Byte) (ends : AfterFixed → Prop) : Prop :=
  ∃ op fields after, bytes = op :: fields ∧ frameShape op = some (fields.length, after) ∧ ends after

/-- A frame of a LOAD. -/
def LoadFrame (bytes : List Byte) : Prop :=
  ∃ op fields, bytes = op :: fields ∧ frameShape op = some (3, .dataIn) ∧ 3 ≤ fields.length

/-- A frame of an unknown opcode. -/
def UnknownFrame (bytes : List Byte) : Prop := ∃ op, bytes = [op] ∧ frameShape op = none

theorem loadFields_length {h o : Byte} {data : List Byte} (hd : loadWellFormed data = true) :
    3 ≤ (h :: o :: data).length := by
  cases data with
  | nil => cases hd
  | cons d ds => simp

theorem encodeFrame_takenBy (hw : i.wellFormed = true) (h : encodeFrame i = some (p, bytes)) (ht : i.takenBy = some p) :
    (i.isLoad = true ∧ LoadFrame bytes) ∨ (i.isLoad = false ∧ FixedFrame bytes (fun a => a = .trailing)) ∨
      (i.isLoad = false ∧ UnknownFrame bytes) := by
  unfold Instr.takenBy at ht
  split at ht <;> cases ht
  case h_1 | h_2 =>
    cases h
    exact .inl ⟨rfl, _, _, rfl, rfl, loadFields_length hw⟩
  case h_21 => cases h
  case h_22 op =>
    cases h
    have hop : op ∉ commandOpcodes := by simpa [Instr.wellFormed] using hw
    exact .inr (.inr ⟨rfl, _, rfl, frameShape_of_not_mem hop⟩)
  all_goals
    cases h
    exact .inr (.inl ⟨rfl, _, _, _, rfl, rfl, rfl⟩)

theorem encodeFrame_opens (h : encodeFrame i = some (p, bytes))
    (ho : i.outputOpens = some p ∨ i = .readStatus p (.fixed ())) :
    FixedFrame bytes (fun a => a = .dataOut ∨ a = .stream) := by
  rcases ho with ho | rfl
  · unfold Instr.outputOpens at ho
    split at ho <;> cases ho <;> cases h
    all_goals exact ⟨_, _, _, rfl, rfl, by decide⟩
  · cases h
    exact ⟨_, _, _, rfl, rfl, by decide⟩

theorem FixedFrame.listens {ends : AfterFixed → Prop} (h : FixedFrame bytes ends) (hk : k < bytes.length) :
    ∃ g, Listens (bytes.take k) g := by
  obtain ⟨op, fields, after, rfl, hshape, -⟩ := h
  cases k with
  | zero => exact ⟨_, Listens.nil⟩
  | succ k => exact ⟨_, listens_receiving hshape (by simp at hk ⊢; omega)⟩

theorem LoadFrame.listens (h : LoadFrame bytes) (k : Nat) : ∃ g, Listens (bytes.take k) g := by
  obtain ⟨op, fields, rfl, hshape, -⟩ := h
  cases k with
  | zero => exact ⟨_, Listens.nil⟩
  | succ k =>
    by_cases hlt : (fields.take k).length < 3
    · exact ⟨_, listens_receiving hshape hlt⟩
    · exact ⟨_, listens_dataIn hshape hlt⟩

theorem UnknownFrame.listens (h : UnknownFrame bytes) (hk : k < bytes.length) : ∃ g, Listens (bytes.take k) g := by
  obtain ⟨op, rfl, -⟩ := h
  cases k with
  | zero => exact ⟨_, Listens.nil⟩
  | succ k => simp at hk

theorem FixedFrame.afterByte_trailing (h : FixedFrame bytes (fun a => a = .trailing)) :
    afterByte bytes = some (.trailing bytes) := by
  obtain ⟨op, fields, after, rfl, hshape, rfl⟩ := h
  simp [afterByte, hshape]

theorem FixedFrame.afterByte_none (h : FixedFrame bytes (fun a => a = .dataOut ∨ a = .stream)) :
    afterByte bytes = none := by
  obtain ⟨op, fields, after, rfl, hshape, rfl | rfl⟩ := h <;> simp [afterByte, hshape]

theorem UnknownFrame.afterByte_trailing (h : UnknownFrame bytes) : afterByte bytes = some (.trailing bytes) := by
  obtain ⟨op, rfl, hshape⟩ := h
  simp [afterByte, hshape]

theorem LoadFrame.listens_data (h : LoadFrame bytes) : Listens bytes (.dataIn bytes) := by
  obtain ⟨op, fields, rfl, hshape, hlen⟩ := h
  exact listens_dataIn hshape (by omega)

/-- R187: the data of LOAD BUFFER QUAD come four bits at a time. -/
theorem LoadFrame.quadIn_iff (h : LoadFrame bytes) : quadIn bytes = true ↔ bytes.head? = some 0x57 := by
  obtain ⟨op, fields, rfl, -, hlen⟩ := h
  simp only [quadIn, Bool.and_eq_true, decide_eq_true_eq, List.length_cons, and_iff_left_iff_imp]
  omega

theorem runFirst_head {rows : List Instr} (h : rows.head? = some i) (s : State) : runFirst rows s = exec i s := by
  obtain ⟨rest, rfl⟩ := List.head?_eq_some_iff.1 h
  rfl

theorem fixedFrame_ne_nil {ends : AfterFixed → Prop} (h : FixedFrame bytes ends) : bytes ≠ [] := by
  obtain ⟨op, fields, after, rfl, -⟩ := h
  exact List.cons_ne_nil _ _

section
variable (hf : (s.port p).frame = .deselected) (hc : (s.port p).csLow = false) (hs : (s.port p).shift = [])
include hf hc hs

/-! ### Whole frames -/

/-- A frame that is decided at its rise, and whatever follows its last byte. -/
theorem runEvents_trailingFrame (hne : bytes ≠ []) (hcarry : List.Forall₂ carries clocks (bitGroups bytes))
    (hall : ∀ k, k < bytes.length → ∃ g, Listens (bytes.take k) g) (hafter : afterByte bytes = some (.trailing bytes))
    (hi : (decodeFrame p ⟨bytes, 0⟩).head? = some i) (more : List (IoLines Bool)) :
    runEvents p (.fall :: (clocks ++ more).map .clock ++ [.rise]) s = exec i s := by
  have hsent := (runEvents_fall_bytes hf hc hne hcarry hall).trans (State.receiveByte_some hafter)
  have hmore := runEvents_trailing (p := p) (s := s.inFrame p (.trailing bytes) []) (bytes := bytes)
    (by rw [State.inFrame_port]) more
  rw [runEvents_frame hsent hmore, pinRise_inFrame hf hc hs (.inr ⟨.inl rfl, rfl⟩), runFirst_head hi]

omit hf hc hs in
/-- Bits that make no whole byte, after bytes to which the port listened throughout. -/
theorem runEvents_more {g : FrameState} (hg : Listens bytes g)
    (hmore : more.length * (if quadIn bytes then 4 else 1) < 8) :
    runEvents p (more.map .clock) (s.inFrame p g []) =
      .next (s.inFrame p g (more.flatMap (sampled (quadIn bytes)))) := by
  rw [runEvents_partial hg more (s.inFrame p g []) (by rw [State.inFrame_port]) (by rw [State.inFrame_port])
    (by rw [State.inFrame_port, flatMap_sampled_length, List.length_nil]; omega), State.inFrame,
    State.modifyPort_modifyPort]
  rfl

/-- The frame of a LOAD, and bits after it that make no whole byte. -/
theorem runEvents_loadFrame (hload : LoadFrame bytes) (hcarry : List.Forall₂ carries clocks (bitGroups bytes))
    (hi : (decodeFrame p ⟨bytes, 0⟩).head? = some i)
    (hmore : more.length < if bytes.head? = some 0x57 then 2 else 8) :
    runEvents p (.fall :: (clocks ++ more).map .clock ++ [.rise]) s = exec i s := by
  have hdata := hload.listens_data
  have hne : bytes ≠ [] := by
    rintro rfl
    obtain ⟨op, fields, h, -⟩ := hload
    cases h
  have hsent := (runEvents_fall_bytes hf hc hne hcarry fun k _ => hload.listens k).trans (State.receiveByte_some hdata.1)
  have hfew : more.length * (if quadIn bytes then 4 else 1) < 8 := by
    simp only [hload.quadIn_iff]
    split at hmore
    · next h => rw [if_pos h]; omega
    · next h => rw [if_neg h]; omega
  rw [runEvents_frame hsent (runEvents_more hdata hfew), pinRise_inFrame hf hc hs (.inr ⟨.inr rfl, rfl⟩),
    runFirst_head hi]

/-- R138, R141: a taken command does what its row does. -/
theorem runEvents_taken (hw : i.wellFormed = true) (h : encodeFrame i = some (p, bytes)) (ht : i.takenBy = some p)
    (hcarry : List.Forall₂ carries clocks (bitGroups bytes))
    (hmore : i.isLoad = true → more.length < if bytes.head? = some 0x57 then 2 else 8) :
    runEvents p (.fall :: (clocks ++ more).map .clock ++ [.rise]) s = exec i s := by
  rcases encodeFrame_takenBy hw h ht with ⟨hl, hframe⟩ | ⟨hl, hframe⟩ | ⟨hl, hframe⟩
  · exact runEvents_loadFrame hf hc hs hframe hcarry (decodeFrame_load hw hl h 0) (hmore hl)
  · have hi := decodeFrame_encodeFrame hw hl h [] 0
    rw [List.append_nil] at hi
    exact runEvents_trailingFrame hf hc hs (fixedFrame_ne_nil hframe) hcarry (fun k hk => hframe.listens hk)
      hframe.afterByte_trailing hi more
  · have hi := decodeFrame_encodeFrame hw hl h [] 0
    rw [List.append_nil] at hi
    have hne : bytes ≠ [] := by
      obtain ⟨op, rfl, -⟩ := hframe
      exact List.cons_ne_nil _ _
    exact runEvents_trailingFrame hf hc hs hne hcarry (fun k hk => hframe.listens hk) hframe.afterByte_trailing hi more

/-- R138: a command with an output phase acts after the last bit of its fixed part. -/
theorem runEvents_opens (hw : i.wellFormed = true) (h : encodeFrame i = some (p, bytes))
    (ho : i.outputOpens = some p ∨ i = .readStatus p (.fixed ()))
    (hcarry : List.Forall₂ carries clocks (bitGroups bytes)) :
    runEvents p (.fall :: clocks.map .clock) s =
      exec i (s.modifyPort p (fun q => { q with csLow := true, output := [] })) := by
  have hframe := encodeFrame_opens h ho
  have hl : i.isLoad = false := by
    rcases ho with ho | rfl
    · cases i with
      | loadBuffer r handle offset data | loadBufferQuad r handle offset data => cases ho
      | _ => rfl
    · rfl
  have hi := decodeFrame_encodeFrame hw hl h [] 0
  rw [List.append_nil] at hi
  rw [runEvents_fall_bytes hf hc (fixedFrame_ne_nil hframe) hcarry fun k hk => hframe.listens hk,
    State.receiveByte_none hf hs hframe.afterByte_none, runFirst_head hi]

/-! ### Frames with no command -/

/-- R140, R142: a frame that ends inside its fixed part. -/
theorem runEvents_shortFrame (hshape : frameShape op = some (m, after)) (hlen : fields.length < m)
    (hcarry : List.Forall₂ carries clocks (bitGroups (op :: fields)))
    (hmore : more.length * (if op = 0x57 ∧ fields.length = 2 then 4 else 1) < 8) :
    runEvents p (.fall :: (clocks ++ more).map .clock ++ [.rise]) s =
      exec (if after = .stream ∨ op = 0x9A then .inquiryDropped p
        else .frameEndsShort p
          (8 * (fields.length + 1) + more.length * (if op = 0x57 ∧ fields.length = 2 then 4 else 1))) s := by
  have hlistens : ∀ k, k ≤ (op :: fields).length → ∃ g, Listens ((op :: fields).take k) g := fun k _ => by
    cases k with
    | zero => exact ⟨_, Listens.nil⟩
    | succ k => exact ⟨_, listens_receiving hshape (by simp; omega)⟩
  have hthree : op = 0x57 → m = 3 := by
    rintro rfl
    cases hshape
    rfl
  have hquad : quadIn (op :: fields) = true ↔ op = 0x57 ∧ fields.length = 2 := by
    simp only [quadIn, Bool.and_eq_true, decide_eq_true_eq, List.head?_cons, Option.some.injEq, List.length_cons]
    refine and_congr_right fun hop => ?_
    have := hthree hop
    omega
  have hlisten := listens_receiving hshape hlen
  obtain ⟨g, hg, hsent⟩ := runEvents_fall_listening hf hc hcarry hlistens
  obtain rfl : FrameState.receiving (op :: fields) = g := Option.some.inj (hlisten.1.symm.trans hg.1)
  have hrun := runEvents_more (s := s) (p := p) (more := more) hg (by simpa only [hquad] using hmore)
  have hbits := flatMap_sampled_length (quadIn (op :: fields)) more
  simp only [hquad] at hbits
  rw [runEvents_frame hsent hrun, pinRise_inFrame hf hc hs (.inl ⟨rfl, rfl⟩), hbits]
  have hrows := decodeCommand_short (p := p) (short := [.frameEndsShort p
    (8 * (op :: fields).length + more.length * (if op = 0x57 ∧ fields.length = 2 then 4 else 1))]) hshape hlen
  refine runFirst_head ?_ s
  refine (congrArg List.head? hrows).trans ?_
  split <;> rfl

/-- A fall, a few clocks and a rise: no opcode. -/
theorem runEvents_fewBits (hmore : more.length < 8) :
    runEvents p (.fall :: ([] ++ more).map .clock ++ [.rise]) s =
      runFirst (decodeFrame p ⟨[], more.length⟩) s := by
  have hsent : runEvents p (.fall :: ([] : List (IoLines Bool)).map .clock) s =
      .next (s.inFrame p (.receiving []) []) := by
    rw [List.map_nil, runEvents_singleton, pinEvent_fall, pinFall_deselected hf hc]
  have hrun := runEvents_more (s := s) (p := p) (more := more) Listens.nil (by simpa [quadIn] using hmore)
  rw [runEvents_frame hsent hrun, pinRise_inFrame hf hc hs (.inl ⟨rfl, rfl⟩), flatMap_sampled_length]
  simp [quadIn]

theorem runEvents_unknownFrame (hshape : frameShape op = none)
    (hcarry : List.Forall₂ carries clocks (bitGroups [op])) (more : List (IoLines Bool)) :
    runEvents p (.fall :: (clocks ++ more).map .clock ++ [.rise]) s = exec (.unknownOpcode p op) s := by
  have hframe : UnknownFrame [op] := ⟨op, rfl, hshape⟩
  have hop : op ∉ commandOpcodes := fun h => mem_commandOpcodes_iff.1 h hshape
  exact runEvents_trailingFrame hf hc hs (List.cons_ne_nil _ _) hcarry (fun k hk => hframe.listens hk)
    hframe.afterByte_trailing (congrArg List.head? (decodeCommand_unknown hop)) more

end

/-- Settles O10: the port listens byte by byte up to the last one of the fixed part, and its rise hands on the row. -/
theorem linesCarryFrames : Obligations.LinesCarryFrames := by
  refine ⟨fun i p bytes clocks s hw h hf hc hs hcarry => ⟨fun ht more hmore => ?_, fun ho => ?_⟩,
    fun p more s hf hc hs => ⟨?_, fun hpos hlt => ?_, fun op fields m after clocks hshape hlen hcarry => ?_,
      fun op clocks hshape hcarry => ?_⟩, pinEvent_next⟩
  · exact runEvents_taken hf hc hs hw h ht hcarry hmore
  · exact runEvents_opens hf hc hs hw h ho hcarry
  · rintro rfl
    exact runEvents_fewBits (more := []) hf hc hs (by simp)
  · refine (runEvents_fewBits hf hc hs hlt).trans (runFirst_head ?_ s)
    exact congrArg List.head? (if_neg (Nat.pos_iff_ne_zero.1 hpos))
  · exact runEvents_shortFrame hf hc hs hshape hlen hcarry
  · exact runEvents_unknownFrame hf hc hs hshape hcarry more

end Sys2Proof.Machine
end


section
/-! A read stream clocked byte by byte (O11): the bytes before the next re-check point count down, the clocks of several
bytes are those of one and then of the others, and the lines of the port have no part in it. -/

namespace Sys2Proof.Machine

variable {s t : State} {p : Port} {st : ReadStream} {n d : Nat} {a : Addr} {quad : Bool}

/-! ### The lines of the port and the stream -/

/-- Chip-select and the bits of the byte in progress, set. -/
def State.onLines (s : State) (p : Port) (low : Bool) (bits : List Bool) : State :=
  s.modifyPort p (fun q => { q with csLow := low, shift := bits })

variable (low : Bool) (bits : List Bool)

theorem State.requestSuspend_modifyPort (s : State) (p : Port) (f : PortState → PortState) (w : Nat) :
    (s.modifyPort p f).requestSuspend w = (s.requestSuspend w).modifyPort p f := by
  have hactive : (s.modifyPort p f).activeIndex = s.activeIndex := rfl
  unfold State.requestSuspend State.orderSuspend
  rw [hactive]
  cases s.activeIndex <;> rfl

theorem State.startEntry_modifyPort (s : State) (p : Port) (f : PortState → PortState) (i : Nat) :
    (s.modifyPort p f).startEntry i = (s.startEntry i).modifyPort p f := by
  have hdrain : ∀ r, (s.modifyPort p f).drainUp r = (s.drainUp r).modifyPort p f := fun _ => rfl
  have hwrite : (s.modifyPort p f).beginSlotWrite = s.beginSlotWrite.modifyPort p f := by
    have hslot : (s.modifyPort p f).commitSlot = s.commitSlot := rfl
    unfold State.beginSlotWrite
    rw [hslot]
    cases s.commitSlot <;> rfl
  cases he : s.queue[i]? with
  | none => simp only [State.startEntry, State.modifyPort_queue, he]
  | some e =>
    rw [State.startEntry_eq he, State.startEntry_eq (s := s.modifyPort p f) he]
    cases e.region with
    | none => cases e.kind <;> simp only [hwrite, reduceCtorEq, if_true, if_false] <;> rfl
    | some r => cases e.kind <;> simp only [hwrite, hdrain, reduceCtorEq, if_true, if_false] <;> rfl

/-- A look takes no part of a port. -/
theorem State.look_modifyPort (s : State) (p : Port) (f : PortState → PortState) :
    (s.modifyPort p f).look = s.look.modifyPort p f := by
  have hany : (s.modifyPort p f).selectAny = s.selectAny := rfl
  have hover : (s.modifyPort p f).selectOver = s.selectOver := rfl
  have hpress : (s.modifyPort p f).pressureTest = s.pressureTest := rfl
  have hresume : (s.modifyPort p f).resumeTest = s.resumeTest := rfl
  have hactive : (s.modifyPort p f).activeIndex = s.activeIndex := rfl
  have hparked : (s.modifyPort p f).parkedIndex = s.parkedIndex := rfl
  unfold State.look
  rw [State.modifyPort_engine]
  cases s.engine with
  | idle =>
    simp only [hany]
    cases s.selectAny with
    | none => rfl
    | some i => exact s.startEntry_modifyPort p f i
  | busy =>
    simp only [hpress, State.orderSuspend, hactive]
    split
    · cases s.activeIndex <;> rfl
    · rfl
  | parked =>
    simp only [hover]
    cases s.selectOver with
    | some i => exact s.startEntry_modifyPort p f i
    | none =>
      simp only [hresume, State.resumeErase, hparked]
      split
      · cases s.parkedIndex <;> rfl
      · rfl
  | suspending | busyParked => rfl

theorem State.onLines_frame (s : State) (p : Port) : ((s.onLines p low bits).port p).frame = (s.port p).frame := by
  rw [State.onLines, State.port_modifyPort_self]

theorem State.checkStream_onLines (s : State) (p : Port) (st : ReadStream) :
    (s.onLines p low bits).checkStream p st = (s.checkStream p st).onLines p low bits := by
  have hdenied : (s.onLines p low bits).readDenied p st.current = s.readDenied p st.current := rfl
  have hconflict : (s.onLines p low bits).readConflict st.current = s.readConflict st.current := rfl
  have hprofile : ((s.onLines p low bits).port p).profile = (s.port p).profile := by
    rw [State.onLines, State.port_modifyPort_self]
  have hraises : (s.onLines p low bits).raisesRequest p st.current = s.raisesRequest p st.current :=
    State.raisesRequest_congr rfl rfl hprofile
  have hfill : (s.onLines p low bits).modifyPort p (PortState.conflicting st) =
      (s.modifyPort p (PortState.conflicting st)).onLines p low bits := by
    simp only [State.onLines, State.modifyPort_modifyPort, PortState.conflicting]
  cases hd : s.readDenied p st.current with
  | true =>
    rw [State.checkStream_denied s p st hd, State.checkStream_denied _ p st (hdenied.trans hd)]
    simp only [State.onLines, State.modifyPort_modifyPort, PortState.denied]
  | false =>
    cases hc : s.readConflict st.current with
    | false =>
      rw [State.checkStream_pass s p st hd hc, State.checkStream_pass _ p st (hdenied.trans hd) (hconflict.trans hc)]
      have hhold : (s.onLines p low bits).holdBank (bankOf st.current) =
        (s.holdBank (bankOf st.current)).onLines p low bits := rfl
      rw [hhold]
      simp only [State.onLines, State.modifyPort_modifyPort]
    | true =>
      simp only [State.checkStream, hdenied, hconflict, hd, hc, Bool.false_eq_true, if_false, if_true,
        State.conflictStream, State.conflictFill_eq, hraises, hprofile, hfill]
      split
      · exact State.requestSuspend_modifyPort ..
      · rfl

theorem State.clockOut_onLines (s : State) (p : Port) (st : ReadStream) (d : Nat) :
    (s.onLines p low bits).clockOut p st d = (s.clockOut p st d).onLines p low bits := by
  have hbytes : (s.onLines p low bits).streamBytes st d = s.streamBytes st d := rfl
  have hout : (s.onLines p low bits).modifyPort p (fun q =>
      { q with frame := .readStream (st.advance d), output := q.output ++ s.streamBytes st d }) =
      (s.modifyPort p (fun q =>
        { q with frame := .readStream (st.advance d), output := q.output ++ s.streamBytes st d })).onLines p low bits := by
    simp only [State.onLines, State.modifyPort_modifyPort]
  unfold State.clockOut
  rw [hbytes, hout]
  rfl

theorem State.recheckStream_onLines (s : State) (p : Port) (st : ReadStream) :
    (s.onLines p low bits).recheckStream p st = (s.recheckStream p st).onLines p low bits := by
  have hdenied : (s.onLines p low bits).readDenied p st.current = s.readDenied p st.current := rfl
  have hconflict : (s.onLines p low bits).readConflict st.current = s.readConflict st.current := rfl
  unfold State.recheckStream
  cases st.held with
  | none => exact State.checkStream_onLines ..
  | some k =>
    simp only [hdenied, hconflict]
    split
    · simp only [State.onLines, State.setFrame, State.modifyPort_modifyPort]
    · have hrelease : (s.onLines p low bits).releaseBank k = (s.releaseBank k).onLines p low bits := rfl
      rw [hrelease, State.checkStream_onLines]
      exact State.look_modifyPort ..

theorem State.walkStream_onLines (s : State) (p : Port) (st : ReadStream) (d : Nat) :
    (s.onLines p low bits).walkStream p st d = (s.walkStream p st d).onLines p low bits := by
  unfold State.walkStream
  cases st.fill with
  | some b => exact State.clockOut_onLines ..
  | none =>
    simp only
    rw [State.clockOut_onLines]
    exact State.recheckStream_onLines ..

/-- The lines of the port have no part in what a stream delivers. -/
theorem State.clockBytes_onLines (p : Port) (fuel : Nat) : ∀ (n : Nat) (s : State),
    (s.onLines p low bits).clockBytes p fuel n = (s.clockBytes p fuel n).onLines p low bits := by
  induction fuel with
  | zero => exact fun _ _ => rfl
  | succ fuel ih =>
    intro n s
    have hrecheck : ∀ a, (s.onLines p low bits).bytesToRecheck a = s.bytesToRecheck a := fun _ => rfl
    unfold State.clockBytes
    rw [State.onLines_frame]
    split
    · simp only [hrecheck]
      split
      · exact State.clockOut_onLines ..
      · split
        · exact State.walkStream_onLines ..
        · rw [State.walkStream_onLines]
          exact ih _ _
    · rfl

end Sys2Proof.Machine
end


section
/-! A read stream clocked byte by byte (O11): the bytes before the next re-check point count down, and the clocks of several
bytes are those of one and then of the others. -/

namespace Sys2Proof.Machine

variable {s t : State} {p : Port} {st : ReadStream} {n d : Nat} {a : Addr} {quad : Bool}

/-! ### The way to the next re-check point (R11) -/

theorem addr_succ_toNat (a : Addr) : (a + 1).toNat = (a.toNat + 1) % 16777216 := by
  rw [BitVec.toNat_add]
  rfl

theorem bytesToBlockEnd_succ (h : 1 < bytesToBlockEnd a) : bytesToBlockEnd (a + 1) = bytesToBlockEnd a - 1 := by
  have hlt : a.toNat < 16777216 := a.isLt
  unfold bytesToBlockEnd Config.blockBytes at h ⊢
  rw [addr_succ_toNat]
  omega

theorem bytesToBlockEnd_le (a : Addr) : bytesToBlockEnd a ≤ 65536 := by
  unfold bytesToBlockEnd Config.blockBytes
  omega

theorem State.bytesToTarget_none (h : s.parkedTarget = none) (a : Addr) : s.bytesToTarget a = none := by
  simp only [State.bytesToTarget, h]

theorem State.bytesToTarget_parked {x : Target} (h : s.parkedTarget = some x) (a : Addr) : s.bytesToTarget a =
    if 0 < (x.first + 16777216 - a.toNat) % 16777216 then some ((x.first + 16777216 - a.toNat) % 16777216) else none := by
  simp only [State.bytesToTarget, h]
  rfl

/-- A byte that brings no check brings the next re-check point one byte nearer. -/
theorem State.bytesToRecheck_succ (h : 1 < s.bytesToRecheck a) :
    s.bytesToRecheck (a + 1) = s.bytesToRecheck a - 1 := by
  have hlt : a.toNat < 16777216 := a.isLt
  have hsucc := addr_succ_toNat a
  have hend := bytesToBlockEnd_le a
  cases hx : s.parkedTarget with
  | none =>
    simp only [State.bytesToRecheck, State.bytesToTarget_none hx] at h ⊢
    exact bytesToBlockEnd_succ h
  | some x =>
    simp only [State.bytesToRecheck, State.bytesToTarget_parked hx] at h ⊢
    have hblock : 1 < bytesToBlockEnd a := by
      split at h
      · exact lt_of_lt_of_le h (min_le_right _ _)
      · exact h
    rw [bytesToBlockEnd_succ hblock, hsucc]
    by_cases hd : 0 < (x.first + 16777216 - a.toNat) % 16777216
    · simp only [if_pos hd] at h ⊢
      rw [if_pos (by omega)]
      simp only
      omega
    · simp only [if_neg hd] at h ⊢
      rw [if_pos (by omega)]
      simp only
      omega

/-! ### One byte and then the others -/

theorem ReadStream.advance_advance (st : ReadStream) (m n : Nat) : (st.advance m).advance n = st.advance (m + n) := by
  simp [ReadStream.advance, BitVec.add_assoc, BitVec.ofNat_add]

theorem State.streamBytes_length (s : State) (st : ReadStream) (d : Nat) : (s.streamBytes st d).length = d := by
  unfold State.streamBytes
  split <;> simp

/-- The bytes of a run and those after it. -/
theorem State.streamBytes_add (s : State) (st : ReadStream) (m n : Nat) :
    s.streamBytes st m ++ (s.clockOut p st m).streamBytes (st.advance m) n = s.streamBytes st (m + n) := by
  cases hfill : st.fill with
  | some b => simp only [State.streamBytes, ReadStream.advance, hfill, List.replicate_append_replicate]
  | none =>
    have hbyte : ∀ a k, (s.clockOut p st m).arrayByte a k = s.arrayByte a k := fun _ _ => rfl
    have hfree : (s.clockOut p st m).freeIndex = s.freeIndex + m := by simp [State.clockOut, hfill]
    simp only [State.streamBytes, ReadStream.advance, hfill, hbyte, hfree, List.range_add, List.map_append, List.map_map]
    refine congrArg _ (List.map_congr_left fun i _ => ?_)
    simp [Function.comp, BitVec.add_assoc, BitVec.ofNat_add, Nat.add_assoc]

theorem State.clockOut_clockOut (s : State) (p : Port) (st : ReadStream) (m n : Nat) :
    (s.clockOut p st m).clockOut p (st.advance m) n = s.clockOut p st (m + n) := by
  have hbytes := s.streamBytes_add (p := p) st m n
  have hfill : (st.advance m).fill = st.fill := rfl
  generalize hout : (s.clockOut p st m).streamBytes (st.advance m) n = out at hbytes
  unfold State.clockOut at hout ⊢
  rw [hout, hfill, ← hbytes]
  simp only [State.modifyPort, PerPort.set_set, PerPort.get_set_self, ReadStream.advance_advance, List.append_assoc]
  split <;> simp [Nat.add_assoc]

theorem State.clockOut_walkStream (hfill : st.fill = none) (m n : Nat) :
    (s.clockOut p st m).walkStream p (st.advance m) n = s.walkStream p st (m + n) := by
  have hfill' : (st.advance m).fill = none := hfill
  simp only [State.walkStream, hfill, hfill', State.clockOut_clockOut, ReadStream.advance_advance]

/-- The clocks of a byte and then of n more are those of n + 1. -/
theorem State.clockBytes_succ (hf : (s.port p).frame = .readStream st) (n : Nat) :
    s.clockBytes p (n + 1) (n + 1) = (s.clockBytes p 1 1).clockBytes p n n := by
  have hone : (s.clockOut p st 1).bytesToRecheck (st.advance 1).current = s.bytesToRecheck (st.current + 1) := rfl
  have hframe := s.clockOut_frame p st 1
  by_cases hfill : st.fill.isSome = true
  · rw [State.clockBytes_clockOut hf (.inl hfill), State.clockBytes_clockOut hf (.inl hfill),
      State.clockBytes_clockOut hframe (.inl hfill), State.clockOut_clockOut, Nat.add_comm]
  · have hnone : st.fill = none := by simpa using hfill
    have hpos := s.bytesToRecheck_pos st.current
    by_cases hlast : s.bytesToRecheck st.current = 1
    · rw [State.clockBytes_past hf hnone (by omega), hlast, State.clockBytes_walkStream hf hnone hlast,
        Nat.add_sub_cancel]
    · have hnext := State.bytesToRecheck_succ (s := s) (a := st.current) (by omega)
      rw [State.clockBytes_clockOut hf (n := 1) (.inr (by omega))]
      by_cases hn : n + 1 < s.bytesToRecheck st.current
      · rw [State.clockBytes_clockOut hf (.inr hn), State.clockBytes_clockOut hframe (.inr (by rw [hone]; omega)),
          State.clockOut_clockOut, Nat.add_comm]
      · rw [State.clockBytes_past hf hnone (by omega), State.clockBytes_past hframe hnone (by rw [hone]; omega), hone,
          hnext, State.clockOut_walkStream hnone, Nat.add_sub_of_le (by omega)]
        congr 1 <;> omega

/-- A stream stays one, on the same lines, whatever it delivers. -/
theorem State.clockBytes_frame (hf : (s.port p).frame = .readStream st) (fuel n : Nat) :
    ∃ st', ((s.clockBytes p fuel n).port p).frame = .readStream st' ∧ st'.quad = st.quad := by
  refine State.clockBytes_keeps (P := fun u => ∃ st', (u.port p).frame = .readStream st' ∧ st'.quad = st.quad)
    (fun u st' d hu h => ?_) (fun u st' d hu h => ?_) fuel n s ⟨st, hf, rfl⟩
  · obtain ⟨x, hx, hquad⟩ := h
    obtain rfl : st' = x := FrameState.readStream.inj (hu.symm.trans hx)
    exact ⟨_, u.clockOut_frame p st' d, hquad⟩
  · obtain ⟨x, hx, hquad⟩ := h
    obtain rfl : st' = x := FrameState.readStream.inj (hu.symm.trans hx)
    obtain ⟨y, hy, hy'⟩ := u.walkStream_frame p st' d
    exact ⟨y, hy, hy'.trans hquad⟩

/-- A stream's bytes leave chip-select and the bits in progress as they are. -/
theorem State.clockBytes_lines (s : State) (p : Port) (fuel n : Nat) :
    ((s.clockBytes p fuel n).port p).csLow = (s.port p).csLow ∧ ((s.clockBytes p fuel n).port p).shift = (s.port p).shift := by
  have hself : s.onLines p (s.port p).csLow (s.port p).shift = s := State.modifyPort_eq_self rfl
  have h := State.clockBytes_onLines (s.port p).csLow (s.port p).shift p fuel n s
  rw [hself] at h
  rw [h, State.onLines, State.port_modifyPort_self]
  exact ⟨rfl, rfl⟩

end Sys2Proof.Machine
end


section
/-! Output phases bit by bit (O11): the byte that a port delivers, the levels it drives, the delivery of a byte, and the
clocks and the rise of a whole frame. -/

namespace Sys2Proof.Machine

variable {s t : State} {p : Port} {i : Instr} {st : ReadStream} {v : View} {b : Byte} {k n : Nat}
  {clocks more : List (IoLines Bool)}

/-! ### The byte that a port delivers -/

theorem State.byteOut_dataOut (hf : (s.port p).frame = .dataOut v) :
    s.byteOut p = some ((viewBytes v).getD (s.port p).output.length 0) := by
  simp only [State.byteOut, hf]

theorem State.byteOut_bufferStream {st : BufferStream} (hf : (s.port p).frame = .bufferStream st) : s.byteOut p =
    some ((s.bufferBytes st ((s.port p).output.length + 1)).getD (s.port p).output.length 0) := by
  simp only [State.byteOut, hf]

theorem State.byteOut_readStream (hf : (s.port p).frame = .readStream st) :
    s.byteOut p = some ((s.streamBytes st 1).getD 0 0) := by
  simp only [State.byteOut, hf]

theorem State.streamBytes_one (s : State) (st : ReadStream) :
    (s.streamBytes st 1).getD 0 0 = match st.fill with
      | some b => b
      | none => s.arrayByte st.current s.freeIndex := by
  unfold State.streamBytes
  cases st.fill with
  | some b => rfl
  | none => simp

theorem State.byteOut_unmapped {o : Byte} (hf : (s.port p).frame = .bufferStream ⟨none, o⟩) : s.byteOut p = some 0 := by
  rw [State.byteOut_bufferStream hf]
  simp [State.bufferBytes]

theorem State.byteOut_mapped {o : Byte} {c : Nat} {u : Buffer} (hf : (s.port p).frame = .bufferStream ⟨some c, o⟩)
    (hu : s.buffers[c]? = some u) (hlen : u.data.length = 256) :
    s.byteOut p = u.data[(o.toNat + (s.port p).output.length) % 256]? := by
  rw [State.byteOut_bufferStream hf]
  have hlt : (o.toNat + (s.port p).output.length) % 256 < u.data.length := by omega
  simp [State.bufferBytes, hu, List.getD_eq_getElem?_getD, List.getElem?_eq_getElem hlt]

theorem State.byteOut_none (h1 : ∀ v, (s.port p).frame ≠ .dataOut v) (h2 : ∀ st, (s.port p).frame ≠ .bufferStream st)
    (h3 : ∀ st, (s.port p).frame ≠ .readStream st) : s.byteOut p = none := by
  cases h : s.byteOut p with
  | none => rfl
  | some b =>
    rcases State.byteOut_frame h with ⟨v, hv⟩ | ⟨st, hst⟩ | ⟨st, hst⟩
    · exact absurd hv (h1 v)
    · exact absurd hst (h2 st)
    · exact absurd hst (h3 st)

/-! ### The levels driven (R135) -/

/-- The lines that carry a byte in an output phase. -/
def State.outWidth (s : State) (p : Port) : Nat := if (s.port p).frame.quadOut then 4 else 1

theorem bitsOut_getElem? {j : Nat} (hs : (s.port p).shift.length = k) (hj : j < s.outWidth p)
    (hlt : k + j < 8) : (s.bitsOut p b)[j]? = some (b.getMsbD (k + j)) := by
  unfold State.bitsOut
  rw [List.getElem?_take_of_lt (by exact hj), List.getElem?_drop, hs, bitsOf_getElem? b _ hlt]

theorem State.driven_single (hb : s.byteOut p = some b) (hs : (s.port p).shift.length = k) (hk : k < 8)
    (hq : (s.port p).frame.quadOut = false) : s.driven p = ⟨none, some (b.getMsbD k), none, none⟩ := by
  have hw : s.outWidth p = 1 := by simp [State.outWidth, hq]
  simp only [State.driven, hb, hq, Bool.false_eq_true, if_false,
    bitsOut_getElem? (b := b) hs (j := 0) (by omega) (by omega), Nat.add_zero]

theorem State.driven_quad (hb : s.byteOut p = some b) (hs : (s.port p).shift.length = k) (hk : k = 0 ∨ k = 4)
    (hq : (s.port p).frame.quadOut = true) : s.driven p =
      ⟨some (b.getMsbD (k + 3)), some (b.getMsbD (k + 2)), some (b.getMsbD (k + 1)), some (b.getMsbD k)⟩ := by
  have hw : s.outWidth p = 4 := by simp [State.outWidth, hq]
  have hbit : ∀ j, j < 4 → (s.bitsOut p b)[j]? = some (b.getMsbD (k + j)) := fun j hj =>
    bitsOut_getElem? hs (by omega) (by omega)
  simp only [State.driven, hb, hq, if_true, hbit 0 (by omega), hbit 1 (by omega), hbit 2 (by omega), hbit 3 (by omega),
    Nat.add_zero]

/-! ### The clocks of a byte -/

theorem State.byteOut_shift (s : State) (p : Port) (x : List Bool) :
    (s.modifyPort p (fun q => { q with shift := x })).byteOut p = s.byteOut p := by
  have hframe : ((s.modifyPort p (fun q => { q with shift := x })).port p).frame = (s.port p).frame := by
    rw [State.port_modifyPort_self]
  have hout : ((s.modifyPort p (fun q => { q with shift := x })).port p).output = (s.port p).output := by
    rw [State.port_modifyPort_self]
  unfold State.byteOut
  rw [hframe, hout]
  rfl

theorem State.deliverByte_shift (s : State) (p : Port) (b : Byte) (x : List Bool) :
    (s.modifyPort p (fun q => { q with shift := x })).deliverByte p b = s.deliverByte p b := by
  have hframe : ((s.modifyPort p (fun q => { q with shift := x })).port p).frame = (s.port p).frame := by
    rw [State.port_modifyPort_self]
  unfold State.deliverByte
  rw [hframe]
  split <;> simp only [State.modifyPort_modifyPort]

/-- The bits clocked out so far of the byte that a port delivers. -/
def State.clockedBits (s : State) (p : Port) (b : Byte) (k : Nat) : State :=
  s.modifyPort p (fun q => { q with shift := (bitsOf b).take k })

theorem State.clockedBits_port (s : State) (p : Port) (b : Byte) (k : Nat) :
    (s.clockedBits p b k).port p = { s.port p with shift := (bitsOf b).take k } := State.port_modifyPort_self ..

theorem State.clockedBits_clockedBits (s : State) (p : Port) (b : Byte) (j k : Nat) :
    (s.clockedBits p b j).clockedBits p b k = s.clockedBits p b k := State.modifyPort_modifyPort ..

/-- One clock of an output phase. -/
theorem pinClock_delivers (hb : s.byteOut p = some b) (hc : (s.port p).csLow = true) (hk : k < 8) (io : IoLines Bool) :
    pinClock p io (s.clockedBits p b k) =
      if k + s.outWidth p < 8 then .next (s.clockedBits p b (k + s.outWidth p)) else .next (s.deliverByte p b) := by
  have hbyte : (s.clockedBits p b k).byteOut p = some b := (State.byteOut_shift ..).trans hb
  have hport := s.clockedBits_port p b k
  have hlow : ((s.clockedBits p b k).port p).csLow = true := by rw [hport]; exact hc
  have hshift : ((s.clockedBits p b k).port p).shift = (bitsOf b).take k := by rw [hport]
  have hframe : ((s.clockedBits p b k).port p).frame = (s.port p).frame := by rw [hport]
  have hbits : (bitsOf b).take k ++ (s.clockedBits p b k).bitsOut p b = (bitsOf b).take (k + s.outWidth p) := by
    unfold State.bitsOut State.outWidth
    rw [hshift, hframe, List.length_take, bitsOf_length, min_eq_left (by omega), ← List.take_add]
  have hlen : ((bitsOf b).take (k + s.outWidth p)).length < 8 ↔ k + s.outWidth p < 8 := by
    rw [List.length_take, bitsOf_length]
    omega
  have hdeliver : (s.clockedBits p b k).deliverByte p b = s.deliverByte p b := State.deliverByte_shift ..
  have hclock : pinClock p io (s.clockedBits p b k) =
      if ((bitsOf b).take (k + s.outWidth p)).length < 8 then
        .next ((s.clockedBits p b k).clockedBits p b (k + s.outWidth p))
      else .next ((s.clockedBits p b k).deliverByte p b) := by
    unfold pinClock
    rw [if_pos hlow]
    rcases State.byteOut_frame hbyte with ⟨v, hv⟩ | ⟨st, hv⟩ | ⟨st, hv⟩
    all_goals
      simp only [hv, hbyte, hshift, hbits]
      rfl
  rw [hclock, hdeliver, State.clockedBits_clockedBits]
  simp only [hlen]

theorem State.outWidth_pos (s : State) (p : Port) : 0 < s.outWidth p := by
  unfold State.outWidth
  split <;> decide

/-- Clocks of an output phase that make no whole byte. -/
theorem runEvents_delivering (hb : s.byteOut p = some b) (hc : (s.port p).csLow = true) (clocks : List (IoLines Bool)) :
    ∀ k, k + clocks.length * s.outWidth p < 8 → runEvents p (clocks.map .clock) (s.clockedBits p b k) =
      .next (s.clockedBits p b (k + clocks.length * s.outWidth p)) := by
  induction clocks with
  | nil => exact fun k _ => by simp
  | cons io clocks ih =>
    intro k hk
    rw [List.length_cons, Nat.succ_mul] at hk
    have hclock := pinClock_delivers hb hc (k := k) (by omega) io
    rw [if_pos (by omega)] at hclock
    have hstep : pinEvent p (.clock io) (s.clockedBits p b k) = .next (s.clockedBits p b (k + s.outWidth p)) := hclock
    rw [List.map_cons, runEvents_cons hstep, ih _ (by omega), List.length_cons, Nat.succ_mul]
    congr 2
    omega

theorem State.clockedBits_zero (b : Byte) (hs : (s.port p).shift = []) : s.clockedBits p b 0 = s :=
  State.modifyPort_eq_self (by rw [List.take_zero, ← hs])

/-- The clocks of a whole byte. -/
theorem runEvents_delivered (hb : s.byteOut p = some b) (hc : (s.port p).csLow = true) (hs : (s.port p).shift = [])
    (hlen : clocks.length = if (s.port p).frame.quadOut then 2 else 8) :
    runEvents p (clocks.map .clock) s = .next (s.deliverByte p b) := by
  have hwhole : clocks.length * s.outWidth p = 8 := by
    unfold State.outWidth
    rw [hlen]
    split <;> rfl
  have hne : clocks ≠ [] := by
    rintro rfl
    simp at hwhole
  obtain ⟨first, last, rfl⟩ : ∃ first last, clocks = first ++ [last] :=
    ⟨_, _, (List.dropLast_append_getLast hne).symm⟩
  have hpos := s.outWidth_pos p
  rw [List.length_append, List.length_singleton, Nat.succ_mul] at hwhole
  have hfirst := runEvents_delivering hb hc first 0 (by omega)
  rw [State.clockedBits_zero b hs, Nat.zero_add] at hfirst
  rw [List.map_append, runEvents_append hfirst, List.map_singleton, runEvents_singleton, pinEvent_clock,
    pinClock_delivers hb hc (by omega), if_neg (by omega)]

/-! ### The delivery of a byte -/

theorem State.deliverByte_view (hf : ∀ st, (s.port p).frame ≠ .readStream st) (hs : (s.port p).shift = []) :
    s.deliverByte p b = s.modifyPort p (fun q => { q with output := q.output ++ [b] }) := by
  unfold State.deliverByte
  split
  · next st h => exact absurd h (hf st)
  · exact State.modifyPort_congr (by rw [← hs])

theorem State.deliverByte_stream (hf : (s.port p).frame = .readStream st) (hs : (s.port p).shift = []) :
    s.deliverByte p b = s.clockBytes p 1 1 := by
  have hself : s.modifyPort p (fun q => { q with shift := [] }) = s := State.modifyPort_eq_self (by rw [← hs])
  simp only [State.deliverByte, hf, hself]

/-- One byte of a stream that brings no check. -/
theorem State.clockOut_one (hf : (s.port p).frame = .readStream st) (hb : s.byteOut p = some b) :
    s.clockOut p st 1 = { (s.modifyPort p (fun q => { q with output := q.output ++ [b] })).setFrame p
      (.readStream { st with current := st.current + 1 }) with
        freeIndex := s.freeIndex + (if st.fill.isNone then 1 else 0) } := by
  have hbytes : s.streamBytes st 1 = [b] := by
    have hlen := s.streamBytes_length st 1
    rw [State.byteOut_readStream hf, Option.some.injEq] at hb
    obtain ⟨x, hx⟩ := List.length_eq_one_iff.1 hlen
    rw [hx] at hb ⊢
    exact congrArg (fun y => [y]) hb
  unfold State.clockOut
  rw [hbytes, State.setFrame, State.modifyPort_modifyPort]
  rfl

/-! ### The bytes of a frame, and its rise -/

/-- A frame with a view, or on a buffer. -/
def FrameState.viewing (f : FrameState) : Prop := (∃ v, f = .dataOut v) ∨ ∃ st, f = .bufferStream st

theorem FrameState.viewing.not_stream {f : FrameState} (h : f.viewing) (st : ReadStream) : f ≠ .readStream st := by
  rcases h with ⟨v, rfl⟩ | ⟨x, rfl⟩ <;> simp

theorem State.byteOut_viewing (h : (s.port p).frame.viewing) : ∃ b, s.byteOut p = some b := by
  rcases h with ⟨v, hv⟩ | ⟨st, hst⟩
  · exact ⟨_, State.byteOut_dataOut hv⟩
  · exact ⟨_, State.byteOut_bufferStream hst⟩

/-- The number of clocks that a byte takes. -/
def FrameState.perByte (f : FrameState) : Nat := if f.quadOut then 2 else 8

/-- The record of delivered bytes. -/
def State.withOutput (s : State) (p : Port) (bytes : List Byte) : State :=
  s.modifyPort p (fun q => { q with output := bytes })

theorem State.withOutput_port (s : State) (p : Port) (bytes : List Byte) :
    (s.withOutput p bytes).port p = { s.port p with output := bytes } := State.port_modifyPort_self ..

/-- The bytes of a view or of a buffer only go to the record. -/
theorem runEvents_viewBytes (n : Nat) : ∀ (clocks : List (IoLines Bool)) (s : State), (s.port p).frame.viewing →
    (s.port p).csLow = true → (s.port p).shift = [] → clocks.length = n * (s.port p).frame.perByte →
    ∃ out, out.length = (s.port p).output.length + n ∧
      runEvents p (clocks.map .clock) s = .next (s.withOutput p out) := by
  induction n with
  | zero =>
    intro clocks s _ _ _ hlen
    rw [Nat.zero_mul, List.length_eq_zero_iff] at hlen
    subst hlen
    exact ⟨(s.port p).output, rfl, congrArg _ (State.modifyPort_eq_self rfl).symm⟩
  | succ n ih =>
    intro clocks s hf hc hs hlen
    obtain ⟨b, hb⟩ := State.byteOut_viewing hf
    have hhead : (clocks.take (s.port p).frame.perByte).length = if (s.port p).frame.quadOut then 2 else 8 := by
      rw [List.length_take, hlen, Nat.succ_mul]
      exact min_eq_left (Nat.le_add_left ..)
    have hstep := (runEvents_delivered hb hc hs hhead).trans (congrArg _ (State.deliverByte_view hf.not_stream hs))
    have hport : (s.modifyPort p (fun q => { q with output := q.output ++ [b] })).port p =
        { s.port p with output := (s.port p).output ++ [b] } := State.port_modifyPort_self ..
    obtain ⟨out, hout, hrun⟩ := ih (clocks.drop (s.port p).frame.perByte)
      (s.modifyPort p (fun q => { q with output := q.output ++ [b] })) (by rw [hport]; exact hf) (by rw [hport]; exact hc)
      (by rw [hport]; exact hs) (by rw [hport, List.length_drop, hlen, Nat.succ_mul, Nat.add_sub_cancel])
    refine ⟨out, ?_, ?_⟩
    · rw [hout, hport, List.length_append, List.length_singleton]
      omega
    · rw [← List.take_append_drop (s.port p).frame.perByte clocks, List.map_append, runEvents_append hstep, hrun,
        State.withOutput, State.modifyPort_modifyPort]
      rfl

/-- The bytes of a read stream, one by one, are its bytes. -/
theorem runEvents_streamBytes (n : Nat) : ∀ (clocks : List (IoLines Bool)) (st : ReadStream) (s : State),
    (s.port p).frame = .readStream st → (s.port p).csLow = true → (s.port p).shift = [] →
    clocks.length = n * (if st.quad then 2 else 8) →
    runEvents p (clocks.map .clock) s = .next (s.clockBytes p n n) := by
  induction n with
  | zero =>
    intro clocks st s _ _ _ hlen
    rw [Nat.zero_mul, List.length_eq_zero_iff] at hlen
    subst hlen
    rfl
  | succ n ih =>
    intro clocks st s hf hc hs hlen
    have hhead : (clocks.take (if st.quad then 2 else 8)).length = if (s.port p).frame.quadOut then 2 else 8 := by
      rw [List.length_take, hlen, Nat.succ_mul, hf]
      exact min_eq_left (Nat.le_add_left ..)
    have hstep := (runEvents_delivered (State.byteOut_readStream hf) hc hs hhead).trans
      (congrArg _ (State.deliverByte_stream hf hs))
    obtain ⟨st', hf', hquad⟩ := State.clockBytes_frame hf 1 1
    obtain ⟨hlow, hshift⟩ := s.clockBytes_lines p 1 1
    have hrun := ih (clocks.drop (if st.quad then 2 else 8)) st' (s.clockBytes p 1 1) hf' (hlow.trans hc)
      (hshift.trans hs) (by rw [hquad, List.length_drop, hlen, Nat.succ_mul, Nat.add_sub_cancel])
    rw [← List.take_append_drop (if st.quad then 2 else 8) clocks, List.map_append, runEvents_append hstep, hrun,
      State.clockBytes_succ hf n]

end Sys2Proof.Machine
end


section
/-! Whole frames with an output phase, to their rise (O11). -/

namespace Sys2Proof.Machine

variable {s t : State} {p : Port} {i : Instr} {st : ReadStream} {v : View} {b : Byte} {k n : Nat}
  {clocks more : List (IoLines Bool)}

/-- The rise of a view or a buffer's frame replaces the record of delivered bytes. -/
theorem State.endOutput_withOutput (hf : (s.port p).frame.viewing) (out : List Byte) (n : Nat) :
    (s.withOutput p out).endOutput p n = s.endOutput p n := by
  have hframe : ((s.withOutput p out).port p).frame = (s.port p).frame := by rw [State.withOutput_port]
  unfold State.endOutput
  rw [hframe]
  rcases hf with ⟨v, hv⟩ | ⟨st, hst⟩
  · simp only [hv]
    cases v <;>
      simp only [State.endView, State.answerNotReady, State.endReadStatus, State.endPopCompletion, State.endReadNotices,
        State.endReadMailbox, State.endFrame, State.respond, State.withOutput, State.modifyPort_modifyPort]
  · have hbytes : (s.withOutput p out).bufferBytes st n = s.bufferBytes st n := rfl
    simp only [hst]
    rw [hbytes]
    simp only [State.endFrame, State.withOutput, State.modifyPort_modifyPort]

/-- Bits that make no whole byte. -/
theorem runEvents_fewMore (hb : s.byteOut p = some b) (hc : (s.port p).csLow = true) (hs : (s.port p).shift = [])
    (hmore : more.length < (s.port p).frame.perByte) :
    runEvents p (more.map .clock) s = .next (s.clockedBits p b (more.length * s.outWidth p)) := by
  have hfew : 0 + more.length * s.outWidth p < 8 := by
    unfold State.outWidth
    unfold FrameState.perByte at hmore
    split at hmore
    · next h => rw [if_pos h]; omega
    · next h => rw [if_neg h]; omega
  have h := runEvents_delivering hb hc more 0 hfew
  rwa [State.clockedBits_zero b hs, Nat.zero_add] at h

/-- The rise, with the bits of a byte in progress. -/
theorem pinRise_clockedBits (hc : (s.port p).csLow = true) (k : Nat) :
    ((s.port p).frame.viewing → pinRise p (s.clockedBits p b k) =
      .next ((s.onLines p false []).endOutput p (s.port p).output.length)) ∧
    (∀ st, (s.port p).frame = .readStream st → pinRise p (s.clockedBits p b k) =
      .next ((s.onLines p false []).endOutput p 0)) := by
  have hport := s.clockedBits_port p b k
  have hback : (s.clockedBits p b k).modifyPort p (fun q => { q with csLow := false, shift := [] }) =
      s.onLines p false [] := State.modifyPort_modifyPort ..
  have hlow : ((s.clockedBits p b k).port p).csLow = true := by rw [hport]; exact hc
  have hframe : ((s.clockedBits p b k).port p).frame = (s.port p).frame := by rw [hport]
  have hout : ((s.clockedBits p b k).port p).output = (s.port p).output := by rw [hport]
  unfold pinRise
  rw [if_pos hlow, hframe, hout, hback]
  refine ⟨fun hf => ?_, fun st hf => ?_⟩
  · rcases hf with ⟨v, hv⟩ | ⟨st, hst⟩
    · simp only [hv]
    · simp only [hst]
  · simp only [hf]

theorem runEvents_output {u : State} (hsent : runEvents p (clocks.map .clock) s = .next t)
    (hmore : runEvents p (more.map .clock) t = .next u) :
    runEvents p ((clocks ++ more).map .clock ++ [.rise]) s = pinRise p u := by
  rw [List.map_append, List.append_assoc, runEvents_append hsent, runEvents_append hmore, runEvents_singleton,
    pinEvent_rise]

section
variable (hc : (s.port p).csLow = true) (hs : (s.port p).shift = [])
include hc hs

/-- The frame of a view or of a buffer, from its output phase to its rise. -/
theorem runEvents_viewFrame (hf : (s.port p).frame.viewing) (hout : (s.port p).output = [])
    (hlen : clocks.length = n * (s.port p).frame.perByte) (hmore : more.length < (s.port p).frame.perByte) :
    runEvents p ((clocks ++ more).map .clock ++ [.rise]) s =
      .next ((s.modifyPort p (fun q => { q with csLow := false })).endOutput p n) := by
  obtain ⟨out, houtlen, hsent⟩ := runEvents_viewBytes n clocks s hf hc hs hlen
  have hport := s.withOutput_port p out
  have hview : ((s.withOutput p out).port p).frame.viewing := by rw [hport]; exact hf
  obtain ⟨b, hb⟩ := State.byteOut_viewing hview
  have hbits := runEvents_fewMore (s := s.withOutput p out) hb (by rw [hport]; exact hc) (by rw [hport]; exact hs)
    (by rw [hport]; exact hmore)
  have hlow : (s.withOutput p out).onLines p false [] =
      (s.modifyPort p (fun q => { q with csLow := false })).withOutput p out := by
    rw [State.onLines, State.withOutput, State.withOutput, State.modifyPort_modifyPort, State.modifyPort_modifyPort]
    exact State.modifyPort_congr (by rw [← hs])
  have hn : ((s.withOutput p out).port p).output.length = n := by
    rw [hport]
    simpa [hout] using houtlen
  rw [runEvents_output hsent hbits, (pinRise_clockedBits (by rw [hport]; exact hc) _).1 hview, hn, hlow,
    State.endOutput_withOutput (by rw [State.port_modifyPort_self]; exact hf)]

/-- The frame of a read stream, from its output phase to its rise. -/
theorem runEvents_streamFrame (hf : (s.port p).frame = .readStream st)
    (hlen : clocks.length = n * (s.port p).frame.perByte) (hmore : more.length < (s.port p).frame.perByte) :
    runEvents p ((clocks ++ more).map .clock ++ [.rise]) s =
      .next ((s.modifyPort p (fun q => { q with csLow := false })).endOutput p n) := by
  have hquads : (s.port p).frame.perByte = if st.quad then 2 else 8 := by
    rw [hf]
    rfl
  have hsent := runEvents_streamBytes n clocks st s hf hc hs (by rw [hlen, hquads])
  obtain ⟨st', hf', hquad⟩ := State.clockBytes_frame hf n n
  obtain ⟨hlow, hshift⟩ := s.clockBytes_lines p n n
  have hbits := runEvents_fewMore (State.byteOut_readStream hf') (hlow.trans hc) (hshift.trans hs) (more := more)
    (by rw [hf', FrameState.perByte, FrameState.quadOut, hquad, ← hquads]; exact hmore)
  have hlines : s.onLines p false [] = s.modifyPort p (fun q => { q with csLow := false }) :=
    State.modifyPort_congr (by rw [← hs])
  have hafter : ((s.clockBytes p n n).onLines p false []) =
      (s.modifyPort p (fun q => { q with csLow := false })).clockBytes p n n := by
    rw [← hlines, State.clockBytes_onLines]
  have hframe : ((s.modifyPort p (fun q => { q with csLow := false })).port p).frame = .readStream st := by
    rw [State.port_modifyPort_self]
    exact hf
  have hframe' : (((s.modifyPort p (fun q => { q with csLow := false })).clockBytes p n n).port p).frame =
      .readStream st' := by
    rw [← hafter, State.onLines_frame]
    exact hf'
  rw [runEvents_output hsent hbits, (pinRise_clockedBits (hlow.trans hc) _).2 st' hf', hafter]
  simp only [State.endOutput, hframe, hframe', State.clockBytes_none]

end

/-- R136: the rise of a port's output frame is its row's. -/
theorem runEvents_outputFrame (hc : (s.port p).csLow = true) (hs : (s.port p).shift = []) (hb : s.byteOut p = some b)
    (hi : Instr.risesWith i p n) (hout : (∀ st, (s.port p).frame ≠ .readStream st) → (s.port p).output = [])
    (hlen : clocks.length = n * (s.port p).frame.perByte) (hmore : more.length < (s.port p).frame.perByte) :
    runEvents p ((clocks ++ more).map .clock ++ [.rise]) s =
      exec i (s.modifyPort p (fun q => { q with csLow := false })) := by
  have hframe : ((s.modifyPort p (fun q => { q with csLow := false })).port p).frame = (s.port p).frame := by
    rw [State.port_modifyPort_self]
  have hrow : (s.port p).frame.viewing ∨ (∃ st, (s.port p).frame = .readStream st) →
      exec i (s.modifyPort p (fun q => { q with csLow := false })) =
        .next ((s.modifyPort p (fun q => { q with csLow := false })).endOutput p n) := fun h => by
    rw [exec_rises_of_frame hi, riseFrame_eq]
    all_goals
      rw [hframe]
      rcases h with (⟨v, h⟩ | ⟨st, h⟩) | ⟨st, h⟩ <;> simp [h]
  have hkinds : (s.port p).frame.viewing ∨ ∃ st, (s.port p).frame = .readStream st :=
    or_assoc.2 (State.byteOut_frame hb)
  rw [hrow hkinds]
  rcases hkinds with hf | ⟨st, hf⟩
  · exact runEvents_viewFrame hc hs hf (hout hf.not_stream) hlen hmore
  · exact runEvents_streamFrame hc hs hf hlen hmore

/-- Settles O11: each byte takes its clocks, and the bytes one after the other are those of the row of the rise. -/
theorem linesCarryOutput : Obligations.LinesCarryOutput := by
  refine ⟨fun p s => ?_, fun p s => ⟨State.driven_of_byteOut_none, fun b k hb hs hk => ⟨?_, ?_⟩⟩,
    fun p b clocks s hb hc hs hlen => ?_, fun i p n clocks more s hi hb hc hs hout => ?_⟩
  · intro n
    refine ⟨fun v hf => ?_, fun o => State.byteOut_unmapped, fun o c u => State.byteOut_mapped, fun st hf => ?_,
      State.byteOut_none⟩
    · rw [State.byteOut_dataOut hf]
      cases v with
      | mailbox content => cases content <;> rfl
      | _ => rfl
    · exact (State.byteOut_readStream hf).trans (congrArg some (s.streamBytes_one st))
  · exact State.driven_single hb hs hk
  · exact fun hq hk' => State.driven_quad hb hs hk' hq
  · have hsent := runEvents_delivered hb hc hs hlen
    refine ⟨fun hf => hsent.trans (congrArg _ (State.deliverByte_view hf hs)), fun st hf => ?_⟩
    have hstream := hsent.trans (congrArg _ (State.deliverByte_stream hf hs))
    refine ⟨fun f hfill => ?_, fun hfill hfar => ?_, fun hfill hnear => ?_⟩
    · have hcount : (if st.fill.isNone then 1 else 0) = 0 := by simp [hfill]
      have hone := State.clockOut_one hf hb
      rw [hcount, Nat.add_zero] at hone
      exact hstream.trans (congrArg _ ((State.clockBytes_clockOut hf (.inl (by simp [hfill]))).trans hone))
    · have hcount : (if st.fill.isNone then 1 else 0) = 1 := by simp [hfill]
      have hone := State.clockOut_one hf hb
      rw [hcount] at hone
      exact hstream.trans (congrArg _ ((State.clockBytes_clockOut hf (.inr hfar)).trans hone))
    · rw [hstream, State.clockBytes_walkStream hf hfill hnear]
      exact (exec_recheck hf hfill hnear).symm
  · intro perByte hlen hmore
    obtain ⟨b, hb⟩ := Option.ne_none_iff_exists'.1 hb
    exact runEvents_outputFrame hc hs hb hi hout hlen hmore

end Sys2Proof.Machine
end
